-- ==== Sys2Proof/Word.lean ====
section
/-!
DEFINITION. The words of the M20: bytes and byte strings. Every Welris-defined format is little-endian (R6).
-/
namespace Sys2Proof

/-- One byte. -/
abbrev Byte := BitVec 8

/-- A byte string in stored or transmitted order. -/
abbrev Bytes := List Byte

/-- A table by number: pairs with strictly rising keys, absent keys at their initial value. -/
abbrev Tab (α : Type) := List (Nat × α)

end Sys2Proof
end

