-- ==== Sys2Proof/Syntax.lean ====
section
/-!
DEFINITION. The commands of the M20: what arrives from outside, and one constructor for each row of the table.

A command carries what the row needs from outside the block: frames with the outcome of their decoding, stamps,
measured values, outcomes of flash and NOR operations. What the block computes, it computes itself.
-/
namespace Sys2Proof

/-! ### Chapters 1 and 2: tick, log, start -/

/-- Why the tick PLL falls to FREE_RUN (R15, R53). -/
inductive LockLossCause where
  | missed | outOfRange
  deriving DecidableEq, Repr

/-- An instant of the time base: PTP seconds and nanoseconds (R363). -/
structure Stamp where
  sec : BitVec 48
  ns  : BitVec 32
  deriving DecidableEq, Repr

/-- The originating input of a command that belongs to the processing of a log: its port and log position
(R46 steps 4 and 5). -/
structure Org where
  port : Nat
  pos  : Nat
  deriving DecidableEq, Repr

/-! ### Chapters 3 and 4: powerline -/

/-- Native frame control without its CRC (R99). -/
structure PlcFc where
  ppduType    : BitVec 2      -- 0 data, 1 short, 2 sounding
  rate        : BitVec 2      -- 3 robust
  symbols     : BitVec 9
  link        : BitVec 12
  mapSet      : Byte
  startStripe : BitVec 3
  startOffset : Byte
  level       : BitVec 4
  deriving DecidableEq, Repr

/-- A native PPDU as the line die hands it over: frame control, decoding outcome, measured values and samples
(R99, R109, R110, R115, R117, R124). -/
structure PpduIn where
  phase      : BitVec 2             -- phase of first detection, 1 to 3
  fcOk       : Bool                 -- frame-control CRC holds
  fc         : PlcFc
  strongest  : BitVec 2
  cwTotal    : Byte
  cwFailed   : Byte
  arrival    : BitVec 32            -- stamp of SYNCM
  samples    : List (List Int)      -- payload samples of L1, L2, L3 (empty: not received)
  groupError : List (Nat × Nat)     -- per payload symbol: loaded groups, groups whose error rose by 6 dB or more
  phaseGain  : List Byte            -- for L1, L2, L3 (R118)
  meanSnr    : Byte
  snr        : List (List Byte)     -- 52-byte blocks of the stripes of STRIPE_MASK, ascending
  psdu       : List Byte
  deriving DecidableEq, Repr

/-- An IEEE 1901.2 PPDU as received on the phase of highest preamble correlation (R129). -/
structure Ieee1901In where
  phase    : BitVec 2
  arrival  : BitVec 32
  ok       : Bool
  meanSnr  : Byte
  psdu     : List Byte
  deriving DecidableEq, Repr

/-- ROUTE of a native frame (R137): repeaters from the originator, each with its quality nibble. -/
structure PlcRoute where
  next    : Nat
  entries : List (BitVec 12 × BitVec 4)
  deriving DecidableEq, Repr

/-- A native PPDU of the log as stage 3 decodes it: receive descriptor and link frame header (R124, R137). -/
structure PlcRx where
  org        : Org
  tick       : BitVec 48          -- tick of arrival
  mode       : Nat                -- 0 data, 2 sounding
  payloadOk  : Bool               -- every codeword decoded
  robust     : Bool
  mapMiss    : Bool
  stepSymbol : Option Nat
  link       : BitVec 12
  mapSet     : Byte
  rate       : BitVec 2
  stripeMask : Byte
  startStripe : BitVec 3
  startOffset : Byte
  snr        : List (List Byte)   -- 52-byte blocks of the stripes of STRIPE_MASK, ascending
  meanSnr    : Byte
  phaseGain  : List Byte
  retry      : Bool
  dsn        : Byte
  dest       : BitVec 12
  srcAddr    : BitVec 12
  route      : Option PlcRoute
  deriving DecidableEq, Repr

/-- A neighbour's entry in a NEIGHBOUR_REPORT (R139). -/
structure NeighbourEntry where
  neighbour : BitVec 12
  quality   : BitVec 32
  deriving DecidableEq, Repr

/-- A transmit report of the powerline (R153). -/
structure PlcTxReport where
  org       : Org
  tick      : BitVec 48          -- tick whose log holds it
  ackReq    : Bool
  robust    : Bool
  launched  : Bool
  withdrawn : Bool
  link      : BitVec 12
  dsn       : Byte
  attempt   : Nat
  queueId   : BitVec 16
  startAt   : BitVec 32
  endAt     : BitVec 32
  stripe    : BitVec 3
  acked     : Bool               -- log T or T+1 holds an acknowledgement that meets R154
  deriving DecidableEq, Repr

/-- The IEEE 1901.2 MAC frames of the supported subset (R163). -/
inductive MacKind where
  | data | command | beaconRequest
  | toneMapResponse (tones : BitVec 24) (modulation : BitVec 8)
  | toneMapRequest
  | meshFrame
  deriving DecidableEq, Repr

/-- A fragment of an RFC 4944 datagram (R163, R180): tag, size, and whether it completes the datagram. -/
structure Fragment where
  tag      : BitVec 16
  size     : Nat
  complete : Bool
  deriving DecidableEq, Repr

/-! ### Chapter 5: radio -/

/-- A radio channel: its number in the 200 kHz plan or, when `wide`, in the 400 kHz plan (R167, R186). -/
structure Chan where
  wide : Bool
  num  : Nat
  deriving DecidableEq, Repr

/-- The kinds of MAC frame the radio carries (R180). -/
inductive RadioKind where
  | data | command | other
  deriving DecidableEq, Repr

/-- A frame a context has demodulated (R172, R181, R182, R186). -/
structure RadioIn where
  ctx        : Nat
  fcsOk      : Bool
  modeSwitch : Bool
  kind       : RadioKind
  version2   : Bool                  -- frame version 0b10
  ackReq     : Bool
  pan        : BitVec 16
  dest       : Option (BitVec 64)    -- none: the short broadcast address
  eui        : BitVec 64
  dsn        : Byte
  fc         : Option (BitVec 32)    -- security frame counter of a secured frame
  rssiA      : Byte
  rssiB      : Byte
  sfdEnd     : Stamp
  freqOffset : BitVec 16
  psdu       : List Byte             -- without its FCS
  mesh       : Bool
  frag       : Option Fragment
  deriving DecidableEq, Repr

/-- A radio receive descriptor of the log with what stage 3 decodes of its frame (R186, R196, R200, R202). -/
structure RadioRx where
  chan     : Chan
  mode     : Nat
  rssi     : Byte                    -- stronger port
  portB    : Bool
  arrival  : Stamp
  link     : Nat                     -- 0xFFF: none
  ackUs    : Nat
  length   : Nat                     -- PSDU_LENGTH
  offsetUs : Int
  hwDup    : Bool
  hwReplay : Bool
  version2 : Bool
  eui      : BitVec 64
  mesh     : Bool
  frag     : Option Fragment
  deriving DecidableEq, Repr

/-- A radio transmit report of the log (R187). -/
structure RadioTxReport where
  org       : Org
  tick      : BitVec 48
  ackReq    : Bool
  acked     : Bool
  launched  : Bool
  withdrawn : Bool
  mailbox   : Bool
  ccaFailed : Bool
  link      : BitVec 12
  dsn       : Byte
  attempt   : Nat
  queueId   : BitVec 16
  chan      : Chan
  mode      : Nat
  startAt   : Stamp
  airtimeUs : Nat
  deriving DecidableEq, Repr

/-! ### Chapter 7: ingest and the ledger -/

/-- A DLMS date-time: seconds since 2020-01-01 as written, deviation in minutes to UTC where specified, and whether
every field from year to second is specified (R248). -/
structure DateTime where
  seconds   : Int
  deviation : Option Int
  complete  : Bool
  deriving DecidableEq, Repr

/-- The value of a DLMS attribute as its type gives it (R247). -/
inductive DlmsData where
  | int (v : Int)
  | octets (b : List Byte)
  | dateTime (d : DateTime)
  | other
  deriving DecidableEq, Repr

/-- A value of a response or notification (R247, R248). -/
structure DlmsValue where
  cls     : Nat
  obis    : BitVec 48              -- value group A first
  attr    : Nat
  value   : DlmsData
  capture : Option DateTime        -- capture time of a class 4 value
  signed  : Bool                   -- carried by a general-signing APDU (R269)
  signature : Option (Nat × Nat)   -- its signature
  deriving DecidableEq, Repr

/-- An upstream frame as decoded and decrypted in stage 3 (R242, R250, R251). -/
structure Upstream where
  org     : Org
  eui     : BitVec 64
  dsn     : Byte
  retry   : Bool
  fc      : Option (BitVec 32)
  secured : Bool
  tagOk   : Bool                   -- the authentication tag verified under the derived meter key
  keyGen  : Bool
  hwDup   : Bool
  radio   : Option RadioRx
  deriving DecidableEq, Repr

/-- An entry of a BATCH (R275): meter, the child's record fields, payload. -/
structure BatchEntry where
  eui       : BitVec 64
  code      : BitVec 12
  value     : BitVec 64
  meterTime : BitVec 32
  status    : BitVec 16
  flags     : BitVec 16
  sequence  : BitVec 32
  payload   : List Byte
  deriving DecidableEq, Repr

/-- A BATCH from a child (R275). -/
structure BatchIn where
  org       : Org
  version   : Nat
  addr      : BitVec 128
  ethPort   : BitVec 2
  eui       : BitVec 64
  ledger    : BitVec 64
  batchSeq  : BitVec 32
  firstSeq  : BitVec 32
  consistent : Bool               -- lengths and counts of the layout agree
  entries   : List BatchEntry
  trailer   : Option (BitVec 48 × List Byte)
  deriving DecidableEq, Repr

/-- The fault-injection draws of one frame (R577): drop, corrupt and reorder outcomes are decided from the link's
LFSR; the frame's link and whether the line or the bearer's own check has failed it (R581). -/
structure FaultDraw where
  link   : Nat
  failed : Bool
  deriving DecidableEq, Repr

/-! ### Chapter 8: metrology -/

/-- One output of a metrology channel's decimator before offset and gain: the modulator cycle at which its frame
ends, the filter result, and whether the modulator's overload detector tripped (R288, R289, R291). -/
structure ChanOutput where
  frameEnd : Nat
  result   : Int
  overload : Bool
  deriving DecidableEq, Repr

/-! ### Chapter 9: flash store -/

/-- A NAND as found at format: LUNs, blocks in each, pages in a block, grains in a page, factory defects by block
number (R318, R358). -/
structure NandIn where
  luns    : Nat
  blocks  : Nat
  pages   : Nat
  grains  : Nat
  defects : List Nat
  deriving DecidableEq, Repr

/-! ### Chapter 10: time -/

/-- A full stamp: seconds, nanoseconds and fraction in units of 2^-16 ns (R363). -/
structure FullStamp where
  sec  : BitVec 48
  ns   : BitVec 32
  frac : BitVec 16
  deriving DecidableEq, Repr

/-- The data set an Announce message carries (R370, R371). -/
structure AnnounceData where
  priority1 : Nat
  clockClass : Nat
  accuracy  : Nat
  variance  : Nat
  priority2 : Nat
  grandmaster : BitVec 64
  steps     : Nat
  sender    : BitVec 64
  utcOffset : BitVec 8
  utcValid  : Bool
  leap61    : Bool
  timeSource : Nat
  deriving DecidableEq, Repr

/-- The kinds of PTP exchange (R375). -/
inductive DelayKind where
  | requestResponse | peerToPeer
  deriving DecidableEq, Repr

/-! ### Chapter 11: keys, life cycle, tamper -/

/-- Actions of a life-cycle request (R397, R398). -/
inductive LcAction where
  | advance | quarantine | returnUnit | scrap | writeRoot | revoke | enableTamper
  deriving DecidableEq, Repr

/-- A life-cycle request (R399, R484): fields, the signed bytes and the signature. -/
structure LcRequest where
  action    : LcAction
  units     : Nat                 -- units named, 1 or 2
  euiA      : BitVec 64
  euiB      : BitVec 64
  boundary  : BitVec 48
  root      : Nat                 -- code of the signing root
  signerKey : List Byte           -- 64 bytes, x then y, little-endian
  target    : Nat                 -- root code of WRITE_ROOT and REVOKE
  wrapped   : List Byte           -- the wrapped root secret of WRITE_ROOT, 40 bytes
  digest    : List Byte           -- the signer digest of WRITE_ROOT, 32 bytes
  sources   : BitVec 10           -- of ENABLE_TAMPER
  body      : List Byte           -- the request as received, signature excluded
  r         : Nat
  s         : Nat
  deriving DecidableEq, Repr

/-! ### Chapter 12: twin operation -/

/-- The header fields of a received Holham frame that the link layer checks (R430, R431). -/
structure HolhamHdr where
  crcOk : Bool
  retry : Bool
  seq   : BitVec 32
  tick  : BitVec 48
  deriving DecidableEq, Repr

/-- The payload of a HELLO frame (R432). -/
structure HelloIn where
  eui         : BitVec 64
  ledgerId    : BitVec 64
  role        : Nat          -- 0 starting, 1 primary, 2 mirror, 3 FENCED
  procVersion : BitVec 16
  fwDigest    : BitVec 64
  imageDigest : List Byte    -- first 8 bytes
  durable     : BitVec 48
  deriving DecidableEq, Repr

/-- The payload of a STATUS frame (R432). -/
structure StatusIn where
  standby     : Nat
  isMatch     : Bool
  fillDone    : Bool
  procVersion : BitVec 16
  lastSeal    : BitVec 48
  deriving DecidableEq, Repr

/-- The payload of LOG_END (R432). -/
structure LogEndIn where
  entries  : Nat
  bytes    : Nat
  logHash  : List Byte
  prevHash : List Byte
  first    : Bool
  last     : Bool
  m        : BitVec 48
  deriving DecidableEq, Repr

/-- Causes of a link loss (R429, R431, R453). -/
inductive LinkDownCause where
  | blockLock | silence | overflow
  deriving DecidableEq, Repr

/-- The payload of XFER_END (R432). -/
structure XferEndIn where
  entries   : Nat
  bytes     : Nat
  hash      : List Byte      -- STREAM_HASH
  sealBody  : List Byte      -- 144 bytes
  signature : List Byte      -- 64 bytes, or zeros
  deriving DecidableEq, Repr

/-- What a FILL frame carries for one tick (R449): seal body and signature, event leaves, and reading records with their
payloads. -/
structure FillSlot where
  sealBody  : List Byte
  signature : List Byte
  events    : List (List Byte)
  records   : List (List Byte × Option (List Byte))
  deriving DecidableEq, Repr

/-! ### Chapters 13 and 14: Beysyn and updates -/

/-- A Beysyn message of the log, its TYPE being the command's (R458, R463). -/
structure Msg where
  org       : Org
  session   : Nat
  version   : Byte
  requestId : BitVec 32
  body      : List Byte
  deriving DecidableEq, Repr

/-- A DTLS client as the engine sees it (R455, R458). -/
structure ClientIn where
  addr    : BitVec 128
  udpPort : BitVec 16
  ethPort : BitVec 2
  key     : List Byte          -- 64 bytes in the layout of SIGNER_KEY
  proof   : Bool               -- the handshake's own signatures and options held
  deriving DecidableEq, Repr

/-- The server a DTLS client connection of the M20 was for (R462). -/
inductive ServerRole where
  | parent | witness
  deriving DecidableEq, Repr

/-- A meter's reply to a campaign request (R506). -/
inductive CampaignReply where
  | refused
  | done
  | blockSize (n : Nat)
  | missing (blocks : List Nat)
  | status (n : Nat)
  deriving DecidableEq, Repr

/-- A meter's reply to a tariff request (R510). -/
inductive TariffReply where
  | refused
  | done
  | name (n : List Byte)
  deriving DecidableEq, Repr

/-! ### The log, the boundary, processing and the start -/

/-- An entry of an input log (R22), its body unpadded, with the upstream frame that stage 3 decodes from it. -/
structure LogEntry where
  port    : BitVec 9
  kind    : BitVec 8
  arrival : BitVec 32
  body    : List Byte
  frame   : Option Upstream
  deriving DecidableEq, Repr

/-- What the line die and the time base hand over at a boundary (R12, R17, R289 to R295). -/
structure BoundaryIn where
  stamp    : Stamp                     -- PTP time of the boundary
  lengthNs : Nat                       -- length of the ending tick
  fitNs    : Int                       -- boundary minus fitted crossing
  negative : Bool                      -- the new tick begins at a negative-going crossing
  outputs  : List (List ChanOutput)    -- by metrology channel
  noise    : List (List Byte)          -- noise level of L1 to L3 by stripe, -v/2 dBFS (R125)
  peerLow  : Bool                      -- TWIN_PEER_N asserted at the boundary (R425)
  deriving DecidableEq, Repr

/-- What processing takes from outside the log (R51). -/
structure ProcessIn where
  durationUs : Nat
  deriving DecidableEq, Repr

/-- The boot header of the NOR, its checks of R563 having been made on programming (R562). -/
structure BootHeader where
  procVersion : BitVec 16
  build       : BitVec 32
  fwDigest    : List Byte
  fwSize      : Nat
  sound       : Bool          -- every check of R563 holds
  deriving DecidableEq, Repr

/-- The conditions of one start (R57, R541, R561, R564). -/
structure StartIn where
  region   : BitVec 2
  boot     : Option BootHeader       -- boot header written by the board's programming access
  image    : Option (List Byte)      -- image region written by the board's programming access
  pfailLow : Bool                    -- PFAIL_N asserted when reset would release
  bootMs   : Nat
  nand     : NandIn                  -- the NAND attached
  mapLost  : Bool                    -- a map structure reads back unreadable (R351)
  stateLost : Option (Nat × Nat)     -- PGA and KIND of a state grain that cannot be read (R351)
  tamper   : Option Nat              -- tamper source that trips before the end of key unlock (R418)
  peerLow  : Bool                    -- TWIN_PEER_N asserted
  deriving DecidableEq, Repr

/-- What was lost on the reference (R558). -/
inductive ClockFault where
  | reference | pll
  deriving DecidableEq, Repr

/-- The commands, in the order of the opcode table. -/
inductive Instr where
  /-- ZERO_CROSSING (R15). -/
  | zeroCrossing (intervalNs : Option Nat)
  /-- CROSSING_MISSED (R15). -/
  | crossingMissed (cause : LockLossCause)
  /-- TICK_BOUNDARY (R12). -/
  | tickBoundary (b : BoundaryIn)
  /-- PROCESS_LOG (R28). -/
  | processLog (p : ProcessIn)
  /-- INPUT_APPEND (R19). -/
  | inputAppend (e : LogEntry) (draw : Option FaultDraw)
  /-- DEFERRED_INPUT_ENTRY (R23). -/
  | deferredInputEntry
  /-- PIN_EVENT (R382). -/
  | pinEvent (pin : Fin 4) (active : Bool) (stamp : FullStamp)
  /-- PIN_STUCK (R25). -/
  | pinStuck (pin : Fin 4)
  /-- LAST_GASP (R48). -/
  | lastGasp (stage : Nat) (deciMs : BitVec 16)
  /-- PFAIL_RETURN (R568). -/
  | pfailReturn
  /-- BROWN_OUT_RESET (R553). -/
  | brownOutReset
  /-- RESET_PIN (R559). -/
  | resetPin (low : Bool)
  /-- CLOCK_LOSS (R558). -/
  | clockLoss (fault : ClockFault)
  /-- WATCHDOG_RESET (R559). -/
  | watchdogReset
  /-- OVERRUN_RESET (R559). -/
  | overrunReset
  /-- PFAIL_AT_START (R561). -/
  | pfailAtStart (ms : Nat)
  /-- START (R57). -/
  | start (b : StartIn)
  /-- HELLO_WAIT_TIMEOUT (R433). -/
  | helloWaitTimeout (peerLow : Bool)
  /-- JOURNAL_WRITE (R81). -/
  | journalWrite (ok : Bool)
  /-- PREAMBLE_DETECT (R117). -/
  | preambleDetect (phase : BitVec 2)
  /-- PPDU_RECEIVE (R124). -/
  | ppduReceive (p : PpduIn)
  /-- IEEE1901_PPDU_RECEIVE (R129). -/
  | ieee1901PpduReceive (p : Ieee1901In)
  /-- PLC_PPDU_START (R144). -/
  | plcPpduStart (stripe : BitVec 3) (offsetNs : Nat) (launchGapNs : Option Nat)
  /-- PLC_PPDU_END (R153). -/
  | plcPpduEnd (at_ : BitVec 32) (withdrawn : Bool)
  /-- PLC_LAUNCH (R147). -/
  | plcLaunch (stripe : BitVec 3) (offsetNs : Nat) (late : Bool)
  /-- BEACON_QUEUE (R148). -/
  | beaconQueue (org : Org)
  /-- DATA (R158). -/
  | data (r : PlcRx) (u : Upstream)
  /-- OVERHEARD_FRAME (R158). -/
  | overheardFrame (r : PlcRx)
  /-- JOIN_REQUEST (R149). -/
  | joinRequest (r : PlcRx) (eui : BitVec 64) (cls : BitVec 8) (caps : BitVec 8)
  /-- NEIGHBOUR_REPORT (R159). -/
  | neighbourReport (r : PlcRx) (u : List NeighbourEntry)
  /-- SOUNDING_RESPONSE (R112). -/
  | soundingResponse (r : PlcRx) (downlink : List Byte)
  /-- LEAVE (R151). -/
  | leave (r : PlcRx)
  /-- PLC_TRANSMIT_REPORT (R154). -/
  | plcTransmitReport (t : PlcTxReport)
  /-- PLC_QUEUE_AGE_WITHDRAW (R155). -/
  | plcQueueAgeWithdraw (org : Org) (queueId : BitVec 16)
  /-- SOUNDING_TIMEOUT (R157). -/
  | soundingTimeout (org : Org)
  /-- SOUNDING_DUE (R157). -/
  | soundingDue (org : Org) (link : BitVec 12)
  /-- PLC_FRAG_TIMEOUT (R163). -/
  | plcFragTimeout (org : Org) (eui : BitVec 64)
  /-- IEEE1901_MAC_FRAME (R163). -/
  | ieee1901MacFrame (org : Org) (phase : BitVec 2) (eui : BitVec 64) (seq : Byte) (retry : Bool) (secured : Bool) (kind : MacKind) (frag : Option Fragment) (u : Upstream)
  /-- RADIO_DETECTION (R174). -/
  | radioDetection (chan : Chan) (mode : Nat) (portB : Bool) (at_ : Stamp)
  /-- RADIO_SYNC_LOST (R175). -/
  | radioSyncLost (ctx : Nat)
  /-- RADIO_FRAME_RECEIVE (R186). -/
  | radioFrameReceive (f : RadioIn)
  /-- MAILBOX_FRAME_SEND (R198). -/
  | mailboxFrameSend (link : BitVec 12) (at_ : Stamp)
  /-- RADIO_TX_START (R178). -/
  | radioTxStart (queueId : BitVec 16) (at_ : Stamp) (busy : Bool)
  /-- CCA_DEFER_EXPIRY (R192). -/
  | ccaDeferExpiry (queueId : BitVec 16) (at_ : Stamp) (busy : Bool)
  /-- DWELL_LEDGER_RETRY (R189). -/
  | dwellLedgerRetry (queueId : BitVec 16) (at_ : Stamp)
  /-- RADIO_ACK_WINDOW_CLOSE (R185). -/
  | radioAckWindowClose (chain : Bool) (acked : Bool) (framePending : Bool)
  /-- RADIO_LAUNCH (R199). -/
  | radioLaunch (at_ : Stamp)
  /-- RADIO_TRANSMIT_REPORT (R197). -/
  | radioTransmitReport (t : RadioTxReport)
  /-- RADIO_QUEUE_AGE_WITHDRAW (R197). -/
  | radioQueueAgeWithdraw (org : Org) (queueId : BitVec 16)
  /-- SLEEPER_WINDOW_CLOSE (R202). -/
  | sleeperWindowClose (org : Org) (link : BitVec 12) (wake : BitVec 32)
  /-- SLEEPER_SEARCH_CLOSE (R202). -/
  | sleeperSearchClose (org : Org) (link : BitVec 12) (wake : BitVec 32)
  /-- RADIO_FRAG_TIMEOUT (R180). -/
  | radioFragTimeout (org : Org) (eui : BitVec 64)
  /-- ENDPOINT_AGING_SWEEP (R224). -/
  | endpointAgingSweep
  /-- CHILD_AGING (R227). -/
  | childAging
  /-- HEAD_END_DATAGRAM (R229). -/
  | headEndDatagram (org : Org) (dest : BitVec 128) (datagram : List Byte)
  /-- HISTORY_FETCH (R255). -/
  | historyFetch (slot : BitVec 20) (code : BitVec 12) (readable : Bool)
  /-- DATA_NOTIFICATION (R248). -/
  | dataNotification (u : Upstream) (time : Option DateTime) (values : List DlmsValue) (apdu : List Byte)
  /-- GET_RESPONSE (R247). -/
  | getResponse (u : Upstream) (refused : Bool) (values : List DlmsValue) (apdu : List Byte)
  /-- COLLECTION_READ_DUE (R267). -/
  | collectionReadDue (slot : BitVec 20)
  /-- COLLECTION_READ_TIMEOUT (R267). -/
  | collectionReadTimeout (slot : BitVec 20)
  /-- SERIAL_REPLY_TIMEOUT (R249). -/
  | serialReplyTimeout (portB : Bool)
  /-- BATCH (R277). -/
  | batch (b : BatchIn)
  /-- TRIBUTARY_ACK (R279). -/
  | tributaryAck (version : Nat) (status : Nat) (watermark : BitVec 32) (ledger : BitVec 64)
  /-- DOWN (R281). -/
  | down (org : Org) (dest : BitVec 128) (datagram : List Byte)
  /-- TRIBUTARY_SEND (R279). -/
  | tributarySend
  /-- TRIBUTARY_RESEND (R279). -/
  | tributaryResend
  /-- TRIBUTARY_BUSY_PAUSE_END (R279). -/
  | tributaryBusyPauseEnd
  /-- BALANCE_EVALUATION (R304). -/
  | balanceEvaluation (feeder : Nat)
  /-- TICK_PACKAGE_WRITE (R337). -/
  | tickPackageWrite
  /-- SEAL_DURABLE (R337). -/
  | sealDurable
  /-- CHECKPOINT_BEGIN (R340). -/
  | checkpointBegin
  /-- CHECKPOINT_COMPLETE (R340). -/
  | checkpointComplete
  /-- HISTORY_WRITEBACK (R339). -/
  | historyWriteback (slot : BitVec 20)
  /-- GRAIN_PROGRAM_FAILED (R354). -/
  | grainProgramFailed (block : Nat)
  /-- BLOCK_ERASE_FAILED (R354). -/
  | blockEraseFailed (block : Nat)
  /-- BLOCK_REFRESH (R347). -/
  | blockRefresh (block : Nat)
  /-- BLOCK_EXPIRY (R344). -/
  | blockExpiry
  /-- EARLY_EXPIRY (R345). -/
  | earlyExpiry
  /-- GARBAGE_COLLECTION (R346). -/
  | garbageCollection
  /-- COARSE_LOG_MERGE (R357). -/
  | coarseLogMerge
  /-- RECORDER_GRAIN_PROGRAM (R523). -/
  | recorderGrainProgram (ok : Bool)
  /-- PTP_SYNC (R375). -/
  | ptpSync (port : Nat) (t1 : FullStamp) (t2 : FullStamp) (corr : Int) (logInterval : Int)
  /-- PTP_DELAY_EXCHANGE (R375). -/
  | ptpDelayExchange (port : Nat) (t1 t2 t3 t4 : FullStamp)
  /-- ANNOUNCE (R371). -/
  | announce (port : Nat) (a : AnnounceData) (wellFormed : Bool)
  /-- ANNOUNCE_TIMEOUT (R370). -/
  | announceTimeout (port : Nat)
  /-- PTP_MASTER_SEND (R372). -/
  | ptpMasterSend (port : Nat) (sync : Bool) (departure : FullStamp)
  /-- PPS_EDGE (R378). -/
  | ppsEdge (stamp : FullStamp)
  /-- PPS_TIMEOUT (R378). -/
  | ppsTimeout
  /-- HOLDOVER_EXPIRY (R378). -/
  | holdoverExpiry
  /-- RTC_WRITE (R365). -/
  | rtcWrite
  /-- LEAP_SECOND_END (R366). -/
  | leapSecondEnd
  /-- TRIGGER_PULSE (R384). -/
  | triggerPulse (output : Nat) (boundary : Bool)
  /-- SERIAL_LAUNCH (R380). -/
  | serialLaunch (portB : Bool) (at_ : Stamp)
  /-- TIME_SET_RESPONSE (R387). -/
  | timeSetResponse (org : Org) (slot : BitVec 20) (result : Byte)
  /-- TIME_SET_TIMEOUT (R387). -/
  | timeSetTimeout (org : Org) (slot : BitVec 20)
  /-- TAMPER_ALARM (R418). -/
  | tamperAlarm (source : Nat) (active : Bool)
  /-- FUSE_BURN (R400). -/
  | fuseBurn (completed : Bool)
  /-- VAULT_WRITE (R414). -/
  | vaultWrite (ok : Bool)
  /-- VBAT_SAMPLE (R572). -/
  | vbatSample (millivolts : Nat)
  /-- VBAT_POWER_ON (R570). -/
  | vbatPowerOn
  /-- HOLHAM_LINK_UP (R429). -/
  | holhamLinkUp
  /-- HOLHAM_LINK_DOWN (R429). -/
  | holhamLinkDown (cause : LinkDownCause)
  /-- HOLHAM_RETRANSMIT_TIMEOUT (R431). -/
  | holhamRetransmitTimeout
  /-- HOLHAM_ACK (R431). -/
  | holhamAck (h : HolhamHdr) (seqAck : BitVec 32)
  /-- HELLO (R433). -/
  | hello (h : HolhamHdr) (p : HelloIn)
  /-- LOG (R434). -/
  | log (h : HolhamHdr) (entries : List LogEntry)
  /-- LOG_END (R434). -/
  | logEnd (h : HolhamHdr) (p : LogEndIn)
  /-- LEASE (R439). -/
  | lease (h : HolhamHdr)
  /-- STATUS (R438). -/
  | status (h : HolhamHdr) (p : StatusIn) (arrival : BitVec 32)
  /-- REJOIN (R447). -/
  | rejoin (h : HolhamHdr) (durable : BitVec 48) (arrival : BitVec 32)
  /-- HANDOVER (R445). -/
  | handover (h : HolhamHdr) (transfer : Bool) (sealHash : List Byte)
  /-- ANSWER (R445). -/
  | answer (h : HolhamHdr) (accept : Bool) (cause : Nat)
  /-- XFER (R448). -/
  | xfer (h : HolhamHdr) (payload : List Byte)
  /-- XFER_END (R447). -/
  | xferEnd (h : HolhamHdr) (p : XferEndIn)
  /-- FILL (R449). -/
  | fill (h : HolhamHdr) (slots : List FillSlot) (done : Bool)
  /-- MIRROR_LOG_INCOMPLETE (R436). -/
  | mirrorLogIncomplete
  /-- ORPHAN_DETECT (R439). -/
  | orphanDetect
  /-- LEASE_LAPSE (R439). -/
  | leaseLapse
  /-- WITNESS_QUERY (R439). -/
  | witnessQuery
  /-- WITNESS_ANSWER (R442). -/
  | witnessAnswer (silent : Bool)
  /-- HEARTBEAT_ACK (R439). -/
  | heartbeatAck
  /-- HEARTBEAT_ACK_TIMEOUT (R441). -/
  | heartbeatAckTimeout
  /-- TERM_BEGIN (R443). -/
  | termBegin
  /-- PEER_CONFLICT (R426). -/
  | peerConflict (peer : BitVec 64)
  /-- SWAP_ANSWER_TIMEOUT (R445). -/
  | swapAnswerTimeout
  /-- TRANSFER_SWAP_TIMEOUT (R446). -/
  | transferSwapTimeout
  /-- DTLS_CLIENT_HELLO (R455). -/
  | dtlsClientHello (ethPort : BitVec 2) (addr : BitVec 128) (udpPort : BitVec 16) (cookie : Bool)
  /-- DTLS_HANDSHAKE_COMPLETE (R458). -/
  | dtlsHandshakeComplete (c : ClientIn) (arrival : BitVec 32)
  /-- DTLS_CLOSE_NOTIFY (R457). -/
  | dtlsCloseNotify (session : Nat) (arrival : BitVec 32)
  /-- SESSION_IDLE_TIMEOUT (R457). -/
  | sessionIdleTimeout (session : Nat) (arrival : BitVec 32)
  /-- DTLS_CLIENT_RETRY (R462). -/
  | dtlsClientRetry (role : ServerRole) (key : List Byte)
  /-- IPV6_REASSEMBLY_TIMEOUT (R454). -/
  | ipv6ReassemblyTimeout
  /-- SEAL_READ (R469). -/
  | sealRead (m : Msg)
  /-- RECORD_READ (R470). -/
  | recordRead (m : Msg)
  /-- PAYLOAD_READ (R471). -/
  | payloadRead (m : Msg)
  /-- PROOF_READ (R472). -/
  | proofRead (m : Msg)
  /-- ENDPOINT_GET (R473). -/
  | endpointGet (m : Msg)
  /-- SET_LIST (R474). -/
  | setList (m : Msg)
  /-- LENS_OBSERVE (R475). -/
  | lensObserve (m : Msg)
  /-- LENS_RECORDER (R527). -/
  | lensRecorder (m : Msg)
  /-- LENS_CLEAR (R530). -/
  | lensClear (m : Msg)
  /-- SUBSCRIBE (R479). -/
  | subscribe (m : Msg)
  /-- UNSUBSCRIBE (R479). -/
  | unsubscribe (m : Msg)
  /-- SEAL_NOTICE (R479). -/
  | sealNotice (session : Nat)
  /-- STORE_QUERY_REPLY (R467). -/
  | storeQueryReply (session : Nat)
  /-- WRITE (R478). -/
  | write (m : Msg)
  /-- STAGE_OPEN (R480). -/
  | stageOpen (m : Msg)
  /-- STAGE_ADD (R481). -/
  | stageAdd (m : Msg)
  /-- STAGE_CHECK (R482). -/
  | stageCheck (m : Msg)
  /-- STAGE_COMMIT (R43). -/
  | stageCommit (m : Msg)
  /-- STAGE_DISCARD (R480). -/
  | stageDiscard (m : Msg)
  /-- SET_ABORT (R43). -/
  | setAbort (m : Msg)
  /-- LIFECYCLE (R399). -/
  | lifecycle (m : Msg)
  /-- SWAP_REQUEST (R485). -/
  | swapRequest (m : Msg)
  /-- UPDATE_OPEN (R495). -/
  | updateOpen (m : Msg)
  /-- UPDATE_DATA (R495). -/
  | updateData (m : Msg)
  /-- UPDATE_VERIFY (R497). -/
  | updateVerify (m : Msg)
  /-- UPDATE_ACTIVATE (R495). -/
  | updateActivate (m : Msg)
  /-- UPDATE_ABORT (R495). -/
  | updateAbort (m : Msg)
  /-- UPDATE_LOCK_LAPSE (R495). -/
  | updateLockLapse
  /-- UPDATE_DATA_WRITE (R496). -/
  | updateDataWrite (ok : Bool)
  /-- UPDATE_REBUILD (R497). -/
  | updateRebuild
  /-- CAMPAIGN_READBACK (R498). -/
  | campaignReadback
  /-- DEAD_WINDOW_OPEN (R499). -/
  | deadWindowOpen (ms : Nat)
  /-- NOR_REWRITE (R500). -/
  | norRewrite (ms : Nat) (ok : Bool)
  /-- CAMPAIGN_BLOCK_MULTICAST (R507). -/
  | campaignBlockMulticast (org : Org)
  /-- CAMPAIGN_METER_REPLY (R506). -/
  | campaignMeterReply (org : Org) (slot : BitVec 20) (reply : CampaignReply)
  /-- CAMPAIGN_DEADLINE (R505). -/
  | campaignDeadline
  /-- CAMPAIGN_CONFIRM (R506). -/
  | campaignConfirm (slot : BitVec 20)
  /-- ACTIVATE_AT_PASSED (R506). -/
  | activateAtPassed
  /-- METER_REQUEST_TIMEOUT (R508). -/
  | meterRequestTimeout (org : Org) (slot : BitVec 20)
  /-- TARIFF_METER_REPLY (R510). -/
  | tariffMeterReply (org : Org) (slot : BitVec 20) (reply : TariffReply)
  /-- TARIFF_CONFIRM (R510). -/
  | tariffConfirm (slot : BitVec 20)
  /-- REORDER_BOUNDARY_RELEASE (R580). -/
  | reorderBoundaryRelease
  /-- TAP_RESET (R586). -/
  | tapReset
  /-- EXTEST (R587). -/
  | extest
  /-- SAMPLE_PRELOAD (R586). -/
  | samplePreload (balls : List Bool) (preload : List Bool)
  /-- IDCODE (R586). -/
  | idcode
  /-- CLAMP (R587). -/
  | clamp
  /-- HIGHZ (R587). -/
  | highz
  /-- TEST_RESET (R586). -/
  | testReset
  /-- BYPASS (R586). -/
  | bypass
  /-- DTLS_KEY_UPDATE (R455). -/
  | dtlsKeyUpdate (session : Nat)
  /-- DELAY_REQ (R370). -/
  | delayReq (port : Nat) (arrival : FullStamp) (requester : BitVec 64)
  /-- PDELAY_REQ (R372). -/
  | pdelayReq (port : Nat) (arrival : FullStamp) (departure : FullStamp)
  /-- DELAY_REQ_SEND (R374). -/
  | delayReqSend (port : Nat) (departure : FullStamp)
  /-- XTAL32K_STOP (R571). -/
  | xtal32kStop
  /-- NEIGHBOUR_SOLICITATION (R437). -/
  | neighbourSolicitation (ethPort : BitVec 2) (target : BitVec 128)
  /-- HOLHAM_IDLE_ACK (R429). -/
  | holhamIdleAck
  /-- ETHERNET_LINK_CHANGE (R73). -/
  | ethernetLinkChange (ethPort : BitVec 2) (up : Bool)
  deriving DecidableEq, Repr

end Sys2Proof
end

