-- ==== Sys2Proof/Machine/Bytes.lean ====
section
/-!
DEFINITION. Byte order, bit fields, tables by number, and the cyclic redundancy checks of the spec
(R6, R8, R64, R99, R214).
-/
namespace Sys2Proof.Machine

open Sys2Proof

/-- The `n` low bytes of `v`, least significant first (R6). -/
def le : Nat → Nat → Bytes
  | 0, _ => []
  | n + 1, v => BitVec.ofNat 8 v :: le n (v / 256)

/-- The number that a little-endian byte string spells (R6). -/
def ofLe : Bytes → Nat
  | [] => 0
  | b :: bs => b.toNat + 256 * ofLe bs

/-- The `n` low bytes of `v`, most significant first (network order). -/
def be (n v : Nat) : Bytes := (le n v).reverse

/-- The number that a big-endian byte string spells (R610). -/
def ofBe (bs : Bytes) : Nat := ofLe bs.reverse

/-- `len` bytes of `bs` from offset `off`, short where `bs` ends. -/
def slice (bs : Bytes) (off len : Nat) : Bytes := (bs.drop off).take len

/-- `n` zero bytes. -/
def zeros (n : Nat) : Bytes := List.replicate n 0

/-- `bs` padded with zero bytes to a multiple of `m`. -/
def padTo (m : Nat) (bs : Bytes) : Bytes := bs ++ zeros ((m - bs.length % m) % m)

/-- `bs` cut or padded with zero bytes to exactly `n` bytes. -/
def fit (n : Nat) (bs : Bytes) : Bytes := bs.take n ++ zeros (n - bs.length)

/-- One bit as a number. -/
def bit (b : Bool) : Nat := if b then 1 else 0

/-- Bits [lo+width-1:lo] of `v`. -/
def field (v lo width : Nat) : Nat := v / 2 ^ lo % 2 ^ width

/-- Bit `i` of `v`. -/
def testBit (v i : Nat) : Bool := v / 2 ^ i % 2 = 1

/-- `n` saturated at the largest value of `w` bits. -/
def sat (w n : Nat) : Nat := min n (2 ^ w - 1)

/-- ⌈a / b⌉. -/
def ceilDiv (a b : Nat) : Nat := (a + (b - 1)) / b

/-- `v` as the 32-bit two's complement of a signed number (R518). -/
def int32 (v : Int) : Nat := (BitVec.ofInt 32 v).toNat

/-! ### Tables by number -/

/-- The entry of key `k`. -/
def tget {α : Type} : Tab α → Nat → Option α
  | [], _ => none
  | (j, a) :: t, k => if j = k then some a else if k < j then none else tget t k

/-- The entry of key `k`, or `d` where none is listed. -/
def tgetD {α : Type} (t : Tab α) (k : Nat) (d : α) : α := (tget t k).getD d

/-- `t` with the entry of key `k` written, keys kept in rising order. -/
def tput {α : Type} : Tab α → Nat → α → Tab α
  | [], k, a => [(k, a)]
  | (j, b) :: t, k, a =>
    if j = k then (k, a) :: t else if k < j then (k, a) :: (j, b) :: t else (j, b) :: tput t k a

/-- `t` without key `k`. -/
def tdel {α : Type} : Tab α → Nat → Tab α
  | [], _ => []
  | (j, b) :: t, k => if j = k then t else if k < j then (j, b) :: t else (j, b) :: tdel t k

/-- The keys of a table rise strictly. -/
def twf {α : Type} : Tab α → Bool
  | [] => true
  | (j, _) :: t => (match t with | [] => true | (k, _) :: _ => decide (j < k)) && twf t

/-- The lowest key at or above `n` that a rising list of keys does not hold. -/
def lowestGap : List Nat → Nat → Nat
  | [], n => n
  | k :: ks, n => if k = n then lowestGap ks (n + 1) else if k < n then lowestGap ks n else n

/-! ### Cyclic redundancy checks -/

/-- `n` shifts of a reflected CRC register with polynomial `poly`. -/
def crcShift (poly : BitVec 32) : Nat → BitVec 32 → BitVec 32
  | 0, r => r
  | n + 1, r => crcShift poly n (if r.getLsbD 0 then (r >>> 1) ^^^ poly else r >>> 1)

/-- A reflected 32-bit CRC with initial value and final XOR of all ones. -/
def crcReflected (poly : BitVec 32) (bs : Bytes) : BitVec 32 :=
  bs.foldl (fun r b => crcShift poly 8 (r ^^^ b.zeroExtend 32)) 0xFFFFFFFF#32 ^^^ 0xFFFFFFFF#32

/-- The CRC-32 of R64, polynomial 0x04C1_1DB7 reflected. -/
def crc32 (bs : Bytes) : BitVec 32 := crcReflected 0xEDB88320#32 bs

/-- The CRC-32C of R214, polynomial 0x1EDC_6F41 reflected. -/
def crc32c (bs : Bytes) : BitVec 32 := crcReflected 0x82F63B78#32 bs

/-- `n` shifts of the CRC-16 register of frame control (R99). -/
def crc16Shift : Nat → BitVec 16 → BitVec 16
  | 0, r => r
  | n + 1, r => crc16Shift n (if r.getLsbD 15 then (r <<< 1) ^^^ 0x1021#16 else r <<< 1)

/-- The CRC-16 of frame control: polynomial 0x1021, initial value 0xFFFF, no reflection, no final XOR (R99). -/
def crc16 (bs : Bytes) : BitVec 16 :=
  bs.foldl (fun r b => crc16Shift 8 (r ^^^ BitVec.ofNat 16 (256 * b.toNat))) 0xFFFF#16

end Sys2Proof.Machine
end

