-- ==== Sys2Proof/Machine/Crypto.lean ====
section
/-!
DEFINITION. The published algorithms the spec names: SHA-256 (R31, R272), HMAC and RFC 6979 (R38), ECDSA over P-256
(R38, R64), AES with its key schedule, CMAC and the RFC 3394 unwrap (R394, R406).
-/
namespace Sys2Proof.Machine

open Sys2Proof

/-! ### SHA-256 -/

/-- The round constants of SHA-256. -/
def shaK : List (BitVec 32) :=
  [0x428a2f98, 0x71374491, 0xb5c0fbcf, 0xe9b5dba5, 0x3956c25b, 0x59f111f1, 0x923f82a4, 0xab1c5ed5,
   0xd807aa98, 0x12835b01, 0x243185be, 0x550c7dc3, 0x72be5d74, 0x80deb1fe, 0x9bdc06a7, 0xc19bf174] ++
  [0xe49b69c1, 0xefbe4786, 0x0fc19dc6, 0x240ca1cc, 0x2de92c6f, 0x4a7484aa, 0x5cb0a9dc, 0x76f988da,
   0x983e5152, 0xa831c66d, 0xb00327c8, 0xbf597fc7, 0xc6e00bf3, 0xd5a79147, 0x06ca6351, 0x14292967] ++
  [0x27b70a85, 0x2e1b2138, 0x4d2c6dfc, 0x53380d13, 0x650a7354, 0x766a0abb, 0x81c2c92e, 0x92722c85,
   0xa2bfe8a1, 0xa81a664b, 0xc24b8b70, 0xc76c51a3, 0xd192e819, 0xd6990624, 0xf40e3585, 0x106aa070] ++
  [0x19a4c116, 0x1e376c08, 0x2748774c, 0x34b0bcb5, 0x391c0cb3, 0x4ed8aa4a, 0x5b9cca4f, 0x682e6ff3,
   0x748f82ee, 0x78a5636f, 0x84c87814, 0x8cc70208, 0x90befffa, 0xa4506ceb, 0xbef9a3f7, 0xc67178f2]

/-- The initial hash value of SHA-256. -/
def shaInit : List (BitVec 32) :=
  [0x6a09e667, 0xbb67ae85, 0x3c6ef372, 0xa54ff53a, 0x510e527f, 0x9b05688c, 0x1f83d9ab, 0x5be0cd19]

/-- The message schedule, latest word first, grown by `n` words. -/
def shaSchedule : Nat → List (BitVec 32) → List (BitVec 32)
  | 0, w => w
  | n + 1, w =>
    let x := w.getD 1 0
    let y := w.getD 14 0
    let s1 := x.rotateRight 17 ^^^ x.rotateRight 19 ^^^ (x >>> 10)
    let s0 := y.rotateRight 7 ^^^ y.rotateRight 18 ^^^ (y >>> 3)
    shaSchedule n ((s1 + w.getD 6 0 + s0 + w.getD 15 0) :: w)

/-- One round of SHA-256 on the working variables. -/
def shaRound (v : List (BitVec 32)) (kw : BitVec 32 × BitVec 32) : List (BitVec 32) :=
  match v with
  | [a, b, c, d, e, f, g, h] =>
    let s1 := e.rotateRight 6 ^^^ e.rotateRight 11 ^^^ e.rotateRight 25
    let ch := (e &&& f) ^^^ (~~~e &&& g)
    let t1 := h + s1 + ch + kw.1 + kw.2
    let s0 := a.rotateRight 2 ^^^ a.rotateRight 13 ^^^ a.rotateRight 22
    let mj := (a &&& b) ^^^ (a &&& c) ^^^ (b &&& c)
    [t1 + (s0 + mj), a, b, c, d + t1, e, f, g]
  | _ => v

/-- The big-endian words of a byte string. -/
def beWords : Nat → Bytes → List (BitVec 32)
  | 0, _ => []
  | n + 1, bs => BitVec.ofNat 32 (ofBe (bs.take 4)) :: beWords n (bs.drop 4)

/-- The compression of one 64-byte block. -/
def shaBlock (h : List (BitVec 32)) (blk : Bytes) : List (BitVec 32) :=
  let w := (shaSchedule 48 (beWords 16 blk).reverse).reverse
  let v := (shaK.zip w).foldl shaRound h
  List.zipWith (· + ·) h v

/-- All blocks of a padded message. -/
def shaBlocks : Nat → List (BitVec 32) → Bytes → List (BitVec 32)
  | 0, h, _ => h
  | n + 1, h, bs => shaBlocks n (shaBlock h (bs.take 64)) (bs.drop 64)

/-- SHA-256. -/
def sha256 (m : Bytes) : Bytes :=
  let p := m ++ [0x80#8] ++ zeros ((119 - m.length % 64) % 64) ++ be 8 (8 * m.length)
  (shaBlocks (p.length / 64) shaInit p).flatMap fun x => be 4 x.toNat

/-- HMAC with SHA-256. -/
def hmac (key m : Bytes) : Bytes :=
  let k := fit 64 (if key.length ≤ 64 then key else sha256 key)
  sha256 (k.map (· ^^^ 0x5C#8) ++ sha256 (k.map (· ^^^ 0x36#8) ++ m))

/-! ### P-256 -/

/-- The field prime of P-256. -/
def p256p : Nat := 0xffffffff00000001000000000000000000000000ffffffffffffffffffffffff
/-- The group order of P-256. -/
def p256n : Nat := 0xffffffff00000000ffffffffffffffffbce6faada7179e84f3b9cac2fc632551
/-- The coefficient b of P-256. -/
def p256b : Nat := 0x5ac635d8aa3a93e7b3ebbd55769886bc651d06b0cc53b0f63bce3c3e27d2604b
/-- The base point of P-256. -/
def p256g : Nat × Nat :=
  (0x6b17d1f2e12c4247f8bce6e563a440f277037d812deb33a0f4a13945d898c296,
   0x4fe342e2fe1a7f9b8ee7eb4a7c0f9e162bce33576b315ececbb6406837bf51f5)

/-- `b ^ e mod m` over the low `n` bits of `e`. -/
def powMod (m : Nat) : Nat → Nat → Nat → Nat
  | 0, _, _ => 1 % m
  | n + 1, b, e =>
    let r := powMod m n (b * b % m) (e / 2)
    if e % 2 = 1 then b * r % m else r

/-- The inverse of `a` modulo the prime `m`. -/
def invMod (m a : Nat) : Nat := powMod m 256 (a % m) (m - 2)

/-- Point addition; `none` is the point at infinity. -/
def pointAdd (p q : Option (Nat × Nat)) : Option (Nat × Nat) :=
  match p, q with
  | none, q => q
  | p, none => p
  | some (x1, y1), some (x2, y2) =>
    if x1 = x2 ∧ (y1 + y2) % p256p = 0 then none
    else
      let l := if x1 = x2
        then (3 * x1 * x1 + (p256p - 3)) * invMod p256p (2 * y1) % p256p
        else (y2 + p256p - y1) * invMod p256p (x2 + p256p - x1) % p256p
      let x3 := (l * l + 2 * p256p - x1 - x2) % p256p
      some (x3, (l * (x1 + p256p - x3) + p256p - y1) % p256p)

/-- `k` times a point, over the low `n` bits of `k`. -/
def pointMul : Nat → Nat → Option (Nat × Nat) → Option (Nat × Nat)
  | 0, _, _ => none
  | n + 1, k, p =>
    let r := pointMul n (k / 2) (pointAdd p p)
    if k % 2 = 1 then pointAdd p r else r

/-- The public key of a private key. -/
def publicKey (d : Nat) : Nat × Nat := (pointMul 256 d (some p256g)).getD (0, 0)

/-- A point lies on the curve. -/
def onCurve (x y : Nat) : Bool :=
  decide (x < p256p ∧ y < p256p ∧ y * y % p256p = (x * x * x + (p256p - 3) * x + p256b) % p256p)

/-- ECDSA P-256 verification over a 32-byte hash. -/
def ecdsaVerify (x y : Nat) (hash : Bytes) (r s : Nat) : Bool :=
  if onCurve x y ∧ 0 < r ∧ r < p256n ∧ 0 < s ∧ s < p256n then
    let w := invMod p256n s
    let z := ofBe (hash.take 32)
    match pointAdd (pointMul 256 (z * w % p256n) (some p256g)) (pointMul 256 (r * w % p256n) (some (x, y))) with
    | none => false
    | some (vx, _) => vx % p256n == r
  else false

/-- The candidate nonces of RFC 6979 with SHA-256, at most `n` of them, until one is in range. -/
def rfc6979Loop : Nat → Bytes → Bytes → Nat
  | 0, _, _ => 1
  | n + 1, k, v =>
    let v := hmac k v
    let c := ofBe v
    if 0 < c ∧ c < p256n then c
    else
      let k := hmac k (v ++ [0#8])
      rfc6979Loop n k (hmac k v)

/-- The deterministic nonce of RFC 6979 with SHA-256 (R38). -/
def rfc6979 (d : Nat) (hash : Bytes) : Nat :=
  let x := be 32 d ++ be 32 (ofBe (hash.take 32) % p256n)
  let v := List.replicate 32 0x01#8
  let k := hmac (zeros 32) (v ++ [0#8] ++ x)
  let v := hmac k v
  let k := hmac k (v ++ [1#8] ++ x)
  rfc6979Loop 8 k (hmac k v)

/-- The ECDSA P-256 signature of a 32-byte hash with the nonce of RFC 6979 (R38). -/
def ecdsaSign (d : Nat) (hash : Bytes) : Nat × Nat :=
  let k := rfc6979 d hash
  let r := (publicKey k).1 % p256n
  (r, invMod p256n k * (ofBe (hash.take 32) + r * d) % p256n)

/-! ### AES, CMAC and key unwrap -/

/-- Doubling in the field of AES. -/
def xtime (b : Byte) : Byte := if b.getLsbD 7 then (b <<< 1) ^^^ 0x1B#8 else b <<< 1

/-- The product of two bytes in the field of AES, over `n` bits of the second. -/
def gmul : Nat → Byte → Byte → Byte
  | 0, _, _ => 0
  | n + 1, a, b => (if b.getLsbD 0 then a else 0) ^^^ gmul n (xtime a) (b >>> 1)

/-- The inverse in the field of AES, as the 254th power. -/
def ginv (a : Byte) : Byte :=
  let m := gmul 8
  let a2 := m a a
  let a3 := m a2 a
  let a12 := m (m a3 a3) (m a3 a3)
  let a15 := m a12 a3
  let a240 := m (m (m (m a15 a15) (m a15 a15)) (m (m a15 a15) (m a15 a15)))
    (m (m (m a15 a15) (m a15 a15)) (m (m a15 a15) (m a15 a15)))
  m (m a240 a12) a2

/-- The S-box of AES. -/
def sbox (a : Byte) : Byte :=
  let i := ginv a
  i ^^^ i.rotateLeft 1 ^^^ i.rotateLeft 2 ^^^ i.rotateLeft 3 ^^^ i.rotateLeft 4 ^^^ 0x63#8

/-- The inverse S-box of AES. -/
def sboxInv (b : Byte) : Byte := ginv (b.rotateLeft 1 ^^^ b.rotateLeft 3 ^^^ b.rotateLeft 6 ^^^ 0x05#8)

/-- XOR of two byte strings of one length. -/
def xorBytes (a b : Bytes) : Bytes := List.zipWith (· ^^^ ·) a b

/-- The words of the AES key schedule, latest first, grown by `n` words with `nk` words of key; `i` is the next
word's number and `rc` the next round constant. -/
def aesExpand (nk : Nat) : Nat → Nat → Byte → List Bytes → List Bytes
  | 0, _, _, w => w
  | n + 1, i, rc, w =>
    let prev := w.headD []
    let back := w.getD (nk - 1) []
    if i % nk = 0 then
      let t := (prev.drop 1 ++ prev.take 1).map sbox
      aesExpand nk n (i + 1) (xtime rc) (xorBytes back (xorBytes t [rc, 0, 0, 0]) :: w)
    else if nk > 6 ∧ i % nk = 4 then aesExpand nk n (i + 1) rc (xorBytes back (prev.map sbox) :: w)
    else aesExpand nk n (i + 1) rc (xorBytes back prev :: w)

/-- The words of a key, four bytes each. -/
def keyWords : Nat → Bytes → List Bytes
  | 0, _ => []
  | n + 1, bs => bs.take 4 :: keyWords n (bs.drop 4)

/-- The round keys of a list of key words. -/
def roundKeys : Nat → List Bytes → List Bytes
  | 0, _ => []
  | n + 1, w => (w.take 4).flatten :: roundKeys n (w.drop 4)

/-- The round keys of AES-128 (16-byte key) and AES-256 (32-byte key). -/
def aesKeys (key : Bytes) : List Bytes :=
  let nk := key.length / 4
  let words := (aesExpand nk (4 * (nk + 7) - nk) nk 1#8 (keyWords nk key).reverse).reverse
  roundKeys (nk + 7) words

/-- ShiftRows, or its inverse with `step` 13 in place of 5. -/
def shiftRows (step : Nat) (s : Bytes) : Bytes := (List.range 16).map fun i => s.getD (step * i % 16) 0

/-- A column of four bytes times a circulant matrix of the AES field. -/
def mixColumn (m : Bytes) (c : Bytes) : Bytes :=
  (List.range 4).map fun r =>
    (List.range 4).foldl (fun acc j => acc ^^^ gmul 8 (c.getD j 0) (m.getD ((j + 4 - r) % 4) 0)) 0

/-- MixColumns with the given first row. -/
def mixColumns (m : Bytes) (s : Bytes) : Bytes :=
  (List.range 4).flatMap fun c => mixColumn m (slice s (4 * c) 4)

/-- AES encryption of one block under round keys. -/
def aesRounds : List Bytes → Bytes → Bytes
  | [], s => s
  | [k], s => xorBytes (shiftRows 5 (s.map sbox)) k
  | k :: ks, s => aesRounds ks (xorBytes (mixColumns [2, 3, 1, 1] (shiftRows 5 (s.map sbox))) k)

/-- AES encryption of one block. -/
def aesEnc (key blk : Bytes) : Bytes :=
  match aesKeys key with
  | [] => blk
  | k :: ks => aesRounds ks (xorBytes blk k)

/-- AES decryption of one block under round keys from the last to the first. -/
def aesInvRounds : List Bytes → Bytes → Bytes
  | [], s => s
  | [k], s => xorBytes ((shiftRows 13 s).map sboxInv) k
  | k :: ks, s => aesInvRounds ks (mixColumns [14, 11, 13, 9] (xorBytes ((shiftRows 13 s).map sboxInv) k))

/-- AES decryption of one block. -/
def aesDec (key blk : Bytes) : Bytes :=
  match (aesKeys key).reverse with
  | [] => blk
  | k :: ks => aesInvRounds ks (xorBytes blk k)

/-- Doubling of a 128-bit block in the field of CMAC. -/
def cmacDouble (b : Bytes) : Bytes :=
  let v := BitVec.ofNat 128 (ofBe b)
  be 16 ((if v.getLsbD 127 then (v <<< 1) ^^^ 0x87#128 else v <<< 1).toNat)

/-- The CBC chain of CMAC over whole blocks before the last. -/
def cmacChain (key : Bytes) : Nat → Bytes → Bytes → Bytes
  | 0, x, _ => x
  | n + 1, x, m => cmacChain key n (aesEnc key (xorBytes x (m.take 16))) (m.drop 16)

/-- AES-CMAC. -/
def cmac (key m : Bytes) : Bytes :=
  let k1 := cmacDouble (aesEnc key (zeros 16))
  let n := (m.length - 1) / 16
  let x := cmacChain key n (zeros 16) m
  let last := m.drop (16 * n)
  aesEnc key (xorBytes x (if last.length = 16 then xorBytes last k1
    else xorBytes (fit 16 (last ++ [0x80#8])) (cmacDouble k1)))

/-- One pass of the RFC 3394 unwrap over the registers, last to first; `t` is the step number. -/
def unwrapPass (key : Bytes) : Nat → Bytes → List Bytes → List Bytes → Bytes × List Bytes
  | _, a, [], done => (a, done)
  | t, a, r :: rs, done =>
    let b := aesDec key (xorBytes a (be 8 t) ++ r)
    unwrapPass key (t - 1) (b.take 8) rs (b.drop 8 :: done)

/-- The passes of the RFC 3394 unwrap, `j` of them left. -/
def unwrapPasses (key : Bytes) : Nat → Bytes → List Bytes → Bytes × List Bytes
  | 0, a, rs => (a, rs)
  | j + 1, a, rs =>
    let (a', rs') := unwrapPass key (rs.length * (j + 1)) a rs.reverse []
    unwrapPasses key j a' rs'

/-- The 8-byte registers of a byte string. -/
def words64 : Nat → Bytes → List Bytes
  | 0, _ => []
  | n + 1, bs => bs.take 8 :: words64 n (bs.drop 8)

/-- The RFC 3394 unwrap: the plain value where the integrity check holds (R406). -/
def keyUnwrap (key wrapped : Bytes) : Option Bytes :=
  let n := wrapped.length / 8 - 1
  let (a, rs) := unwrapPasses key 6 (wrapped.take 8) (words64 n (wrapped.drop 8))
  if a = List.replicate 8 0xA6#8 then some rs.flatten else none

/-- One pass of the RFC 3394 wrap, first register to last. -/
def wrapPass (key : Bytes) : Nat → Bytes → List Bytes → Bytes × List Bytes
  | _, a, [] => (a, [])
  | t, a, r :: rs =>
    let b := aesEnc key (a ++ r)
    let (a', rest) := wrapPass key (t + 1) (xorBytes (b.take 8) (be 8 t)) rs
    (a', b.drop 8 :: rest)

/-- The passes of the RFC 3394 wrap from pass `j`, `n` of them left. -/
def wrapPasses (key : Bytes) : Nat → Nat → Bytes → List Bytes → Bytes × List Bytes
  | 0, _, a, rs => (a, rs)
  | n + 1, j, a, rs =>
    let (a', rs') := wrapPass key (rs.length * j + 1) a rs
    wrapPasses key n (j + 1) a' rs'

/-- The RFC 3394 wrap, used for key values that leave in wrapped form (R406). -/
def keyWrap (key plain : Bytes) : Bytes :=
  let (a, rs) := wrapPasses key 6 0 (List.replicate 8 0xA6#8) (words64 (plain.length / 8) plain)
  a ++ rs.flatten

end Sys2Proof.Machine
end

