-- ==== Sys2Proof/Config.lean ====
section
/-!
DEFINITION. What one part fixes and what the spec leaves open: constants of the shipped firmware, and free values.
A free value is an opaque constant: no proof can see what it is.
-/
namespace Sys2Proof.Config

/-- Free random words of the crypto block's random source (R412, R456), by draw. (DESIGN CHOICE, log 5) -/
opaque freeWord : Nat → BitVec 32

/-- Free ephemeral P-256 private keys (R456), by draw. (DESIGN CHOICE, log 5) -/
opaque freeKey : Nat → Nat

/-- Processing version of the shipped firmware (R450). (DESIGN CHOICE, log 4) -/
opaque procVersion : BitVec 16

/-- SHA-256 of the shipped firmware image (R512, R562). (DESIGN CHOICE, log 4) -/
opaque firmwareDigest : List (BitVec 8)

/-- The bytes of the firmware image that a digest names, where the model has not rebuilt it itself (R491, R512).
(DESIGN CHOICE, log 4) -/
opaque firmwareImage : List (BitVec 8) → List (BitVec 8)

/-- The two vendor update digests that the firmware of a given digest carries (R492). (DESIGN CHOICE, log 4) -/
opaque vendorDigests : List (BitVec 8) → List (List (BitVec 8))

/-- Welris build number of the shipped firmware (R512). (DESIGN CHOICE, log 4) -/
opaque firmwareBuild : BitVec 32

/-- The state grain that holds an object, by block, kind and index, within the state area: the layout is internal (R326).
(DESIGN CHOICE, log 57) -/
opaque stateGrain : Nat → Nat → Nat → Nat

/-- Block-table grains of a checkpoint, at most 256: the layout is internal (R341). (DESIGN CHOICE, log 57) -/
opaque blockTableGrains : Nat

/-- Extras grains beside the tails of a checkpoint: the layout is internal (R340). (DESIGN CHOICE, log 57) -/
opaque extrasGrains : Nat

/-- The boot header as shipped: sound, with the shipped firmware's identity (R562). (DESIGN CHOICE, log 4) -/
def factoryBoot : BootHeader :=
  { procVersion := procVersion, build := firmwareBuild, fwDigest := firmwareDigest, fwSize := 0x400000, sound := true }

end Sys2Proof.Config
end

