-- ==== Sys2Proof/Machine/State.lean ====
section
/-!
DEFINITION. The state of the M20 as plain data, its reasons to stop, and the state right after reset.

One structure for each block of the spec. `cov` holds exactly the objects of R34; `view` is the same state as of the
answering seal; `snaps` keeps the states that a restart may recover. A field of type `Rc` is one that a read clears
(R9, R10). Registers with a reset value in the spec start at it; the others start at the values that the assumption log
names.
-/
namespace Sys2Proof.Machine

open Sys2Proof

/-- Why the machine stops with a fault. -/
inductive Fault where
  /-- Raised by START where a valid image is a misuse that R609 gathers, after which the behaviour is undefined (R5, R71), with
  the number of that rule. Safe: it only stops. -/
  | undefinedCase (rule : Nat)
  deriving DecidableEq, Repr

/-- Why a command has no meaning. -/
inductive Refusal where
  /-- Raised by the dispatcher for a command that is not modelled yet. Safe: it only stops. -/
  | notModelled (mnemonic : String)
  deriving DecidableEq, Repr

/-! ### The tick, the log and the seal (chapter 1) -/

/-- The lock state of the tick PLL, coded as in the seal (R15, R29). -/
inductive LockState where
  | freeRun | acquiring | locked
  deriving DecidableEq, Repr

/-- A field that is read and then cleared (access code RC of R9): what has accumulated up to the answering seal,
and what later ticks added (R10). -/
structure Rc (w : Nat) where
  sealed : BitVec w
  later  : BitVec w
  deriving DecidableEq, Repr

/-- The tick PLL (R15 to R18, R51). -/
structure Pll where
  lock       : LockState
  intervals  : List Nat        -- intervals measured since reset, in ns, latest first, at most 8
  run        : Nat             -- consecutive valid crossings in ACQUIRING
  steering   : Bool
  phase60    : Nat             -- place in the 208,333/208,333/208,334 pattern
  stripeNs   : Nat
  tickNs     : Nat             -- predicted length of the tick in progress
  prevLen    : BitVec 32       -- length of the previous tick in 200 ns units
  events     : List (BitVec 16 × List (BitVec 32))   -- lock changes of the tick in progress
  lockLosses : Rc 8
  deriving DecidableEq, Repr

/-- The input log of one tick (R19 to R23). -/
structure InputLog where
  tick      : BitVec 48
  entries   : List LogEntry    -- log order
  startLock : LockState        -- lock state during the tick before
  curLock   : LockState        -- lock state of the tick itself
  start     : Stamp            -- PTP time of boundary T-1
  sync      : BitVec 32        -- synchronisation status word at the tick's start (R367)
  deferred  : Bool             -- holds an input deferred under R23
  lastGasp  : Bool             -- the tick ended at a PFAIL_N edge (R48)
  events    : List (BitVec 16 × List (BitVec 32))   -- lock changes seen by this log's processing
  deriving DecidableEq, Repr

/-- A closed or building seal: body fields, hash and signature (R29 to R38). -/
structure Seal where
  tick        : BitVec 48
  flags       : BitVec 8
  lock        : BitVec 8
  start       : Stamp
  readLeaves  : BitVec 32
  eventLeaves : BitVec 32
  merkleRoot  : List Byte
  stateDigest : List Byte
  prevHash    : List Byte
  epoch       : BitVec 32
  ledgerId    : BitVec 64
  sig         : Option (Nat × Nat)
  hash        : List Byte
  deriving DecidableEq, Repr

/-! ### Beysyn (chapter 13) -/

/-- A seal subscription (R479). -/
structure Subscription where
  requestId  : BitVec 32
  signedOnly : Bool
  next       : BitVec 48       -- lowest tick still to be notified
  deriving DecidableEq, Repr

/-- A Beysyn session as processing takes it from the logs (R457, R458, R487). -/
structure Session where
  addr    : BitVec 128
  udpPort : BitVec 16
  ethPort : BitVec 2
  digest  : List Byte          -- KEY_DIGEST
  cursor  : Nat                -- recorder cursor (R526)
  replies : List (BitVec 32 × List Byte)   -- most recent first, at most 16 (R468)
  sub     : Option Subscription
  ended   : Option (BitVec 48) -- log whose processing withdrew its access (R461)
  deriving DecidableEq, Repr

/-- A staging item: KIND and its body, padding excluded (R483). -/
structure Item where
  kind : Byte
  body : List Byte
  deriving DecidableEq, Repr

/-- An open staging session (R480). -/
structure Staging where
  session : Nat
  items   : List Item
  deriving DecidableEq, Repr

/-- A pending staged set (R35, R43). -/
structure PendingSet where
  boundary : BitVec 48
  commit   : BitVec 48
  items    : List Item
  deriving DecidableEq, Repr

/-- A session of the DTLS engine (R455, R457). (DESIGN CHOICE, log 110) -/
structure DtlsSession where
  addr    : BitVec 128
  udpPort : BitVec 16
  ethPort : BitVec 2
  digest  : List Byte
  generation : Nat             -- key updates answered
  keyed   : Bool               -- its keys stand; zeroisation overwrites them (R419)
  deriving DecidableEq, Repr

/-- A Tributary client that the engine has accepted (R274). -/
structure TribClient where
  addr    : BitVec 128
  ethPort : BitVec 2
  digest  : List Byte
  deriving DecidableEq, Repr

/-- An IPv6 datagram in reassembly (R454): its addresses and identification as received, its unfragmentable part, the
fragments that have arrived and its length once the last one is known. -/
structure Reassembly where
  key   : List Byte
  head  : List Byte
  next  : Byte
  parts : List (Nat × List Byte)   -- ascending by offset
  total : Option Nat
  deriving DecidableEq, Repr

/-- A store query whose reply has not left (R467). -/
structure StoreQuery where
  session : Nat
  tick    : BitVec 48
  reply   : List Byte
  deriving DecidableEq, Repr

/-- The Beysyn block. -/
structure Beysyn where
  dtls       : Tab DtlsSession     -- sessions of the DTLS engine
  handshakes : Nat
  tribClients : List TribClient
  ephemeral  : Option Nat          -- the generated key of R456: the index of its free value
  witnessUp  : Bool
  parentUp   : Bool
  retryParent  : Bool              -- a retry is due 10 s after a refused connection
  retryWitness : Bool
  reassembly : List Reassembly     -- oldest first, at most 32
  sessions   : Tab Session
  own        : Tab Session         -- a mirror's sessions of its own, of its standby log (R437)
  staging    : Tab Staging         -- by STAGE_ID
  queries    : List StoreQuery     -- oldest first
  clear      : Option (Nat × List Byte)   -- the LENS_CLEAR accepted in this log: session, KEY_DIGEST
  alert      : BitVec 8            -- ALERT_LATCH (R52)
  mark       : BitVec 48           -- EXPORT_MARK
  messages   : Rc 16
  dupRequests : Rc 8
  refused    : Rc 8
  denied     : Rc 8
  malformed  : Rc 8
  busy       : Rc 8
  conflict   : Rc 8
  deriving DecidableEq, Repr


/-! ### Powerline (chapters 3 and 4) -/

/-- A repeater candidate of a local link entry (R133). -/
structure Cand where
  link  : BitVec 12
  valid : Bool
  q     : BitVec 32
  deriving DecidableEq, Repr

/-- The powerline parts of a local link entry: PHY part (R104) and link part (R133) without the PEER word. -/
structure PlcPart where
  map         : List (BitVec 4)   -- 416 group codes, stripe 0 first
  mapSet      : Byte
  rate        : BitVec 2
  stepHold    : Bool
  unconfirmed : Bool
  home        : BitVec 2
  weight      : List Byte         -- L1, L2, L3
  directQ     : BitVec 32
  cand        : List Cand         -- four
  txDsn       : Byte
  fails       : Byte
  deriving DecidableEq, Repr

/-- A shadow set: the map set a link's latest change replaced (R108). -/
structure ShadowSet where
  link   : Nat
  mapSet : Byte
  map    : List (BitVec 4)
  rate   : BitVec 2
  deriving DecidableEq, Repr

/-- Where a launch-at-time entry is anchored (R147, R379). -/
inductive Anchor where
  | instant (sec : BitVec 48) (ns : BitVec 32)
  | stripe (tick : BitVec 48) (stripe : Nat)
  deriving DecidableEq, Repr

/-- A frame of the powerline transmit queue (R144, R152). -/
structure PlcTx where
  queueId : BitVec 16
  cls     : Nat                 -- 0 or 1
  ftype   : Nat                 -- R139
  link    : Nat                 -- LINK of frame control
  peer    : Nat                 -- the peer it is for (0xFFF: none)
  dsn     : Byte
  attempt : Nat
  robust  : Bool
  retry   : Bool
  ackReq  : Bool
  route   : List Nat            -- repeaters from the M20's side
  slot    : Nat                 -- slot stripe
  queued  : BitVec 48           -- tick in which it was queued
  sending : Bool                -- its PPDU is on the line
  payload : List Byte
  deriving DecidableEq, Repr

/-- A launch of the powerline (R147). -/
structure PlcLaunchEntry where
  anchor  : Anchor
  ftype   : Nat
  link    : Nat
  dsn     : Byte
  queueId : BitVec 16
  ackReq  : Bool
  payload : List Byte
  deriving DecidableEq, Repr

/-- The PPDU being transmitted (R119, R153). -/
structure PlcOnAir where
  phase    : Nat                -- home-phase port
  launched : Bool
  robust   : Bool
  ackReq   : Bool
  link     : Nat
  dsn      : Byte
  attempt  : Nat
  queueId  : BitVec 16
  startAt  : BitVec 32
  stripe   : Nat
  mapSet   : Byte
  symbols  : Nat
  deriving DecidableEq, Repr

/-- The counters and the line statistics of one phase (R115, R125, R130). -/
structure PhaseState where
  pw         : List (Option Nat)  -- running mean square of each stripe, in 1/4096 of a squared sample
  charges    : List (Nat × Nat)   -- energy charged to a tick, in 1/16 µJ, ascending ticks
  tickFcFail : Nat
  tickTx     : Bool
  tickBlank  : List Nat
  tickZeroed : List Nat
  tickErased : List Nat
  steps      : Rc 8
  rxOk       : Rc 16
  rxFailed   : Rc 16
  fcFailed   : Rc 16
  mapMiss    : Rc 8
  rxPreempted : Rc 8
  blankEvents : Rc 16
  erasedSymbols : Rc 16
  txSymbols  : Rc 24
  govHolds   : Rc 8
  deriving DecidableEq, Repr

/-- The powerline block: hardware and queues (R108 to R164). -/
structure Plc where
  l1 : PhaseState
  l2 : PhaseState
  l3 : PhaseState
  reception : Option Nat          -- phase whose detection runs
  onAir     : Option PlcOnAir
  shadows   : List ShadowSet      -- oldest first, at most 256
  queue     : List PlcTx          -- queue order, at most 256
  launches  : List PlcLaunchEntry -- at most 64
  waiting   : List (Nat × PlcTx)  -- attempts whose acknowledgement is still looked for, by log tick
  nextQid   : BitVec 16
  sounding  : Option (Nat × BitVec 48)   -- link and tick of the exchange in progress
  lastMap   : List (Nat × Nat)    -- tick of the last map computation of each link
  lastFail  : List (Nat × Nat)    -- tick of the last failed exchange of each link
  frags     : List (BitVec 64 × Fragment × BitVec 48)   -- IEEE 1901.2 reassemblies, at most 32
  attempts  : Rc 16
  delivered : Rc 16
  failed    : Rc 16
  txqFull   : Rc 8
  ackWithheld : Rc 8
  duplicates : Rc 16
  overheard : Rc 16
  unknownSrc : Rc 8
  routeErrors : Rc 8
  meshDropped : Rc 8
  fragTimeouts : Rc 8
  launchLate : Rc 8
  launchDropped : Rc 8
  launchFull : Rc 8
  joins      : Rc 16
  joinRefused : Rc 8
  reclaimed  : Rc 8
  deriving DecidableEq, Repr

/-! ### Radio (chapter 5) -/

/-- The radio part of a local link entry, without the PEER word (R195). -/
structure RadioPart where
  eui        : BitVec 64
  modeTx     : Byte
  sleeper    : Bool
  enhAck     : Bool
  search     : Bool
  lost       : Bool
  portB      : Bool
  listenCh   : BitVec 16
  rxMode     : Byte
  rssi       : Byte
  anchorS    : BitVec 32
  anchorNs   : BitVec 32
  periodMs   : BitVec 32
  drift      : BitVec 16
  rxWindowMs : BitVec 16
  setFirst   : BitVec 16
  setCount   : BitVec 16
  hop        : BitVec 16
  seed       : BitVec 16
  schedMode  : Byte
  wakeIndex  : BitVec 32
  syncS      : BitVec 32
  syncNs     : BitVec 32
  lastOffset : BitVec 32
  misses     : BitVec 16
  txDsn      : Byte
  fails      : Byte
  deriving DecidableEq, Repr

/-- A busy demodulator context (R174, R175). -/
structure RadioCtx where
  chan   : Chan
  mode   : Nat
  portA  : Bool
  portB  : Bool
  atNs   : Nat
  armed  : Option Nat        -- link of the sleeper whose window it was taken in
  search : Bool
  deriving DecidableEq, Repr

/-- A window of the arm list (R175, R201); instants in ns of PTP time. -/
structure ArmWindow where
  link    : Nat
  wake    : Nat
  chan    : Chan
  openNs  : Nat
  wakeNs  : Nat
  closeNs : Nat
  deriving DecidableEq, Repr

/-- A filter pair of the duplicate filter (R181). -/
structure DupFilter where
  link : Nat
  dsn  : Byte
  fc   : BitVec 32
  atNs : Nat
  deriving DecidableEq, Repr

/-- Where a queued radio frame stands (R178, R189, R192). -/
inductive RadioTxPhase where
  | queued | deferred (ms : Nat) | held | onAir
  deriving DecidableEq, Repr

/-- A frame of the radio transmit queue (R197). -/
structure RadioTx where
  queueId : BitVec 16
  link    : Nat
  chan    : Chan
  mode    : Nat
  dsn     : Byte
  attempt : Nat
  queued  : BitVec 48
  busy    : Nat
  holds   : Nat
  phase   : RadioTxPhase
  payload : List Byte
  deriving DecidableEq, Repr

/-- A launch of the radio (R199). -/
structure RadioLaunchEntry where
  atNs    : Nat
  chan    : Chan
  mode    : Nat
  chain   : Nat               -- preference: 0 none, 1 chain 0, 2 chain 1
  link    : Nat
  dsn     : Byte
  queueId : BitVec 16
  payload : List Byte
  deriving DecidableEq, Repr

/-- A mailbox frame for a sleeper (R198). -/
structure Mailbox where
  link    : Nat
  dsn     : Byte
  queueId : BitVec 16
  attempt : Nat
  ready   : Option (Chan × Nat)  -- channel and mode of the frame whose acknowledgement set Frame Pending
  payload : List Byte
  deriving DecidableEq, Repr

/-- A transmission of a chain (R178, R185, R187). -/
structure ChainTx where
  chan     : Chan
  mode     : Nat
  link     : Nat
  dsn      : Byte
  attempt  : Nat
  queueId  : BitVec 16
  launched : Bool
  mailbox  : Bool
  ackReq   : Bool
  holds    : Nat
  startNs  : Nat
  airtime  : Nat              -- µs
  deriving DecidableEq, Repr

/-- A charge of the dwell ledger: channel or sub-band row, bucket, µs (R189). -/
structure Charge where
  index  : Nat
  bucket : Nat
  us     : Nat
  deriving DecidableEq, Repr

/-- What the tick report counts within one tick (R188). -/
structure RadioTick where
  txed        : Bool
  ctxMax      : Nat
  detections  : Nat
  ctxExhausted : Nat
  fcsFailed   : Nat
  syncLost    : Nat
  msDropped   : Nat
  rxPreempted : Nat
  ackWithheld : Nat
  armOverlap  : Nat
  deriving DecidableEq, Repr

/-- The radio block. -/
structure Radio where
  ctx       : List (Option RadioCtx)     -- contexts 0 to 31
  arms      : List ArmWindow             -- arm list of processing, at most 512
  armsHw    : List ArmWindow             -- arm list loaded at the boundary
  searches  : List (Nat × Nat × Nat)     -- searches in progress: link, wake, end in ns of PTP time
  held      : List (Option ArmWindow)    -- windows that hold armed contexts 0 to 6
  filters   : List DupFilter
  chain0    : Option ChainTx
  chain1    : Option ChainTx
  queue     : List RadioTx
  launches  : List RadioLaunchEntry
  mailboxes : List Mailbox
  sleepQueue : List Mailbox              -- frames waiting for a sleeper's mailbox
  ledger    : List Charge                -- kept by processing from the logs
  ledgerHw  : List Charge                -- as of seal X-2
  ownPrev   : List Charge
  ownCur    : List Charge
  nextQid   : BitVec 16
  frags     : List (BitVec 64 × Fragment × BitVec 48)
  tick      : RadioTick
  ctxMax    : Rc 6
  ctxExhausted : Rc 16
  rxOk      : Rc 16
  fcsFailed : Rc 16
  syncLost  : Rc 8
  msDropped : Rc 8
  hwReplay  : Rc 8
  rxPreempted : Rc 8
  acksSent  : Rc 16
  ackWithheld : Rc 8
  hwDup     : Rc 8
  attempts  : Rc 16
  delivered : Rc 16
  failed    : Rc 16
  ccaFailed : Rc 8
  ledgerHolds : Rc 8
  armOverlap : Rc 8
  meshDropped : Rc 8
  fragTimeouts : Rc 8
  launchLate : Rc 8
  launchFull : Rc 8
  deriving DecidableEq, Repr

/-! ### Tables (chapter 6) -/

/-- STATE of an endpoint entry (R209). -/
inductive EpState where
  | free | active | silent | barred
  deriving DecidableEq, Repr

/-- An endpoint entry (R208). -/
structure Endpoint where
  lastFc    : BitVec 32
  lastHeard : BitVec 24
  lastDsn   : Byte
  way       : BitVec 21
  port      : BitVec 9
  state     : EpState
  static    : Bool
  sleeper   : Bool
  cls       : BitVec 3
  keyGroup  : BitVec 12
  keyGen    : Bool
  feeder    : BitVec 3
  phase     : BitVec 2
  parity    : Bool
  deriving DecidableEq, Repr

/-- An identity way (R213); listed ways are VALID. -/
structure Identity where
  eui  : BitVec 64
  slot : BitVec 20
  deriving DecidableEq, Repr

/-- The PEER word of a local link entry (R133). -/
structure Peer where
  slot       : BitVec 20
  valid      : Bool
  radio      : Bool        -- MEDIUM
  direct     : Bool
  repeaterOk : Bool
  ieee1901   : Bool
  deriving DecidableEq, Repr

/-- What a local link entry holds beside its PEER word, by medium (R104, R133, R195). -/
inductive LinkBody where
  | plc (p : PlcPart)
  | radio (r : RadioPart)
  deriving DecidableEq, Repr

/-- A local link entry. -/
structure LinkEntry where
  peer : Peer
  body : LinkBody
  deriving DecidableEq, Repr

/-- ACTION of a route prefix (R233, R236). -/
inductive RouteAction where
  | toLocal | toChild (addr : BitVec 128) | discard
  deriving DecidableEq, Repr

/-- A route prefix: upper 64 bits, length and action (R236). -/
structure Route where
  bits   : BitVec 64
  length : Nat
  action : RouteAction
  deriving DecidableEq, Repr

/-- CSTATE of a child entry (R226). -/
inductive ChildState where
  | free | active | silent
  deriving DecidableEq, Repr

/-- A child entry (R226). -/
structure Child where
  addr      : BitVec 128
  eui       : BitVec 64
  ethPort   : BitVec 2
  state     : ChildState
  static    : Bool
  lastHeard : BitVec 24
  deriving DecidableEq, Repr

/-- A spill-list entry (R230). -/
structure Spill where
  eui  : BitVec 64
  tick : BitVec 48
  port : BitVec 9
  deriving DecidableEq, Repr

/-- The state objects of the table block (R238). -/
structure Tables where
  endpoints : Tab Endpoint       -- by slot
  ways      : Tab Identity       -- by way index
  links     : Tab LinkEntry      -- by link index
  routes    : List Route         -- order of installation
  children  : Tab Child          -- by child number
  spills    : Tab Spill          -- by position
  deriving DecidableEq, Repr

/-- The table block's counters and per-tick flood count (R231, R240). -/
structure TableStat where
  floods       : Nat             -- datagrams flooded in this processing
  learned      : Rc 16
  moves        : Rc 16
  staticRefused : Rc 8
  barredDrops  : Rc 8
  insertFails  : Rc 8
  slotsExhausted : Rc 8
  spillFloods  : Rc 16
  spillDropped : Rc 16
  noRoute      : Rc 16
  childRefused : Rc 8
  parityErrors : Rc 8
  deriving DecidableEq, Repr

/-! ### Ingest and the ledger (chapter 7) -/

/-- What kind of reading waits (R254, R269, R278, R503). -/
inductive ReadingKind where
  | direct | session | tributary | childSeal | meterState
  deriving DecidableEq, Repr

/-- A pending reading (R253). -/
structure Reading where
  kind      : ReadingKind
  org       : Org
  slot      : Nat               -- child number for a child seal
  code      : Nat
  value     : Int
  ts        : Nat               -- seconds since 2020
  tick      : BitVec 48         -- capture tick
  captureTs : Nat               -- start of the capture tick, seconds since 2020
  unsync    : Bool              -- TIME_UNSYNC of the capture tick
  status    : BitVec 16
  flags     : BitVec 16
  payload   : Option (List Byte)
  signature : Option (Nat × Nat)
  childSeq  : Nat
  child     : Nat
  deriving DecidableEq, Repr

/-- A reading record (R262 to R264) with the payload kept beside it. -/
structure Record where
  slotCode : BitVec 32
  value    : BitVec 64
  time     : BitVec 32
  tick     : BitVec 32
  status   : BitVec 16
  flags    : BitVec 16
  seq      : BitVec 32
  payload  : Option (List Byte)
  deriving DecidableEq, Repr

/-- The state of a child's ledger (R277, R282). -/
structure ChildLedger where
  ledger  : BitVec 64
  lastSeq : Option (BitVec 32)
  deriving DecidableEq, Repr

/-- The state objects of the ingest block (R282). -/
structure Ledger where
  histories : Tab Record        -- by (slot << 12) + code
  nextSeq   : BitVec 32
  children  : Tab ChildLedger
  deriving DecidableEq, Repr

/-- The outstanding Tributary window of this M20 as a child (R279, R280). -/
structure TribChild where
  watermark : Option (BitVec 32)
  sent      : BitVec 32          -- next sequence to send
  lastTick  : BitVec 48          -- tick of the watermark's latest advance
  pauseTo   : Option (BitVec 48) -- BUSY pause
  version   : Nat
  stopped   : Bool
  batchSeq  : BitVec 32
  deriving DecidableEq, Repr, Inhabited

/-- A serial poll in progress (R249). -/
structure SerialPoll where
  slot    : Nat
  repeats : Nat
  request : List Byte
  deriving DecidableEq, Repr

/-- The ingest block. -/
structure Ingest where
  plcQ      : List Reading
  radioQ    : List Reading
  serialQ   : List Reading
  tribQ     : List Reading
  parked1   : List Reading       -- parked at the previous log
  parked2   : List Reading       -- parked at the log before it
  fetches   : List Nat           -- fetches issued, by pair
  fetched   : List Nat           -- fetched, to be installed
  cache     : Tab (List Nat)     -- history cache: set to pairs, most recent first
  queuedSeq : Tab (BitVec 32)    -- highest child sequence queued
  trib      : TribChild
  reads     : List (Nat × BitVec 48)   -- collection reads outstanding
  serialA   : List SerialPoll    -- the poll in progress first
  serialB   : List SerialPoll
  deferred  : List Nat           -- due reads put off under R257
  builtMax  : Rc 12
  parkedMax : Rc 10
  replays   : Rc 16
  retransmits : Rc 16
  authFailed : Rc 8
  unsecured : Rc 8
  typeRejected : Rc 8
  noPlan    : Rc 8
  valFlagged : Rc 16
  valRejected : Rc 16
  weirOverflow : Rc 16
  sigNoKey  : Rc 8
  noRegister : Rc 8
  readFailed : Rc 16
  assocRefused : Rc 8
  unknownSource : Rc 8
  duplicates : Rc 16
  batches   : Rc 16
  tribBusy  : Rc 8
  tribMalformed : Rc 8
  tribDuplicates : Rc 32
  deriving DecidableEq, Repr

/-! ### Metrology (chapter 8) -/

/-- The four energy accumulators of a line conductor with their fractions (R299). -/
structure Energy where
  actImp : BitVec 64
  actExp : BitVec 64
  reaPos : BitVec 64
  reaNeg : BitVec 64
  fImp   : BitVec 64
  fExp   : BitVec 64
  fPos   : BitVec 64
  fNeg   : BitVec 64
  deriving DecidableEq, Repr

/-- A balance period (R307). -/
structure Period where
  periodEnd  : Nat
  netMj      : Int
  i2tLine    : Nat
  i2tNeutral : Nat
  meterMilli : Int
  coverS     : Nat
  metered    : Nat
  suspectCount : Nat
  suspects   : List (Nat × Nat)    -- slot, reason
  deriving DecidableEq, Repr

/-- A balance result (R307). -/
structure Balance where
  periodEnd : Nat
  flags     : BitVec 16
  covMeters : Nat
  covTime   : Nat
  meters    : Nat
  feederMwh : Int
  meterMwh  : Int
  lossMwh   : Int
  residual  : Int
  lateMilli : Int
  suspectCount : Nat
  suspects  : List (Nat × Nat)
  deriving DecidableEq, Repr

/-- Sums of one candidate: Σx, Σx², Σxy (R310). -/
structure CandSum where
  x  : Int
  xx : Int
  xy : Int
  deriving DecidableEq, Repr

/-- An identification entry (R310). -/
structure Ident where
  slot   : Nat
  n      : Nat
  phases : BitVec 3
  y      : List (Int × Int)        -- Σy, Σy² of phases 1 to 3
  cands  : List CandSum            -- 21 candidates
  deriving DecidableEq, Repr

/-- A minute bin (R309). -/
structure MinuteBin where
  minute : Nat
  ticks  : Nat
  v      : List Nat                -- three
  i      : List Nat                -- 21
  deriving DecidableEq, Repr

/-- The state objects of the metrology block (R314). -/
structure MetroObjs where
  energy     : List Energy         -- 21
  periods    : Tab Period          -- by (feeder << 8) + ring position
  balances   : Tab Balance         -- by feeder
  idents     : Tab Ident           -- by entry
  failedNext : BitVec 16
  failed     : Tab Nat             -- position to slot
  bins       : Tab MinuteBin       -- by position
  deriving DecidableEq, Repr

/-- The sums of one channel in a report (R295). -/
structure ChanSum where
  n     : Nat
  u     : Nat
  sum   : Int
  sumsq : Nat
  re    : Int
  im    : Int
  deriving DecidableEq, Repr

/-- A metrology report (R295). -/
structure MetroReport where
  negStart  : Bool
  timeStep  : Bool
  overrange : BitVec 32
  unsettled : BitVec 32
  chans     : List ChanSum         -- 32
  products  : List Int             -- 21
  deriving DecidableEq, Repr

/-- The per-tick quantities of a channel (R298, R316). -/
structure ChanQty where
  rms      : Nat
  mean     : Int
  fund     : Nat
  angle    : Nat
  noPhasor : Bool
  noData   : Bool
  deriving DecidableEq, Repr

/-- The per-tick quantities of a line conductor (R298, R316). -/
structure CondQty where
  p       : Int
  q       : Int
  invalid : Bool
  deriving DecidableEq, Repr

/-- The metrology block beside its state objects. -/
structure Metro where
  settle    : List Nat             -- unsettled outputs still to come, by channel
  negStart  : Bool                 -- the tick in progress began at a negative-going crossing
  timeStep  : Bool                 -- frames realigned during the tick in progress
  retained  : Option (BitVec 48 × MetroReport)   -- the tick last processed and its report
  retainedLocked : Bool
  restartPrev : BitVec 32          -- channels restarted at the start of that tick
  recs      : Tab (List Byte)      -- METRO_CHANNEL records in force in the tick processed next
  recsOld   : Tab (List Byte)      -- those of the tick before it
  quantities : List ChanQty        -- 32
  conductors : List CondQty        -- 21
  unsettled : BitVec 32
  lastOver  : BitVec 32
  pairs     : BitVec 32            -- valid pairs as of the last boundary
  skipTo    : Tab Nat              -- by feeder: no period begins before this time (R307)
  skipDue   : List Nat             -- feeders whose time of that kind the next log fixes
  overrange : Rc 32
  lateShares : Rc 16
  assigned  : Rc 16
  failed    : Rc 16
  deriving DecidableEq, Repr

/-! ### Flash store (chapter 9) -/

/-- The tag of a programmed grain (R324). -/
structure GrainTag where
  lga  : Nat
  kind : Nat
  copy : Bool
  aux  : Nat
  tick : Nat
  seq  : Nat                 -- PAGE_SEQ of its page
  deriving DecidableEq, Repr

/-- State of a block in the block table (R330). -/
inductive BlockState where
  | free | opened | closed | released | bad | retired
  deriving DecidableEq, Repr

/-- A NAND block (R323, R330). -/
structure Block where
  state     : BlockState
  erases    : Nat
  stream    : Nat            -- STREAM of R323
  openSeq   : Nat
  expiryDay : Nat
  closedDay : Nat
  closedTick : Nat
  refresh   : Bool
  grains    : List GrainTag  -- in program order
  deriving DecidableEq, Repr

/-- An expiry class: its open block and its tails (R331 to R336). -/
structure ClassStream where
  block    : Option Nat
  day      : Nat
  tail     : Option Nat      -- LGA of the record grain being filled
  count    : Nat             -- records in it
  tickHi   : Nat
  payTail  : Option Nat
  payUsed  : Nat
  nextLga  : Nat
  lgaLeft  : Nat
  deriving DecidableEq, Repr

/-- A run of a seal slot (R334, R335). -/
structure Run where
  lga   : Nat
  index : Nat
  count : Nat
  deriving DecidableEq, Repr

/-- A seal slot (R335) with the leaves the seal binds. -/
structure SealSlot where
  body     : Seal
  firstSeq : BitVec 32
  runs     : List Run
  expiry   : Nat
  events   : List (List Byte)     -- event leaves, in leaf order
  deriving DecidableEq, Repr

/-- A stored record with where it lies (R332). -/
structure StoredRecord where
  record : Record
  tick   : BitVec 48
  lga    : Nat
  index  : Nat
  payLga : Option Nat
  day    : Nat
  deriving DecidableEq, Repr

/-- A journal entry of the store (R346). -/
inductive StoreEntry where
  | move (lga source target : Nat)
  | release (block count : Nat)
  | expire (block count day : Nat)
  | retire (block : Nat)
  deriving DecidableEq, Repr

/-- A tick package on its way to durability (R337). -/
structure Package where
  tick  : BitVec 48
  hash  : List Byte
  bytes : Nat                -- of its state-change entries
  tails : List (Nat × Nat)   -- changed tails: kind and LGA
  first : Option Nat         -- PAGE_SEQ of its first grain, once its body is programmed
  deriving DecidableEq, Repr

/-- A checkpoint in progress (R340). -/
structure Checkpoint where
  tick       : BitVec 48
  deltaFrom  : Nat
  grains     : List Nat      -- state grains to copy
  deriving DecidableEq, Repr

/-- A complete root (R341). -/
structure Root where
  number     : Nat
  tick       : BitVec 48
  hash       : List Byte
  replayFrom : Nat
  deltaFrom  : Nat
  anchorNo   : Nat
  reach      : List Nat      -- PGAs it reaches
  ledger     : List Charge   -- dwell ledger of its extras
  deriving DecidableEq, Repr

/-- Mode of the store (R355, R361). -/
inductive StoreMode where
  | fine | coarseStart | coarseScan | coarseTest
  deriving DecidableEq, Repr

/-- The flash store. -/
structure Store where
  mode      : StoreMode
  formatId  : BitVec 32
  ledgerId  : Option (BitVec 64)        -- of the anchor; none: no chain
  lunSet    : List Nat                  -- LUNs in use, 8 * channel + LUN
  perLun    : Nat
  pages     : Nat
  perPage   : Nat
  blocks    : Tab Block                 -- by number: LUN * 8192 + block; an unlisted one is free and never erased
  nextLun   : Nat
  pageSeq   : Nat
  map       : Tab Nat                   -- LGA to PGA
  directory : Tab Nat                   -- map page to PGA
  frames    : List Nat                  -- map pages in the cache, most recent first
  dirty     : List Nat
  lent      : Bool                      -- 1,024 of its 1,280 frames hold a rebuilt image (R497)
  classes   : Tab ClassStream
  hot       : Option Nat
  copyBlock : Option Nat
  rangeNext : Nat
  seals     : Tab SealSlot              -- by tick
  records   : Tab StoredRecord          -- by SEQUENCE
  journal   : List StoreEntry           -- durable entries since the latest root, newest last
  packages  : List Package              -- not yet durable, oldest first
  durable   : Option (BitVec 48)
  checkpoint : Option Checkpoint
  ckptDue   : Option (BitVec 48)        -- seal whose checkpoint is due
  stateDirty : List Nat                 -- state grains changed since the last checkpoint began
  dirtyPairs : Tab (BitVec 48)          -- history ways that differ from their grain, with the tick of the change
  roots     : List Root                 -- latest first
  writebacks : List (Nat × BitVec 48)   -- slots to write back and the tick their change belongs to
  logBlocks : List Nat
  coarseMap : Tab Nat                   -- logical block to physical block
  lastLow   : Option (BitVec 48)
  scanned   : Bool
  writeProtect : Bool
  recorderBlocks : List Nat
  vaultBlocks : List Nat
  extrasLedger : Option (BitVec 48 × List Charge)
  retired   : Nat
  ckptLate  : Rc 8
  written   : Rc 32
  copied    : Rc 32
  programFails : Rc 8
  eraseFails : Rc 8
  uncorrectable : Rc 8
  earlyExpiries : Rc 8
  mapMisses : Rc 16
  fetches   : Rc 16
  deriving DecidableEq, Repr

/-! ### Time (chapter 10) -/

/-- Servo states (R378). -/
inductive Servo where
  | free | acquiring | locked | holdover | ppsHold
  deriving DecidableEq, Repr

/-- State of a PTP port (R370, R371). -/
inductive PtpPortState where
  | listening | slave | master | passive
  deriving DecidableEq, Repr

/-- A PTP port: its state and the best Announce it hears. -/
structure PtpPort where
  state : PtpPortState
  best  : Option AnnounceData
  deriving DecidableEq, Repr

/-- The capture entry of one input in the tick in progress (R25, R382). -/
structure Capture where
  first : FullStamp
  more  : BitVec 16
  deriving DecidableEq, Repr

/-- A pin event input (R25, R382): its level, this tick's entry, consecutive entries held active, whether PIN_STUCK
stands. -/
structure PinInput where
  active  : Bool
  seen    : Bool               -- active at some time in the tick in progress
  entry   : Option Capture
  heldRun : Nat
  stuck   : Bool
  deriving DecidableEq, Repr

/-- A meter time message waiting for its serial launch (R380). -/
structure SerialLaunchEntry where
  atNs    : Nat
  slot    : Nat
  payload : List Byte
  deriving DecidableEq, Repr

/-- A meter time message whose SET response is awaited (R387). -/
structure TimeMsg where
  slot   : Nat
  bearer : Nat
  tick   : BitVec 48
  deriving DecidableEq, Repr

/-- The time block. -/
structure TimeBlock where
  sec       : BitVec 48
  ns        : BitVec 32
  frac      : BitVec 16
  utcOffset : BitVec 8
  utcValid  : Bool
  leap61    : Bool             -- the parent announces a leap second
  leapOn    : Bool             -- LEAP61 of the status word: from 12:00 UTC of its day through the inserted second
  stepped   : Bool             -- stepped since the last boundary
  servo     : Servo
  integral  : Int              -- I, 2^-16 ppb
  rate      : Int              -- y, 2^-16 ppb
  lockRun   : Nat
  unlockRun : Nat
  theta     : Int              -- latest θ, 2^-16 ns
  path      : Int              -- d, 2^-16 ns
  pathSet   : Bool
  exchange  : Option Nat       -- port with a delay exchange in progress
  utcSeen   : Bool             -- UTC_VALID has been 1
  ppsSeen   : Bool             -- TCAP0 edges arrive
  ports     : List PtpPort     -- four
  parent    : Option AnnounceData
  slave     : Option Nat
  serialA   : List SerialLaunchEntry
  serialB   : List SerialLaunchEntry
  pins      : List PinInput    -- TCAP0 to TCAP3
  triggers  : List Nat         -- end of the latest pulse of TTRIG0 to TTRIG3, in ns of PTP time
  msgs      : List TimeMsg
  lastSync  : Bool             -- SYNCHRONISED of the log before
  anyLog    : Bool             -- a log has been processed since start
  steps     : Rc 8
  syncs     : Rc 16
  announceTimeouts : Rc 8
  ptpDropped : Rc 8
  edges0    : Rc 8
  edges1    : Rc 8
  edges2    : Rc 8
  edges3    : Rc 8
  timeSets  : Rc 16
  timeSetRefused : Rc 8
  serLate   : Rc 4
  serFull   : Rc 4
  deriving DecidableEq, Repr

/-! ### Keys, life cycle and tamper (chapter 11) -/

/-- A root's fuses: secret, signer digest, completion fuse (R391, R613). -/
structure RootFuses where
  secret : List Byte
  digest : List Byte
  done   : Bool
  deriving DecidableEq, Repr

/-- The one-time-programmable contents (R391). -/
structure Fuses where
  deviceSecret : List Byte
  eui       : BitVec 64
  rootM     : RootFuses
  rootP     : RootFuses
  rootF0    : RootFuses
  rootF1    : RootFuses
  rootQ     : List Byte
  lifecycle : BitVec 20
  revoke    : BitVec 2
  tamper    : BitVec 10
  deriving DecidableEq, Repr

/-- Life-cycle states (R395). -/
inductive LifeCycle where
  | manufacture | provision | field | quarantine | scrap
  deriving DecidableEq, Repr

/-- The life-cycle record of the state (R420). -/
structure LcRecord where
  lifecycle : BitVec 20
  revoke    : BitVec 2
  tamper    : BitVec 10
  written   : BitVec 3
  deriving DecidableEq, Repr

/-- A key-slot descriptor (R403). -/
structure KeyDesc where
  type      : Nat
  flags     : Nat
  parent    : BitVec 16
  parentGen : BitVec 16
  gen       : BitVec 16
  uses      : Nat
  ops       : BitVec 16
  group     : BitVec 12
  deriving DecidableEq, Repr

/-- A value cell: two XOR shares of a secret, or a public value in clear with an empty second share (R403, R412). -/
structure Cell where
  a : List Byte
  b : List Byte
  deriving DecidableEq, Repr

/-- The state objects of the keys block (R420). -/
structure KeyObjs where
  slots    : Tab KeyDesc
  requests : List (Nat × LcRequest)   -- pending, with their positions, in log order
  record   : LcRecord
  deriving DecidableEq, Repr

/-- A vault entry (R413). -/
structure VaultEntry where
  slot  : Nat
  gen   : BitVec 16
  type  : Nat
  value : List Byte
  deriving DecidableEq, Repr

/-- A vault copy whose tag verifies (R413). (DESIGN CHOICE, log 71) -/
structure VaultCopy where
  gen      : BitVec 32
  tick     : BitVec 48
  ledgerId : BitVec 64
  entries  : List VaultEntry
  deriving DecidableEq, Repr

/-- A fuse burn that is due or in progress (R400, R418). -/
inductive Burn where
  | lifecycle (bits : BitVec 20)
  | revoke (bits : BitVec 2)
  | tamper (bits : BitVec 10)
  | root (code : Nat) (secret digest : List Byte)
  | quarantineEntry (latched : BitVec 10)
  deriving DecidableEq, Repr

/-- The tamper latch of the VBAT domain (R417). -/
structure Latch where
  sources : BitVec 10
  seconds : BitVec 48
  deriving DecidableEq, Repr

/-- The keys block beside its state objects. -/
structure Keys where
  fuses    : Fuses
  cells    : Tab Cell              -- by slot
  kept     : List (BitVec 48 × VaultEntry)   -- superseded values of the vault staging buffer, with the boundary (R414)
  pubs     : Tab Bytes             -- public values of the flash store, by slot * 65,536 + GEN (R402, R403)
  copyA    : Option VaultCopy
  copyB    : Option VaultCopy
  mirrorA  : Option VaultCopy
  mirrorB  : Option VaultCopy
  inUseB   : Bool
  fromMirror : Bool
  mirrorLastB : Bool
  highGen  : BitVec 32             -- highest VAULT_GEN read or written
  vaultDue : List (BitVec 48)      -- boundaries whose changes call for a write
  frozen   : Bool
  zeroiseDue : Bool                -- a request entered QUARANTINE: zeroise at its boundary (R402)
  burns    : List (BitVec 48 × Burn)   -- with the seal after which they are due
  burnCause : List (BitVec 20)     -- life-cycle fuses burned by tamper that the record lacks
  starting : Bool                  -- the first processing after a start is still to come
  latch    : Option Latch
  active   : BitVec 10
  chained  : List Nat              -- persistent secret slots whose chain was intact at the latest processing (R415)
  writeFails : Rc 8
  alarms   : Rc 8
  derivations : Rc 16
  aborted  : Rc 8
  exhausted : Rc 8
  deriving DecidableEq, Repr

/-! ### Twin operation (chapter 12) -/

/-- Role of the unit (R424): every unit of a pair that is not primary stands as `mirror`, its standby state saying
which (R428). -/
inductive TwinRole where
  | single | primary | mirror
  deriving DecidableEq, Repr

/-- Standby states (R428). -/
inductive Standby where
  | starting | rejoining | synced | orphaned | held | diverged | fenced
  deriving DecidableEq, Repr

/-- A log as received over the Holham link (R434). -/
structure ShippedLog where
  tick     : BitVec 48
  entries  : List LogEntry
  complete : Bool
  first    : Bool
  last     : Bool
  m        : BitVec 48
  prevHash : List Byte
  deriving DecidableEq, Repr

/-- The primary's record of the mirror's latest STATUS (R444, R451). -/
structure MirrorStatus where
  standby     : Nat
  isMatch     : Bool
  fillDone    : Bool
  procVersion : BitVec 16
  lastSeal    : BitVec 48
  logTick     : BitVec 48
  deriving DecidableEq, Repr

/-- A frame the unit holds until the peer acknowledges it (R431). -/
structure HolhamTx where
  type    : Nat
  tick    : BitVec 48
  seq     : BitVec 32
  payload : List Byte
  deriving DecidableEq, Repr

/-- The twin block. (DESIGN CHOICE, log 107) -/
structure Twin where
  role        : TwinRole
  standby     : Standby
  paired      : Bool
  waitingHello : Bool              -- in the 2 s wait of R433
  primaryN    : Bool               -- own TWIN_PRIMARY_N asserted
  peerN       : Bool               -- TWIN_PEER_N asserted
  linkUp      : Bool
  txSeq       : BitVec 32
  rxSeq       : BitVec 32          -- next SEQ expected
  unacked     : List HolhamTx      -- oldest first
  peer        : Option HelloIn
  logs        : List ShippedLog    -- oldest first
  ownTick     : BitVec 48          -- a mirror's own tick count (R435)
  matched     : Bool
  renewal     : BitVec 48          -- A
  renewed     : Bool               -- a LEASE has arrived since the mirror's latest boundary
  lapsed      : Bool
  queryTick   : Option (BitVec 48) -- own tick in which the unit last sent a query
  silentTick  : Option (BitVec 48) -- tick whose standby log holds a standing PEER_SILENT
  ackTick     : BitVec 48          -- tick of the last HEARTBEAT_ACK
  mirror      : Option MirrorStatus
  swapAt      : Option (BitVec 48)
  swapTransfer : Bool
  waitAnswer  : Option (BitVec 48) -- S, while the old primary has ended its term and no ANSWER has arrived
  handover    : Option (BitVec 48 × List Byte × Bool)   -- HANDOVER to be answered: S, SEAL_HASH, transfer
  endDue      : Bool               -- the term ends at the next boundary (R441)
  lastLog     : Option (BitVec 48) -- S of a log with LAST
  termAt      : Option (BitVec 48) -- boundary at which a term begins
  firstM      : Option (BitVec 48) -- M, until the first LOG_END of the term is sent
  asked       : Bool               -- a REJOIN has been sent and no transfer has ended since
  rejoinSeal  : Option (BitVec 48) -- S of a transfer that is due or being sent (R447)
  xferOut     : List (List Byte)   -- XFER payloads still to be sent
  xferEnd     : List Byte          -- the XFER_END payload that follows them
  xferIn      : List Byte          -- stream received
  xferCount   : Nat
  xferSwap    : Bool               -- the transfer belongs to a transfer swap (R446)
  loaded      : Option (BitVec 48) -- seal of a loaded transfer, while the unit catches up
  fillNext    : Option (BitVec 48) -- highest tick still to be filled
  fillLow     : BitVec 48          -- lowest tick to be filled
  peerDurable : BitVec 48          -- DURABLE of the peer's latest REJOIN
  fillDone    : Bool
  swaps       : Rc 8
  swapRefused : Rc 8
  compared    : Rc 32
  mismatches  : Rc 16
  rejoins     : Rc 16
  retransmits : Rc 16
  crcErrors   : Rc 8
  linkDowns   : Rc 8
  deriving DecidableEq, Repr

/-! ### Updates (chapter 14) -/

/-- The update session with its pending activation (R511 kind 0x01). -/
structure UpdSession where
  kind      : Nat            -- 0 firmware, 1 campaign image
  complete  : Bool
  pending   : Bool           -- activation pending
  size      : Nat
  received  : Nat
  lastTick  : BitVec 32
  target    : BitVec 64
  digest    : List Byte      -- KEY_DIGEST of the holder
  boundary  : BitVec 48
  imageDigest : List Byte
  deriving DecidableEq, Repr

/-- The campaign (R511 kind 0x02). -/
structure Campaign where
  body    : List Byte        -- the 80 bytes of R504
  size    : Nat              -- bytes of its image
  targets : List Nat         -- slots fixed at the start, ascending
  round   : Nat
  phase   : Nat              -- 0 initiating, 1 rounds, 2 repair, 3 ended
  cursor  : Nat
  blocks  : List Nat         -- blocks of the current round, ascending
  deriving DecidableEq, Repr

/-- A tariff held (R509, R511 kind 0x03). -/
structure Tariff where
  item    : List Byte        -- the body as applied
  targets : List Nat
  staged  : Bool             -- TARIFF_STAGED raised
  applied : BitVec 48        -- tick whose processing applied it
  deriving DecidableEq, Repr

/-- The state objects of the updates block (R511). -/
structure UpdObjs where
  session  : Option UpdSession
  campaign : Option Campaign
  tariffs  : Tab Tariff
  deriving DecidableEq, Repr

/-- The step of a meter request in flight (R506, R510). -/
inductive MeterStep where
  | initiate | sizeCheck | poll | repair (block : Nat) | verify | schedule | confirm
  | tariffSet (attr : Nat) | tariffConfirm
  deriving DecidableEq, Repr

/-- A campaign or tariff request that awaits its reply (R508). -/
structure MeterRequest where
  slot    : Nat
  step    : MeterStep
  tariff  : Nat              -- position of the tariff, 4 for the campaign
  tick    : BitVec 48
  silences : Nat
  deriving DecidableEq, Repr

/-- A write to the Delta staging region that waits for its seal (R496). -/
structure DataWrite where
  log    : BitVec 48
  offset : Nat
  bytes  : List Byte
  deriving DecidableEq, Repr

/-- Verification of the loaded image on this unit (R497, R498, R512). -/
inductive VerifyState where
  | notStarted | waiting | running | verified | rejected
  deriving DecidableEq, Repr

/-- The updates block beside its state objects. -/
structure Updates where
  writes    : List DataWrite
  delta     : List Byte           -- Delta staging region, from its start
  writeFailed : Bool
  running   : List Byte           -- data of a campaign image in log order (running SHA-256 of R496)
  verify    : VerifyState
  cause     : Nat
  rebuilt   : List Byte           -- the rebuilt image, held in the frames the store lends
  fw        : BootHeader          -- identity of the firmware that runs (R512)
  fwImage   : List Byte           -- its bytes where this model has rebuilt them, else those of Config
  fresh     : BootHeader          -- the verified target's identity
  deadWindow : Bool
  activation : Option (BitVec 48) -- A, while the activation pause runs
  rewriteDue : Option (BitVec 48) -- X, while the firmware region is still to be rewritten
  mirrorRewrite : Bool            -- R502 in progress
  activated : Option (BitVec 48 × BitVec 48)   -- A and X, UPDATE_ACTIVATED still to be raised
  hasImage  : Bool                -- this unit's NOR holds the campaign's image (R507)
  readback  : Bool                -- a readback has been made for it
  requests  : List MeterRequest
  attrs     : Tab Nat             -- next calendar attribute to set, by slot * 4 + tariff position
  lastBlock : BitVec 48           -- tick of the latest multicast block
  missing   : Tab (List Nat)      -- blocks missing at the latest poll, by slot
  polled    : List Nat            -- targets polled in this round
  tariffFailed : Rc 16
  multicast : Rc 16
  unicast   : Rc 16
  deriving DecidableEq, Repr

/-! ### Event recorder (chapter 15) -/

/-- An event record without its CRC (R514). -/
structure EventRec where
  code   : BitVec 16
  flags  : BitVec 8
  source : BitVec 8
  tick   : BitVec 48
  seq    : BitVec 16
  p0     : BitVec 32
  p1     : BitVec 32
  p2     : BitVec 32
  p3     : BitVec 32
  deriving DecidableEq, Repr

/-- The event recorder. -/
structure Recorder where
  written   : Tab EventRec      -- programmed records by index
  base      : Nat               -- index of the first record in staging
  staging   : List EventRec     -- at most 4,096, oldest first
  noGrain   : Bool              -- no grain can be programmed (R354, R524)
  full      : Bool
  lostNow   : Nat               -- records discarded and not yet reported (R522)
  lostTick  : BitVec 48         -- TICK of the first of them
  nextSeq   : BitVec 16
  clears    : BitVec 8
  clearing  : Bool
  mark      : Nat               -- write position at the latest boundary (R527)
  bad       : List Nat          -- grains that cannot be read (R325, R352)
  stagedMax : Rc 13
  lost      : Rc 16
  droppedFull : Rc 16
  coalesced : Rc 24
  deriving DecidableEq, Repr

/-! ### Power, reset, edge states, NOR and test (chapters 2, 16, 17 and 18) -/

/-- What the unit is doing (R48, R57, R67, R433, R499, R501, R568). -/
inductive RunMode where
  | inReset        -- held in reset or unpowered
  | pfailHeld      -- a start that waits for PFAIL_N (R561)
  | waiting        -- recovered, a twin member that waits for HELLO or the witness (R433)
  | running        -- captures ticks, or executes shipped logs as a mirror
  | gaspDone       -- last gasp completed or broken off; waits under R568
  | pause          -- activation pause from boundary A to tick X (R499)
  | halted         -- R67, R402, R418
  | dead           -- R501
  deriving DecidableEq, Repr

/-- Output groups of R542. -/
inductive PinState where
  | hiz | driven | inactive | commonMode | asFunction | parked
  deriving DecidableEq, Repr

/-- The states of the output groups (R542, R543). -/
structure Pins where
  qspi   : PinState
  line   : PinState
  other  : PinState
  analog : PinState
  writeProtect : Bool          -- NANDn_WP_N asserted (R321)
  deriving DecidableEq, Repr

/-- The VBAT domain beside the tamper latch (R570). -/
structure Vbat where
  seconds : BitVec 48
  valid   : Bool
  cause   : Option (BitVec 4)  -- reset cause, none after the domain's own power-on reset
  stage   : BitVec 2
  lgTime  : BitVec 16
  xtalOk  : Bool
  fresh   : Bool               -- started from its own power-on reset since the last start
  deriving DecidableEq, Repr

/-- A boot report (R68). -/
structure BootReport where
  cause     : BitVec 8
  lifecycle : BitVec 8
  serial    : BitVec 32
  count     : BitVec 32
  deriving DecidableEq, Repr

/-- STATE of a journal entry (R80). -/
inductive EntryState where
  | incomplete | pending | applied | dropped
  deriving DecidableEq, Repr

/-- A SET entry of the journal (R80). -/
structure JournalEntry where
  state    : EntryState
  boundary : BitVec 48
  commit   : BitVec 48
  epoch    : BitVec 32
  items    : List Item
  deriving DecidableEq, Repr

/-- A journal write that is due (R81). -/
inductive JournalOp where
  | commit (tick boundary : BitVec 48) (items : List Item)
  | apply (boundary commit : BitVec 48) (epoch : BitVec 32)
  | drop (boundary commit : BitVec 48)
  | rewrite (digest : List Byte) (records : Tab (List Byte)) (sets : List (BitVec 48 × BitVec 48 × List Item))
  deriving DecidableEq, Repr

/-- The staged-commit region: the half in use (R79 to R86). -/
structure Journal where
  halfB    : Bool
  seq      : BitVec 32
  digest   : List Byte            -- IMAGE_DIGEST
  ledgerId : BitVec 64
  snapshot : Tab (List Byte)      -- records of the SNAPSHOT entry
  entries  : List JournalEntry
  due      : List (BitVec 48 × JournalOp)   -- with the seal that must be durable first
  frozen   : Bool
  fails    : Rc 8
  deriving DecidableEq, Repr

/-- The NOR beside journal, vault and Delta staging (R55). -/
structure Nor where
  boot     : Option BootHeader
  firmware : List Byte            -- firmware region where this model has written it, else as the header's digest names it
  reports  : List BootReport      -- latest first
  image    : List Byte            -- configuration image region
  journal  : Journal
  deriving DecidableEq, Repr

/-- A record of a configuration image: TYPE[14:0], INSTANCE and value (R69). -/
structure ImgRecord where
  type  : Nat
  inst  : Nat
  value : List Byte
  deriving DecidableEq, Repr

/-- What a start took from the image (R87). -/
structure ImageInfo where
  blank    : Bool
  serial   : BitVec 32
  records  : Nat
  ledgerId : Option (BitVec 64)
  newLedger : Bool
  digest   : List Byte
  prevSerial : BitVec 32
  deriving DecidableEq, Repr

/-- A queued fault-injection link (R575 to R582). -/
structure FaultLink where
  rx     : BitVec 32              -- LFSR of the receive direction
  tx     : BitVec 32
  held   : Option LogEntry
  tick   : List Nat               -- this tick's RX_DROPPED, RX_CORRUPTED, RX_REORDERED, TX_DROPPED, TX_CORRUPTED
  dropped   : Rc 16
  corrupted : Rc 8
  reordered : Rc 8
  txDropped : Rc 16
  txCorrupted : Rc 16
  deriving DecidableEq, Repr

/-- The test access port (R586, R587). -/
structure Tap where
  inst     : BitVec 4             -- instruction in force
  boundary : List Bool            -- 166 cells
  shifted  : Nat                  -- contents of the selected short data register
  deriving DecidableEq, Repr

/-- The test block. -/
structure TestBlock where
  links    : Tab FaultLink
  tap      : Tap
  resetLow : Bool                 -- RESET_N is low
  refused  : List Nat             -- modes refused at present
  deriving DecidableEq, Repr

/-- The system block: what the unit is, has been started with and counts (chapters 1, 2 and 17). -/
structure SysBlock where
  mode      : RunMode
  pins      : Pins
  region    : BitVec 2
  vbat      : Vbat
  cause     : BitVec 4             -- RESET_STATUS
  lgIncomplete : Bool
  vbatFresh : Bool                 -- VBAT_FRESH of RESET_STATUS (R573)
  bootMs    : BitVec 16
  pfailWait : Option Nat
  vbatLow   : Bool
  vbatLowSeen : Bool
  image     : ImageInfo
  bootCause : BitVec 8
  firstTick : Bool                 -- no tick has been captured since this start
  imageDue  : Option (List ImgRecord)   -- changed image still to be applied (R77)
  genesis   : Bool                 -- the next seal starts a chain
  recovery  : Bool                 -- the next seal is the first after a restart
  takeover  : Bool                 -- the next seal is the first of a term
  prevSeal  : Option (BitVec 48 × List Byte)   -- latest closed seal: tick and hash
  answer    : Option (BitVec 48)   -- answering seal of the log under processing
  lastSigned : BitVec 48
  ethUp     : List Bool
  procMax   : Rc 16
  logDeferred : Rc 16
  captureDropped : Rc 16
  waitMax   : Rc 16
  deriving DecidableEq, Repr

/-! ### The state as a whole -/

/-- The state objects of the system block (R35). -/
structure CovSys where
  records : Tab (List Byte)        -- values by TYPE[14:0] * 65,536 + key
  sets    : Tab PendingSet         -- by position
  epoch   : BitVec 32
  lastApplied : BitVec 48
  deriving DecidableEq, Repr

/-- The state covered by the state-change digest (R34). -/
structure Covered where
  sys    : CovSys
  tables : Tables
  ledger : Ledger
  metro  : MetroObjs
  keys   : KeyObjs
  upd    : UpdObjs
  deriving DecidableEq, Repr

/-- The place of a change or emission in the arbitration order (R46, R615). -/
structure Src where
  stage  : Nat     -- 0 image, 1 the log's own work, 2 staged sets and the work after them
  engine : Nat
  ord    : Nat     -- 0 readings parked earlier, 1 an input of the log, 2 a sweep that no input makes
  port   : Nat
  pos    : Nat
  deriving DecidableEq, Repr

/-- An event raised in processing, not yet sealed (R521). -/
structure Raised where
  src    : Src
  code   : Nat
  params : List Nat
  deriving DecidableEq, Repr

/-- A state change of the processing (R33, R611). -/
structure Change where
  src   : Src
  block : Nat
  kind  : Nat
  index : Nat
  value : List Byte
  deriving DecidableEq, Repr

/-- A record built of a reading, with the history it met and its flags (R303, R306, R310). -/
structure Built where
  engine  : Nat
  reading : Reading
  prev    : Option Record
  flags   : Nat
  deriving DecidableEq, Repr

/-- The processing of one log in progress: between the freeze of the log and its seal (R28). (DEDUCED, log 47) -/
structure Work where
  isOpen   : Bool
  log      : InputLog
  events   : List Raised          -- latest first
  changes  : List Change          -- latest first
  leaves   : List Record          -- reading records in leaf order
  built    : List Built           -- records built of readings, in SEQUENCE order
  ingested : List (Nat × Nat × Bool × Bool × Option Nat)  -- port, position, take application data, drop, slot
  handled  : List (Nat × Nat)     -- entries a row has handled
  fresh    : List Nat             -- slots whose entry this processing learned: stage 3 does not resolve to them
  requests : Nat                  -- campaign and tariff requests queued
  admitted : Bool                 -- the admission pass has run
  meterDone : Bool                -- stage 5 has run
  swept    : Bool                 -- the aging sweep has run
  childSwept : Bool
  applied  : Bool                 -- a staged set or changed image was applied
  lastGasp : Bool
  deriving DecidableEq, Repr

/-- What has left the part since the latest boundary. (DESIGN CHOICE, log 113) -/
inductive Emission where
  | beysyn (session : Nat) (message : List Byte)
  | dtls (addr : BitVec 128) (port : BitVec 16) (kind : Nat)   -- 0 HelloRetryRequest, 1 KeyUpdate answer
  | beysynTo (addr : BitVec 128) (port : BitVec 16) (message : List Byte)
  | plc (phases : List Nat) (frame : List Byte)
  | radio (chain : Nat) (chan : Chan) (frame : List Byte)
  | serial (portB : Bool) (frame : List Byte)
  | ethernet (port : Nat) (kind : Nat) (frame : List Byte)
  | holham (frame : HolhamTx) (retry crcOk : Bool)
  | tributary (child : Option Nat) (message : List Byte)
  | trigger (output : Nat) (active : Bool)
  | tdo (bits : Nat) (width : Nat)
  deriving DecidableEq, Repr

/-- The hardware's own copy of what it runs with during a tick (R41). -/
structure Hardware where
  records : Tab (List Byte)
  links   : Tab LinkEntry
  record  : LcRecord              -- life-cycle record that governs the hardware (R400, R616)
  deriving DecidableEq, Repr

/-- Capture: the log of the tick in progress and what waits for the next (R19 to R24). -/
structure CaptureBlock where
  tick    : BitVec 48             -- tick in progress
  isOn    : Bool                  -- a tick is being captured
  log     : InputLog
  frozen  : InputLog              -- log of the tick before, under processing
  hasFrozen : Bool
  queue   : List LogEntry         -- deferred inputs, oldest first
  carried : Nat                   -- entries of the queue from earlier ticks, not yet offered to this log
  released : List LogEntry        -- frames released from reorder at the boundary (R580)
  reports : List LogEntry         -- inputs made at the boundary, not yet entered (R125, R188, R295, R582)
  shipped : Nat                   -- entries of the log already shipped to the mirror (R434)
  excess  : List EventRec         -- event leaves carried to the next seal (R271)
  deriving DecidableEq, Repr

/-- The state of the M20. -/
structure State where
  sys     : SysBlock
  pll     : Pll
  cap     : CaptureBlock
  work    : Work
  cov     : Covered
  view    : Covered               -- state as of the answering seal
  snaps   : List (BitVec 48 × Covered)   -- states as of the seals not yet durable and the latest durable one, latest first
  closing : Option (Seal × List Record × List EventRec)  -- seal built, closing at the next boundary
  seals   : List Seal             -- closed seals that the store has not made durable, latest first
  hw      : Hardware
  obs     : Tab (BitVec 32)       -- observation words as of the answering seal
  plc     : Plc
  radio   : Radio
  tstat   : TableStat
  ingest  : Ingest
  metro   : Metro
  store   : Store
  time    : TimeBlock
  keys    : Keys
  twin    : Twin
  bey     : Beysyn
  upd     : Updates
  recorder : Recorder
  nor     : Nor
  test    : TestBlock
  out     : List Emission         -- latest last
  freeCtr : Nat                   -- model's own: counts free values drawn
  pending : List Instr            -- commands that wait, first in first out
  deriving DecidableEq, Repr

/-! ### Reset -/

/-- Pins right after reset. -/
def Pins.init : Pins :=
  { qspi := .hiz, line := .hiz, other := .hiz, analog := .hiz, writeProtect := false }

/-- Vbat right after reset. (DESIGN CHOICE, log 34) -/
def Vbat.init : Vbat :=
  { seconds := 0, valid := false, cause := none, stage := 0, lgTime := 0, xtalOk := true, fresh := true }

/-- ImageInfo right after reset. -/
def ImageInfo.init : ImageInfo :=
  { blank := true, serial := 0, records := 0, ledgerId := none, newLedger := false, digest := [],
    prevSerial := 0 }

/-- SysBlock right after reset. (DESIGN CHOICE, log 2) (DESIGN CHOICE, log 34) -/
def SysBlock.init : SysBlock :=
  { mode := .inReset, pins := Pins.init, region := 0, vbat := Vbat.init, cause := 0, lgIncomplete := false,
    vbatFresh := false, bootMs := 0, pfailWait := none, vbatLow := false, vbatLowSeen := false,
    image := ImageInfo.init, bootCause := 0, firstTick := true, imageDue := none, genesis := false,
    recovery := false, takeover := false, prevSeal := none, answer := none, lastSigned := 0,
    ethUp := List.replicate 4 true, procMax := ⟨0, 0⟩, logDeferred := ⟨0, 0⟩, captureDropped := ⟨0, 0⟩,
    waitMax := ⟨0, 0⟩ }

/-- Pll right after reset. (DESIGN CHOICE, log 2) -/
def Pll.init : Pll :=
  { lock := .freeRun, intervals := [], run := 0, steering := false, phase60 := 0, stripeNs := 0, tickNs := 0,
    prevLen := 0, events := [], lockLosses := ⟨0, 0⟩ }

/-- InputLog right after reset. -/
def InputLog.init : InputLog :=
  { tick := 0, entries := [], startLock := .freeRun, curLock := .freeRun, start := ⟨0, 0⟩, sync := 0,
    deferred := false, lastGasp := false, events := [] }

/-- CaptureBlock right after reset. (DESIGN CHOICE, log 2) -/
def CaptureBlock.init : CaptureBlock :=
  { tick := 0, isOn := false, log := InputLog.init, frozen := InputLog.init, hasFrozen := false, queue := [],
    carried := 0, released := [], reports := [], shipped := 0, excess := [] }

/-- Work right after reset. -/
def Work.init : Work :=
  { isOpen := false, log := InputLog.init, events := [], changes := [], leaves := [], built := [],
    ingested := [], handled := [], fresh := [], requests := 0, admitted := false, meterDone := false,
    swept := false, childSwept := false, applied := false, lastGasp := false }

/-- CovSys right after reset. -/
def CovSys.init : CovSys :=
  { records := [], sets := [], epoch := 0, lastApplied := 0 }

/-- Tables right after reset. -/
def Tables.init : Tables :=
  { endpoints := [], ways := [], links := [], routes := [], children := [], spills := [] }

/-- Ledger right after reset. -/
def Ledger.init : Ledger :=
  { histories := [], nextSeq := 0, children := [] }

/-- MetroObjs right after reset. -/
def MetroObjs.init : MetroObjs :=
  { energy := List.replicate 21 ⟨0, 0, 0, 0, 0, 0, 0, 0⟩, periods := [], balances := [], idents := [],
    failedNext := 0, failed := [], bins := [] }

/-- LcRecord right after reset. -/
def LcRecord.init : LcRecord :=
  { lifecycle := 0, revoke := 0, tamper := 0, written := 0 }

/-- KeyObjs right after reset. -/
def KeyObjs.init : KeyObjs :=
  { slots := [], requests := [], record := LcRecord.init }

/-- UpdObjs right after reset. -/
def UpdObjs.init : UpdObjs :=
  { session := none, campaign := none, tariffs := [] }

/-- Covered right after reset. -/
def Covered.init : Covered :=
  { sys := CovSys.init, tables := Tables.init, ledger := Ledger.init, metro := MetroObjs.init,
    keys := KeyObjs.init, upd := UpdObjs.init }

/-- Hardware right after reset. -/
def Hardware.init : Hardware :=
  { records := [], links := [], record := LcRecord.init }

/-- PhaseState right after reset. -/
def PhaseState.init : PhaseState :=
  { pw := List.replicate 8 none, charges := [], tickFcFail := 0, tickTx := false,
    tickBlank := List.replicate 8 0, tickZeroed := List.replicate 8 0, tickErased := List.replicate 8 0,
    steps := ⟨0, 0⟩, rxOk := ⟨0, 0⟩, rxFailed := ⟨0, 0⟩, fcFailed := ⟨0, 0⟩, mapMiss := ⟨0, 0⟩,
    rxPreempted := ⟨0, 0⟩, blankEvents := ⟨0, 0⟩, erasedSymbols := ⟨0, 0⟩, txSymbols := ⟨0, 0⟩,
    govHolds := ⟨0, 0⟩ }

/-- Plc right after reset. (DESIGN CHOICE, log 2) -/
def Plc.init : Plc :=
  { l1 := PhaseState.init, l2 := PhaseState.init, l3 := PhaseState.init, reception := none, onAir := none,
    shadows := [], queue := [], launches := [], waiting := [], nextQid := 0, sounding := none, lastMap := [],
    lastFail := [], frags := [], attempts := ⟨0, 0⟩, delivered := ⟨0, 0⟩, failed := ⟨0, 0⟩, txqFull := ⟨0, 0⟩,
    ackWithheld := ⟨0, 0⟩, duplicates := ⟨0, 0⟩, overheard := ⟨0, 0⟩, unknownSrc := ⟨0, 0⟩,
    routeErrors := ⟨0, 0⟩, meshDropped := ⟨0, 0⟩, fragTimeouts := ⟨0, 0⟩, launchLate := ⟨0, 0⟩,
    launchDropped := ⟨0, 0⟩, launchFull := ⟨0, 0⟩, joins := ⟨0, 0⟩, joinRefused := ⟨0, 0⟩, reclaimed := ⟨0, 0⟩ }

/-- RadioTick right after reset. -/
def RadioTick.init : RadioTick :=
  { txed := false, ctxMax := 0, detections := 0, ctxExhausted := 0, fcsFailed := 0, syncLost := 0,
    msDropped := 0, rxPreempted := 0, ackWithheld := 0, armOverlap := 0 }

/-- Radio right after reset. (DESIGN CHOICE, log 2) -/
def Radio.init : Radio :=
  { ctx := List.replicate 32 none, arms := [], armsHw := [], searches := [], held := List.replicate 7 none,
    filters := [], chain0 := none, chain1 := none, queue := [], launches := [], mailboxes := [],
    sleepQueue := [], ledger := [], ledgerHw := [], ownPrev := [], ownCur := [], nextQid := 0, frags := [],
    tick := RadioTick.init, ctxMax := ⟨0, 0⟩, ctxExhausted := ⟨0, 0⟩, rxOk := ⟨0, 0⟩, fcsFailed := ⟨0, 0⟩,
    syncLost := ⟨0, 0⟩, msDropped := ⟨0, 0⟩, hwReplay := ⟨0, 0⟩, rxPreempted := ⟨0, 0⟩, acksSent := ⟨0, 0⟩,
    ackWithheld := ⟨0, 0⟩, hwDup := ⟨0, 0⟩, attempts := ⟨0, 0⟩, delivered := ⟨0, 0⟩, failed := ⟨0, 0⟩,
    ccaFailed := ⟨0, 0⟩, ledgerHolds := ⟨0, 0⟩, armOverlap := ⟨0, 0⟩, meshDropped := ⟨0, 0⟩,
    fragTimeouts := ⟨0, 0⟩, launchLate := ⟨0, 0⟩, launchFull := ⟨0, 0⟩ }

/-- TableStat right after reset. -/
def TableStat.init : TableStat :=
  { floods := 0, learned := ⟨0, 0⟩, moves := ⟨0, 0⟩, staticRefused := ⟨0, 0⟩, barredDrops := ⟨0, 0⟩,
    insertFails := ⟨0, 0⟩, slotsExhausted := ⟨0, 0⟩, spillFloods := ⟨0, 0⟩, spillDropped := ⟨0, 0⟩,
    noRoute := ⟨0, 0⟩, childRefused := ⟨0, 0⟩, parityErrors := ⟨0, 0⟩ }

/-- TribChild right after reset. -/
def TribChild.init : TribChild :=
  { watermark := none, sent := 0, lastTick := 0, pauseTo := none, version := 0, stopped := false,
    batchSeq := 0 }

/-- Ingest right after reset. (DESIGN CHOICE, log 2) -/
def Ingest.init : Ingest :=
  { plcQ := [], radioQ := [], serialQ := [], tribQ := [], parked1 := [], parked2 := [], fetches := [],
    fetched := [], cache := [], queuedSeq := [], trib := TribChild.init, reads := [], serialA := [],
    serialB := [], deferred := [], builtMax := ⟨0, 0⟩, parkedMax := ⟨0, 0⟩, replays := ⟨0, 0⟩,
    retransmits := ⟨0, 0⟩, authFailed := ⟨0, 0⟩, unsecured := ⟨0, 0⟩, typeRejected := ⟨0, 0⟩, noPlan := ⟨0, 0⟩,
    valFlagged := ⟨0, 0⟩, valRejected := ⟨0, 0⟩, weirOverflow := ⟨0, 0⟩, sigNoKey := ⟨0, 0⟩,
    noRegister := ⟨0, 0⟩, readFailed := ⟨0, 0⟩, assocRefused := ⟨0, 0⟩, unknownSource := ⟨0, 0⟩,
    duplicates := ⟨0, 0⟩, batches := ⟨0, 0⟩, tribBusy := ⟨0, 0⟩, tribMalformed := ⟨0, 0⟩,
    tribDuplicates := ⟨0, 0⟩ }

/-- Metro right after reset. (DESIGN CHOICE, log 2) -/
def Metro.init : Metro :=
  { settle := List.replicate 32 0, negStart := false, timeStep := false, retained := none,
    retainedLocked := false, restartPrev := 0, recs := [], recsOld := [], quantities := [], conductors := [],
    unsettled := 0, lastOver := 0, pairs := 0, skipTo := [], skipDue := [], overrange := ⟨0, 0⟩,
    lateShares := ⟨0, 0⟩, assigned := ⟨0, 0⟩, failed := ⟨0, 0⟩ }

/-- Store right after reset. (DESIGN CHOICE, log 2) -/
def Store.init : Store :=
  { mode := .coarseStart, formatId := 0, ledgerId := none, lunSet := [], perLun := 0, pages := 0, perPage := 0,
    blocks := [], nextLun := 0, pageSeq := 0, map := [], directory := [], frames := [], dirty := [],
    lent := false, classes := [], hot := none, copyBlock := none, rangeNext := 0, seals := [], records := [],
    journal := [], packages := [], durable := none, checkpoint := none, ckptDue := none, stateDirty := [],
    dirtyPairs := [], roots := [], writebacks := [], logBlocks := [], coarseMap := [], lastLow := none,
    scanned := false, writeProtect := false, recorderBlocks := [], vaultBlocks := [], extrasLedger := none,
    retired := 0, ckptLate := ⟨0, 0⟩, written := ⟨0, 0⟩, copied := ⟨0, 0⟩, programFails := ⟨0, 0⟩,
    eraseFails := ⟨0, 0⟩, uncorrectable := ⟨0, 0⟩, earlyExpiries := ⟨0, 0⟩, mapMisses := ⟨0, 0⟩,
    fetches := ⟨0, 0⟩ }

/-- TimeBlock right after reset. (DESIGN CHOICE, log 2) (DESIGN CHOICE, log 64) -/
def TimeBlock.init : TimeBlock :=
  { sec := 0, ns := 0, frac := 0, utcOffset := 0, utcValid := false, leap61 := false, leapOn := false,
    stepped := false, servo := .free, integral := 0, rate := 0, lockRun := 0, unlockRun := 0, theta := 0,
    path := 0, pathSet := false, exchange := none, utcSeen := false, ppsSeen := false,
    ports := List.replicate 4 ⟨.listening, none⟩, parent := none, slave := none, serialA := [], serialB := [],
    pins := List.replicate 4 ⟨false, false, none, 0, false⟩, triggers := List.replicate 4 0, msgs := [],
    lastSync := false, anyLog := false, steps := ⟨0, 0⟩, syncs := ⟨0, 0⟩, announceTimeouts := ⟨0, 0⟩,
    ptpDropped := ⟨0, 0⟩, edges0 := ⟨0, 0⟩, edges1 := ⟨0, 0⟩, edges2 := ⟨0, 0⟩, edges3 := ⟨0, 0⟩,
    timeSets := ⟨0, 0⟩, timeSetRefused := ⟨0, 0⟩, serLate := ⟨0, 0⟩, serFull := ⟨0, 0⟩ }

/-- RootFuses right after reset. (DESIGN CHOICE, log 3) -/
def RootFuses.init : RootFuses :=
  { secret := [], digest := [], done := false }

/-- Fuses right after reset. (DESIGN CHOICE, log 3) -/
def Fuses.init : Fuses :=
  { deviceSecret := List.replicate 32 0, eui := 0, rootM := RootFuses.init, rootP := RootFuses.init,
    rootF0 := RootFuses.init, rootF1 := RootFuses.init, rootQ := List.replicate 32 0, lifecycle := 0,
    revoke := 0, tamper := 0 }

/-- Keys right after reset. -/
def Keys.init : Keys :=
  { fuses := Fuses.init, cells := [], kept := [], pubs := [], copyA := none, copyB := none, mirrorA := none,
    mirrorB := none, inUseB := false, fromMirror := false, mirrorLastB := false, highGen := 0, vaultDue := [],
    frozen := false, zeroiseDue := false, burns := [], burnCause := [], starting := false, latch := none,
    active := 0, chained := [], writeFails := ⟨0, 0⟩, alarms := ⟨0, 0⟩, derivations := ⟨0, 0⟩,
    aborted := ⟨0, 0⟩, exhausted := ⟨0, 0⟩ }

/-- Twin right after reset. (DESIGN CHOICE, log 2) -/
def Twin.init : Twin :=
  { role := .single, standby := .starting, paired := false, waitingHello := false, primaryN := false,
    peerN := false, linkUp := false, txSeq := 0, rxSeq := 0, unacked := [], peer := none, logs := [],
    ownTick := 0, matched := false, renewal := 0, renewed := false, lapsed := false, queryTick := none,
    silentTick := none, ackTick := 0, mirror := none, swapAt := none, swapTransfer := false,
    waitAnswer := none, handover := none, endDue := false, lastLog := none, termAt := none, firstM := none,
    asked := false, rejoinSeal := none, xferOut := [], xferEnd := [], xferIn := [], xferCount := 0,
    xferSwap := false, loaded := none, fillNext := none, fillLow := 0, peerDurable := 0, fillDone := false,
    swaps := ⟨0, 0⟩, swapRefused := ⟨0, 0⟩, compared := ⟨0, 0⟩, mismatches := ⟨0, 0⟩, rejoins := ⟨0, 0⟩,
    retransmits := ⟨0, 0⟩, crcErrors := ⟨0, 0⟩, linkDowns := ⟨0, 0⟩ }

/-- Beysyn right after reset. (DESIGN CHOICE, log 2) -/
def Beysyn.init : Beysyn :=
  { dtls := [], handshakes := 0, tribClients := [], ephemeral := none, witnessUp := false, parentUp := false,
    retryParent := false, retryWitness := false, reassembly := [], sessions := [], own := [], staging := [],
    queries := [], clear := none, alert := 0, mark := 0, messages := ⟨0, 0⟩, dupRequests := ⟨0, 0⟩,
    refused := ⟨0, 0⟩, denied := ⟨0, 0⟩, malformed := ⟨0, 0⟩, busy := ⟨0, 0⟩, conflict := ⟨0, 0⟩ }

/-- Updates right after reset. (DESIGN CHOICE, log 2) -/
def Updates.init : Updates :=
  { writes := [], delta := [], writeFailed := false, running := [], verify := .notStarted, cause := 0,
    rebuilt := [], fw := Config.factoryBoot, fwImage := [], fresh := Config.factoryBoot, deadWindow := false,
    activation := none, rewriteDue := none, mirrorRewrite := false, activated := none, hasImage := false,
    readback := false, requests := [], attrs := [], lastBlock := 0, missing := [], polled := [],
    tariffFailed := ⟨0, 0⟩, multicast := ⟨0, 0⟩, unicast := ⟨0, 0⟩ }

/-- Recorder right after reset. (DESIGN CHOICE, log 2) -/
def Recorder.init : Recorder :=
  { written := [], base := 0, staging := [], noGrain := false, full := false, lostNow := 0, lostTick := 0,
    nextSeq := 0, clears := 0, clearing := false, mark := 0, bad := [], stagedMax := ⟨0, 0⟩, lost := ⟨0, 0⟩,
    droppedFull := ⟨0, 0⟩, coalesced := ⟨0, 0⟩ }

/-- Journal right after reset. (DESIGN CHOICE, log 2) -/
def Journal.init : Journal :=
  { halfB := false, seq := 0, digest := [], ledgerId := 0, snapshot := [], entries := [], due := [],
    frozen := false, fails := ⟨0, 0⟩ }

/-- Nor right after reset. (DESIGN CHOICE, log 2) -/
def Nor.init : Nor :=
  { boot := some Config.factoryBoot, firmware := [], reports := [], image := [], journal := Journal.init }

/-- Tap right after reset. (PRESUMED, log 104) -/
def Tap.init : Tap :=
  { inst := 2, boundary := List.replicate 166 false, shifted := 0x14D20A3B }

/-- TestBlock right after reset. (DESIGN CHOICE, log 34) -/
def TestBlock.init : TestBlock :=
  { links := [], tap := Tap.init, resetLow := false, refused := [] }

/-- The M20 right after reset, before its start sequence (R560): every block at its power-up state, nothing stored.
(DESIGN CHOICE, log 2) -/
def State.reset : State :=
  { sys := SysBlock.init, pll := Pll.init, cap := CaptureBlock.init, work := Work.init, cov := Covered.init,
    view := Covered.init, snaps := [], closing := none, seals := [], hw := Hardware.init, obs := [],
    plc := Plc.init, radio := Radio.init, tstat := TableStat.init, ingest := Ingest.init, metro := Metro.init,
    store := Store.init, time := TimeBlock.init, keys := Keys.init, twin := Twin.init, bey := Beysyn.init,
    upd := Updates.init, recorder := Recorder.init, nor := Nor.init, test := TestBlock.init, out := [],
    freeCtr := 0, pending := [] }

end Sys2Proof.Machine
end

