-- ==== Sys2Proof/Machine/Ops.lean ====
section
/-!
DEFINITION. The named operations every block shares: how a command answers, guards, counters that a read clears,
configuration records, the place of work in the arbitration order, events, state changes, and the recorder's entry.
-/
namespace Sys2Proof.Machine

open Sys2Proof

/-- What every command answers with. -/
abbrev Answer := Host.Outcome State Fault Refusal

/-- The outcome of a command: the next state. No command touches the queue of waiting commands, none writes the
configuration image region (R55, R59), and none but a fuse burn changes a fuse (R391). -/
def done (s t : State) : Answer :=
  .next { t with pending := s.pending, keys.fuses := s.keys.fuses, nor.image := s.nor.image }

/-- The outcome of a command that may burn fuses (R400). -/
def doneFuse (s t : State) : Answer :=
  .next { t with pending := s.pending, nor.image := s.nor.image }

/-- Fuses of `new` that may burn outside a FUSE_BURN, on top of those of `old`: a burned bit stays burned, and roots, the
EUI-64 and the keys of the factory do not change (R391, R401, R418). -/
def burnedInto (old new : Fuses) : Fuses :=
  { old with lifecycle := old.lifecycle ||| new.lifecycle, revoke := old.revoke ||| new.revoke,
             tamper := old.tamper ||| new.tamper }

/-- The outcome of a command that may burn a quarantine entry on its way to a reset (R418, R558). -/
def doneEntry (s t : State) : Answer :=
  .next { t with pending := s.pending, keys.fuses := burnedInto s.keys.fuses t.keys.fuses, nor.image := s.nor.image }

/-- The outcome of a start, ahead of which the board may have written the image region (R55), and which may burn quarantine
entries and fuses that the record is ahead of (R401, R418). -/
def doneBoard (s t : State) : Answer :=
  .next { t with pending := s.pending, keys.fuses := burnedInto s.keys.fuses t.keys.fuses }

/-- The unit is running (R57). -/
def running (s : State) : Bool := s.sys.mode == .running

/-- The unit captures: it is running as single unit or primary (R424). -/
def capturing (s : State) : Bool :=
  running s && s.cap.isOn && (s.twin.role == .single || s.twin.role == .primary)

/-- The output states of R542 and R543 that the unit's mode and role call for. -/
def pinStates (s : State) : Pins :=
  match s.sys.mode with
  | .inReset | .pfailHeld | .dead => ⟨.hiz, .hiz, .hiz, .hiz, false⟩
  | .halted => ⟨.parked, .hiz, .hiz, .hiz, false⟩
  | .gaspDone | .pause => ⟨.asFunction, .inactive, .asFunction, .commonMode, s.store.writeProtect⟩
  | .waiting => ⟨.asFunction, .inactive, .inactive, .commonMode, false⟩
  | .running =>
    if capturing s then ⟨.asFunction, .asFunction, .asFunction, .asFunction, false⟩
    else ⟨.asFunction, .inactive, if s.sys.firstTick && s.twin.role != .mirror then .inactive else .asFunction, .commonMode, false⟩

/-- The output groups take the states of R542. -/
def settlePins (s : State) : State := { s with sys.pins := pinStates s }

/-- `f` where the unit captures, nothing elsewhere: a unit that is in reset, halted, dead, in last gasp or a mirror takes
no input (R48, R67, R428, R501, R568). (DESIGN CHOICE, log 8) -/
def whenCapturing (s : State) (f : State → State) : Answer := done s (if capturing s then f s else s)

/-- `f` where the unit runs in any role. (DESIGN CHOICE, log 8) -/
def whenRunning (s : State) (f : State → State) : Answer := done s (if running s then f s else s)

/-- `f` within the processing of a log, between its freeze and its seal (R28). (DEDUCED, log 7) (DESIGN CHOICE, log 8) -/
def whenProcessing (s : State) (f : State → State) : Answer :=
  done s (if running s && s.work.isOpen then f s else s)

/-! ### Fields that a read clears (R9, R10) -/

/-- `n` more, saturating. -/
def Rc.add {w : Nat} (r : Rc w) (n : Nat) : Rc w := { r with later := BitVec.ofNat w (sat w (r.later.toNat + n)) }

/-- One more, saturating. -/
def Rc.inc {w : Nat} (r : Rc w) : Rc w := r.add 1

/-- A sample of a field that holds a maximum (R10). -/
def Rc.sample {w : Nat} (r : Rc w) (n : Nat) : Rc w := { r with later := BitVec.ofNat w (max r.later.toNat (sat w n)) }

/-- A count at the boundary that closes a seal. -/
def Rc.fold {w : Nat} (r : Rc w) : Rc w := ⟨BitVec.ofNat w (sat w (r.sealed.toNat + r.later.toNat)), 0⟩

/-- A maximum at the boundary that closes a seal. -/
def Rc.foldMax {w : Nat} (r : Rc w) : Rc w := ⟨BitVec.ofNat w (max r.sealed.toNat r.later.toNat), 0⟩

/-- The clear that a read makes. -/
def Rc.clear {w : Nat} (r : Rc w) : Rc w := { r with sealed := 0 }

/-! ### Configuration records (R35, R69, R73) -/

/-- The table key of a record: TYPE[14:0] and the record's key (R35). -/
def recKey (type key : Nat) : Nat := type * 65536 + key

/-- `size` bytes at `off` of record (`type`, `key`), or the default where the record is absent. -/
def cfgOf (recs : Tab Bytes) (type key off size dflt : Nat) : Nat :=
  match tget recs (recKey type key) with
  | none => dflt
  | some v => ofLe (slice v off size)

/-- `len` bytes at `off` of a record, zeros where it is absent. -/
def cfgBytes (recs : Tab Bytes) (type key off len : Nat) : Bytes :=
  match tget recs (recKey type key) with
  | none => zeros len
  | some v => slice v off len

/-- A field of a record in the state. -/
def cfg (s : State) (type key off size dflt : Nat) : Nat := cfgOf s.cov.sys.records type key off size dflt

/-- A field of a record as the hardware holds it (R41). -/
def hwCfg (s : State) (type key off size dflt : Nat) : Nat := cfgOf s.hw.records type key off size dflt

/-- The records of a type, with their keys, in ascending order of key. -/
def recsOfType (recs : Tab Bytes) (type : Nat) : List (Nat × Bytes) :=
  recs.filterMap fun r => if r.1 / 65536 = type then some (r.1 % 65536, r.2) else none

/-- Nominal mains is 60 Hz (R16, R60, R73). -/
def nominal60Of (recs : Tab Bytes) (region : BitVec 2) : Bool :=
  match cfgOf recs 0x0001 0 0 1 0 with
  | 1 => false
  | 2 => true
  | _ => region.getLsbD 0

/-- Nominal mains of the state is 60 Hz. -/
def nominal60 (s : State) : Bool := nominal60Of s.cov.sys.records s.sys.region

/-- Nominal ticks in a second (R495). -/
def ticksPerS (s : State) : Nat := if nominal60 s then 120 else 100

/-- The radio band of the strap: 1 for 863 to 876 MHz, 2 for 902 to 928 MHz, 3 for off (R60). -/
def strapBand (region : BitVec 2) : Nat :=
  match region.toNat with
  | 0 => 1 | 1 => 2 | 2 => 2 | _ => 3

/-- SYSTEM names a band other than the strapped one (R61). -/
def strapMismatch (recs : Tab Bytes) (region : BitVec 2) : Bool :=
  let b := cfgOf recs 0x0001 0 1 1 0
  (b == 1 || b == 2) && b != strapBand region

/-- The radio is on (R61, R166). -/
def radioOnOf (recs : Tab Bytes) (region : BitVec 2) : Bool :=
  strapBand region != 3 && cfgOf recs 0x0001 0 1 1 0 != 3 && !strapMismatch recs region

/-- The radio runs in the 902 to 928 MHz band. -/
def band900 (s : State) : Bool := strapBand s.sys.region == 2

/-! ### Free values -/

/-- The next free random word of the crypto block. (DESIGN CHOICE, log 5) (DESIGN CHOICE, log 78) -/
def drawWord (s : State) : BitVec 32 × State := (Config.freeWord s.freeCtr, { s with freeCtr := s.freeCtr + 1 })

/-- `n` free bytes, and the state with the draw counted. (DESIGN CHOICE, log 5) -/
def drawBytes (n : Nat) (s : State) : Bytes × State :=
  ((List.range n).map fun i => (Config.freeWord (s.freeCtr + i)).truncate 8, { s with freeCtr := s.freeCtr + n })

/-! ### Places in the arbitration order (R46, R243, R615) -/

/-- The engine that handles frames of a port (R243). -/
def frameEngine (port : Nat) : Nat :=
  if port ≤ 3 then 3 + port else if port = 4 then 7 else if port = 6 then 8 else if port = 7 then 9
  else 10 + (port - 7) % 6

/-- The record engine of a slot (R243). -/
def recordEngine (slot : Nat) : Nat := 16 + slot % 8

/-- Work on engine `e` for the input `o`. -/
def Src.onInput (e : Nat) (o : Org) : Src := ⟨1, e, 1, o.port, o.pos⟩

/-- Work on engine `e` that no input of the log makes. -/
def Src.sweep (e : Nat) : Src := ⟨1, e, 2, 0, 0⟩

/-- The frame engine's work for an input. -/
def Src.frame (o : Org) : Src := Src.onInput (frameEngine o.port) o

/-- The record engine's work for an input. -/
def Src.slot (slot : Nat) (o : Org) : Src := Src.onInput (recordEngine slot) o

/-- C0's work for a Beysyn entry (stages 2 and 6). -/
def Src.c0 (o : Org) : Src := Src.onInput 0 o

/-- C0's work of stage 7 (R44, R46 step 2). -/
def Src.stagedSet : Src := ⟨2, 0, 2, 0, 0⟩

/-- C0's work ahead of stage 1 (R77). -/
def Src.image : Src := ⟨0, 0, 0, 0, 0⟩

/-- `a` stands before `b` in the order of R46, or they do not differ. -/
def Src.le (a b : Src) : Bool :=
  let ka := [a.stage, a.engine, a.ord, a.port, a.pos]
  let kb := [b.stage, b.engine, b.ord, b.port, b.pos]
  !(decide (kb < ka))

/-- Insert `x` into a sorted list behind everything that does not stand after it. -/
def insertBy {α : Type} (le : α → α → Bool) (x : α) : List α → List α
  | [] => [x]
  | y :: ys => if le y x then y :: insertBy le x ys else x :: y :: ys

/-- A stable sort. -/
def sortBy {α : Type} (le : α → α → Bool) (xs : List α) : List α := xs.foldl (fun acc x => insertBy le x acc) []

/-! ### State changes and sealed events -/

/-- An event raised in processing, a leaf of its seal (R521). -/
def raise (src : Src) (code : Nat) (ps : List Nat) (s : State) : State :=
  { s with work.events := ⟨src, code, ps⟩ :: s.work.events }

/-- A state change of the processing (R33, R611). -/
def change (src : Src) (block kind index : Nat) (value : Bytes) (s : State) : State :=
  { s with work.changes := ⟨src, block, kind, index, value⟩ :: s.work.changes }

/-- A message, frame or level that leaves the part. (DESIGN CHOICE, log 113) -/
def emit (e : Emission) (s : State) : State := { s with out := s.out ++ [e] }

/-! ### The recorder's staging (R520 to R524) -/

/-- The write position: the index of the next free slot (R523). -/
def Recorder.writePos (r : Recorder) : Nat := r.base + r.staging.length

/-- An event record raised outside processing, with its parameters in order, unused ones zero (R514 to R518). -/
def EventRec.unsealed (code : BitVec 16) (source : BitVec 8) (tick : BitVec 48) (seq : BitVec 16) (ps : List Nat) :
    EventRec :=
  ⟨code, 0, source, tick, seq, BitVec.ofNat 32 (ps.getD 0 0), BitVec.ofNat 32 (ps.getD 1 0),
    BitVec.ofNat 32 (ps.getD 2 0), BitVec.ofNat 32 (ps.getD 3 0)⟩

/-- A record enters staging, or RECORDER_FULL takes the last slot in its place (R524). -/
def Recorder.enter (r : Recorder) (tick : BitVec 48) (e : EventRec) : Recorder :=
  if r.full then { r with droppedFull := r.droppedFull.inc }
  else if r.writePos = 262143 then
    let f := EventRec.unsealed 0x0050 0x80 tick r.nextSeq [r.writePos, r.lost.sealed.toNat + r.lost.later.toNat]
    { r with staging := r.staging ++ [f], nextSeq := r.nextSeq + 1, full := true, droppedFull := r.droppedFull.inc,
             stagedMax := r.stagedMax.sample (r.staging.length + 1) }
  else { r with staging := r.staging ++ [e], stagedMax := r.stagedMax.sample (r.staging.length + 1) }

/-- Records that find no place: discarded and counted until they can be reported (R522). -/
def Recorder.discard (r : Recorder) (es : List EventRec) : Recorder :=
  match es with
  | [] => r
  | e :: _ =>
    if r.full then { r with droppedFull := r.droppedFull.add es.length }
    else { r with lost := r.lost.add es.length, lostNow := r.lostNow + es.length,
                  lostTick := if r.lostNow = 0 then e.tick else r.lostTick }

/-- Records offered to staging at one moment, in order (R522). -/
def Recorder.offer (r : Recorder) (tick : BitVec 48) (es : List EventRec) : Recorder :=
  let free := 4096 - r.staging.length
  if r.full || es.isEmpty then r.discard es
  else if r.lostNow = 0 then
    ((es.take free).foldl (fun r e => r.enter tick e) r).discard (es.drop free)
  else if 2 ≤ free then
    let l := EventRec.unsealed 0x0051 0x80 tick r.nextSeq [r.lostNow, r.lostTick.toNat]
    let r1 := ({ r with nextSeq := r.nextSeq + 1, lostNow := 0 }).enter tick l
    ((es.take (free - 1)).foldl (fun r e => r.enter tick e) r1).discard (es.drop (free - 1))
  else r.discard es

/-- The first `n` records of staging are programmed (R523). -/
def Recorder.programmed (r : Recorder) (n : Nat) : Recorder :=
  let put := fun (a : Tab EventRec × Nat) e => (tput a.1 a.2 e, a.2 + 1)
  { r with written := ((r.staging.take n).foldl put (r.written, r.base)).1,
           base := r.base + (r.staging.take n).length, staging := r.staging.drop n }

/-- Everything in staging is programmed, a partial grain last; its empty slots are skipped (R523). -/
def Recorder.flush (r : Recorder) : Recorder :=
  let r := r.programmed r.staging.length
  { r with base := ceilDiv r.base 128 * 128 }

/-- No grain can be programmed any more: RECORDER_FULL takes the last place (R354, R524). (DEDUCED, log 99) -/
def Recorder.noSpare (r : Recorder) (tick : BitVec 48) : Recorder :=
  if r.noGrain || r.full then { r with noGrain := true }
  else
    let f := EventRec.unsealed 0x0050 0x80 tick r.nextSeq [r.writePos, r.lost.sealed.toNat + r.lost.later.toNat]
    let room := decide (r.staging.length < 4096)
    { r with staging := (if room then r.staging else r.staging.dropLast) ++ [f], nextSeq := r.nextSeq + 1, full := true,
             noGrain := true, droppedFull := if room then r.droppedFull else r.droppedFull.inc }

/-- The latest unsealed record of staging that an unsealed event coalesces into takes the count (R521). -/
def coalesceInto (code : BitVec 16) (source : BitVec 8) (tick : BitVec 48) : List EventRec → Option (List EventRec)
  | [] => none
  | e :: es =>
    match coalesceInto code source tick es with
    | some es' => some (e :: es')
    | none =>
      if e.code = code ∧ e.source = source ∧ e.tick = tick ∧ e.flags.getLsbD 0 = false then
        let n := if e.flags.getLsbD 1 then e.p3.toNat else 1
        some ({ e with flags := e.flags ||| 2, p3 := BitVec.ofNat 32 (sat 32 (n + 1)) } :: es)
      else none

/-- An event raised outside processing (R360, R516 to R518, R520, R521). -/
def raiseU (code : Nat) (ps : List Nat) (s : State) : State :=
  let c := BitVec.ofNat 16 code
  let src := BitVec.ofNat 8 (0x80 + code / 4096)
  match coalesceInto c src s.cap.tick s.recorder.staging with
  | some st => { s with recorder.staging := st, recorder.coalesced := s.recorder.coalesced.inc }
  | none =>
    let e := EventRec.unsealed c src s.cap.tick s.recorder.nextSeq ps
    let r := s.recorder.offer s.cap.tick [e]
    { s with recorder := if r.staging.any (fun x => decide (x = e)) then { r with nextSeq := r.nextSeq + 1 } else r }

/-- Bytes of an event record with its CRC (R514). -/
def EventRec.bytes (e : EventRec) : Bytes :=
  let b := le 2 e.code.toNat ++ le 1 e.flags.toNat ++ le 1 e.source.toNat ++ le 6 e.tick.toNat ++ le 2 e.seq.toNat
    ++ le 4 e.p0.toNat ++ le 4 e.p1.toNat ++ le 4 e.p2.toNat ++ le 4 e.p3.toNat
  b ++ le 4 (crc32 b).toNat

/-! ### Times -/

/-- An instant in nanoseconds of PTP time. -/
def stampNs (t : Stamp) : Nat := t.sec.toNat * 1000000000 + t.ns.toNat

/-- The time base in nanoseconds of PTP time. -/
def nowNs (s : State) : Nat := s.time.sec.toNat * 1000000000 + s.time.ns.toNat

/-- Seconds from 1970-01-01 (PTP epoch) to 2020-01-01 UTC, leap seconds apart (R366). -/
def epoch2020 : Nat := 1577836800

/-- The 64 low and high halves of an EUI-64 as event parameters (R610): bits [31:0] are e4 to e7. -/
def euiLow (e : BitVec 64) : Nat := e.toNat % 2 ^ 32

/-- The EUI-64 as bytes, e0 first; an EUI-64 is held as the number whose most significant byte is e0. -/
def euiBytes (e : BitVec 64) : Bytes := be 8 e.toNat

/-- The EUI-64 of eight bytes, e0 first. -/
def euiOf (b : Bytes) : BitVec 64 := BitVec.ofNat 64 (ofBe b)

/-- The unit's own EUI-64 (R391). -/
def ownEui (s : State) : BitVec 64 := s.keys.fuses.eui

/-- An IPv6 address of sixteen bytes in network order. -/
def addrOf (b : Bytes) : BitVec 128 := BitVec.ofNat 128 (ofBe b)

end Sys2Proof.Machine
end

