-- ==== Sys2Proof/Machine/Faults.lean ====
section
/-!
DEFINITION. The life-cycle state in force (chapter 11), the draws of fault injection (chapter 18), and the sending of
Holham frames (chapter 12).
-/
namespace Sys2Proof.Machine

open Sys2Proof

/-! ### Life cycle (R395, R396, R616) -/

/-- Set bits of a field of `v`. -/
def popCount : Nat → Nat → Nat
  | 0, _ => 0
  | n + 1, v => v % 2 + popCount n (v / 2)

/-- The LIFECYCLE fuses in force: burned fuses and the record's image (R616). -/
def lifeFuses (s : State) : Nat := (s.keys.fuses.lifecycle ||| s.cov.keys.record.lifecycle).toNat

/-- The REVOKE fuses in force. -/
def revokeFuses (s : State) : Nat := (s.keys.fuses.revoke ||| s.cov.keys.record.revoke).toNat

/-- The TAMPER_ENABLE fuses in force. -/
def tamperFuses (s : State) : BitVec 10 := s.keys.fuses.tamper ||| s.cov.keys.record.tamper

/-- Quarantine entries burned. -/
def entriesOf (l : Nat) : Nat := popCount 9 (l / 4)

/-- Returns burned. -/
def returnsOf (l : Nat) : Nat := popCount 8 (l / 2 ^ 11)

/-- The state beneath QUARANTINE (R395 rules 3 to 5). -/
def beneath (l : Nat) : LifeCycle := if testBit l 1 then .field else if testBit l 0 then .provision else .manufacture

/-- The state that a value of the LIFECYCLE fuses decodes to (R395). -/
def decodeLife (l : Nat) : LifeCycle :=
  if testBit l 19 then .scrap else if returnsOf l < entriesOf l then .quarantine else beneath l

/-- The life-cycle state in force. -/
def lifeState (s : State) : LifeCycle := decodeLife (lifeFuses s)

/-- Life-cycle state of the hardware: burned fuses and the record in force at this boundary (R400, R616).
(DEDUCED, log 74) -/
def hwLifeState (s : State) : LifeCycle := decodeLife (s.keys.fuses.lifecycle ||| s.hw.record.lifecycle).toNat

/-- The code of a life-cycle state (R68). -/
def LifeCycle.code : LifeCycle → Nat
  | .manufacture => 0 | .provision => 1 | .field => 2 | .quarantine => 3 | .scrap => 4

/-! ### Fault injection (R575 to R584) -/

/-- One shift of the Galois LFSR (R577). -/
def lfsrShift (s : BitVec 32) : BitVec 32 := if s.getLsbD 0 then (s >>> 1) ^^^ 0xE0000200#32 else s >>> 1

/-- `n` shifts. -/
def lfsrShifts : Nat → BitVec 32 → BitVec 32
  | 0, s => s
  | n + 1, s => lfsrShifts n (lfsrShift s)

/-- The LFSR of link `k` and direction `d` at the start of tick `t` (R577). -/
def lfsrStart (seed t k d : Nat) : BitVec 32 :=
  let v := BitVec.ofNat 32 seed ^^^ BitVec.ofNat 32 (t * 0x9E3779B9) ^^^ BitVec.ofNat 32 (k * 256) ^^^ BitVec.ofNat 32 d
  if v = 0 then 1 else v

/-- The five draws of a frame and the LFSR after them (R577). -/
structure Draws where
  a : Nat
  b : Nat
  c : Nat
  p : Nat
  m : Nat
  after : BitVec 32
  deriving DecidableEq, Repr

/-- Take five 16-bit draws. -/
def fiveDraws (s : BitVec 32) : Draws :=
  let s1 := lfsrShifts 16 s
  let s2 := lfsrShifts 16 s1
  let s3 := lfsrShifts 16 s2
  let s4 := lfsrShifts 16 s3
  let s5 := lfsrShifts 16 s4
  let lo (x : BitVec 32) : Nat := x.toNat % 65536
  ⟨lo s1, lo s2, lo s3, lo s4, lo s5, s5⟩

/-- The links of R575 in ascending number. -/
def faultLinks : List Nat := [1, 2, 3, 4, 5, 6, 7, 0x10, 0x11, 0x12, 0x13]

/-- Fault injection is permitted in the life-cycle state (R584). (DEDUCED, log 74) -/
def faultPermitted (s : State) : Bool :=
  match hwLifeState s with
  | .manufacture | .provision | .field => true
  | _ => false

/-- A link's direction is under injection: ENABLE and the direction's flag of its record in the hardware (R576). -/
def faultOn (s : State) (link : Nat) (rx : Bool) : Bool :=
  let f := hwCfg s 0x0F01 link 0 1 0
  faultPermitted s && testBit f 0 && testBit f (if rx then 1 else 2)

/-- A link never used. -/
def FaultLink.blank : FaultLink := ⟨1, 1, none, [0, 0, 0, 0, 0], ⟨0, 0⟩, ⟨0, 0⟩, ⟨0, 0⟩, ⟨0, 0⟩, ⟨0, 0⟩⟩

/-- The injection state of a link. -/
def faultLink (s : State) (link : Nat) : FaultLink := tgetD s.test.links link FaultLink.blank

/-- Write the injection state of a link. -/
def putFaultLink (link : Nat) (l : FaultLink) (s : State) : State :=
  { s with test.links := tput s.test.links link l }

/-- One more in this tick's count `i` of a link. (DEDUCED, log 101) -/
def FaultLink.tally (l : FaultLink) (i : Nat) : FaultLink :=
  { l with tick := l.tick.set i (sat 16 (l.tick.getD i 0 + 1)) }

/-- What injection does to a frame (R577). -/
inductive FaultEffect where
  | pass | drop | corrupt (pos mask : Nat) | reorder
  deriving DecidableEq, Repr

/-- The effect on a frame of a link and direction: five draws whatever the outcome; a frame the line has failed takes no
effect and no count; a second reorder is ignored while a frame is held (R577, R580, R581). (DEDUCED, log 65) -/
def injectFault (link : Nat) (rx failed : Bool) (s : State) : FaultEffect × State :=
  if !faultOn s link rx then (.pass, s)
  else
    let l := faultLink s link
    let d := fiveDraws (if rx then l.rx else l.tx)
    let l := if rx then { l with rx := d.after } else { l with tx := d.after }
    let mask := d.m % 256 ||| 1
    if failed then (.pass, putFaultLink link l s)
    else if d.a < hwCfg s 0x0F01 link 2 2 0 then
      (.drop, putFaultLink link (if rx then { l.tally 0 with dropped := l.dropped.inc } else { l.tally 3 with txDropped := l.txDropped.inc }) s)
    else if d.b < hwCfg s 0x0F01 link 4 2 0 then
      (.corrupt d.p mask,
        putFaultLink link (if rx then { l.tally 1 with corrupted := l.corrupted.inc } else { l.tally 4 with txCorrupted := l.txCorrupted.inc }) s)
    else if rx && decide (d.c < hwCfg s 0x0F01 link 6 2 0) && l.held.isNone then
      (.reorder, putFaultLink link { l.tally 2 with reordered := l.reordered.inc } s)
    else (.pass, putFaultLink link l s)

/-- Byte `p mod length` of a frame with the mask applied (R577). -/
def corruptByte (bs : Bytes) (p mask : Nat) : Bytes :=
  if bs.isEmpty then bs else bs.modify (p % bs.length) (· ^^^ BitVec.ofNat 8 mask)

/-! ### Sending over the Holham link (R429 to R432) -/

/-- Type codes of the frames (R432). -/
def holHello : Nat := 1
def holLog : Nat := 2
def holLogEnd : Nat := 3
def holLease : Nat := 4
def holStatus : Nat := 5
def holRejoin : Nat := 6
def holHandover : Nat := 7
def holAnswer : Nat := 8
def holXfer : Nat := 9
def holXferEnd : Nat := 10
def holFill : Nat := 11
def holAck : Nat := 12

/-- The header fields that precede the payload, its length included (R430). -/
def HolhamTx.header (f : HolhamTx) (retry : Bool) : Bytes :=
  [BitVec.ofNat 8 f.type, BitVec.ofNat 8 (bit retry)] ++ le 2 f.payload.length ++ le 4 f.seq.toNat ++ le 6 f.tick.toNat
    ++ zeros 2

/-- The frame as it stands on the lanes, its CRC correct (R430). -/
def HolhamTx.bytes (f : HolhamTx) (retry : Bool) : Bytes :=
  let b := f.header retry ++ padTo 8 f.payload
  b ++ le 4 (crc32 b).toNat ++ zeros 4

/-- Bytes that an unacknowledged frame holds (R431). -/
def HolhamTx.size (f : HolhamTx) : Nat := 24 + (f.payload.length + 7) / 8 * 8

/-- A frame leaves for the peer, under the faults injected in the transmit direction (R579). -/
def holhamOut (f : HolhamTx) (retry : Bool) (s : State) : State :=
  match injectFault 5 false false s with
  | (.drop, s) => s
  | (.corrupt _ _, s) => emit (.holham f retry false) s
  | (_, s) => emit (.holham f retry true) s

/-- The code of a link loss (R453). -/
def LinkDownCause.code : Sys2Proof.LinkDownCause → Nat
  | .blockLock => 0 | .silence => 1 | .overflow => 2

/-- The link goes down: what was unacknowledged is lost (R429, R431, R453). -/
def holhamDown (cause : Sys2Proof.LinkDownCause) (s : State) : State :=
  if !s.twin.linkUp then s
  else raiseU 0x9002 [LinkDownCause.code cause]
    { s with twin.linkUp := false, twin.unacked := [], twin.linkDowns := s.twin.linkDowns.inc }

/-- Bytes of the frames held unacknowledged (R431). -/
def unackedBytes (l : List HolhamTx) : Nat := (l.map HolhamTx.size).foldl (· + ·) 0

/-- A numbered frame is sent: it is held until acknowledged, and one that would overflow the buffer takes the link down
(R430, R431). -/
def holhamSend (type : Nat) (tick : BitVec 48) (payload : Bytes) (s : State) : State :=
  if !s.twin.linkUp then s
  else
    let f : HolhamTx := ⟨type, tick, s.twin.txSeq, payload⟩
    if 524288 < unackedBytes s.twin.unacked + f.size then holhamDown .overflow s
    else holhamOut f false { s with twin.txSeq := s.twin.txSeq + 1, twin.unacked := s.twin.unacked ++ [f] }

/-- An ACK names the highest SEQ received in order (R431); it carries no number of its own. (DEDUCED, log 76) -/
def holhamAck (s : State) : State :=
  if !s.twin.linkUp then s
  else holhamOut ⟨holAck, s.cap.tick, 0, le 4 (s.twin.rxSeq - 1).toNat ++ zeros 4⟩ false s

end Sys2Proof.Machine
end

