-- ==== Sys2Proof/Machine/Operands.lean ====
section
/-!
DEFINITION. The byte forms of the table objects and of the log, and the reads and writes of tables with the
state-change entries they make.
-/
namespace Sys2Proof.Machine

open Sys2Proof

/-! ### Endpoint entries (R208 to R212) -/

/-- The code of STATE (R209). -/
def EpState.code : EpState → Nat
  | .free => 0 | .active => 1 | .silent => 2 | .barred => 3

/-- Word 0x00 of an entry (R208). -/
def Endpoint.word0 (e : Endpoint) : Nat :=
  e.lastFc.toNat + e.lastHeard.toNat * 2 ^ 32 + e.lastDsn.toNat * 2 ^ 56

/-- Word 0x08 of an entry without PARITY. -/
def Endpoint.word8 (e : Endpoint) : Nat :=
  e.way.toNat + e.port.toNat * 2 ^ 21 + e.state.code * 2 ^ 30 + bit e.static * 2 ^ 33 + bit e.sleeper * 2 ^ 34
    + e.cls.toNat * 2 ^ 35 + e.keyGroup.toNat * 2 ^ 38 + bit e.keyGen * 2 ^ 50 + e.feeder.toNat * 2 ^ 51
    + e.phase.toNat * 2 ^ 54

/-- The XOR of the low `n` bits of `v`. -/
def xorBits : Nat → Nat → Bool
  | 0, _ => false
  | n + 1, v => (v % 2 == 1) != xorBits n (v / 2)

/-- PARITY as a write sets it (R211). -/
def Endpoint.evenParity (e : Endpoint) : Bool := xorBits 64 e.word0 != xorBits 64 e.word8

/-- PARITY holds on a read (R211). -/
def Endpoint.parityOk (e : Endpoint) : Bool := e.parity == e.evenParity

/-- The 16 bytes of an entry (R208). -/
def Endpoint.bytes (e : Endpoint) : Bytes := le 8 e.word0 ++ le 8 (e.word8 + bit e.parity * 2 ^ 56)

/-- A slot never written: all zeros, which is FREE (R208). -/
def Endpoint.blank : Endpoint :=
  ⟨0, 0, 0, 0, 0, .free, false, false, 0, 0, false, 0, 0, false⟩

/-- The entry of a slot. -/
def endpoint (s : State) (slot : Nat) : Endpoint := tgetD s.cov.tables.endpoints slot Endpoint.blank

/-- Write an entry with its parity; a write of the value it holds is no change (R211, R611). -/
def putEndpoint (src : Src) (slot : Nat) (e : Endpoint) (s : State) : State :=
  let e := { e with parity := e.evenParity }
  if endpoint s slot = e then s
  else change src 3 1 slot e.bytes { s with cov.tables.endpoints := tput s.cov.tables.endpoints slot e }

/-- Write a new entry value computed from the one held. -/
def modEndpoint (src : Src) (slot : Nat) (f : Endpoint → Endpoint) (s : State) : State :=
  putEndpoint src slot (f (endpoint s slot)) s

/-- The 12 bytes of an identity way (R213). -/
def Identity.bytes (w : Identity) : Bytes := euiBytes w.eui ++ le 4 (w.slot.toNat + 2 ^ 20)

/-! ### Local link entries (R104, R133, R195) -/

/-- The PEER word (R133). -/
def Peer.word (p : Peer) : Nat :=
  p.slot.toNat + bit p.valid * 2 ^ 20 + bit p.radio * 2 ^ 21 + bit p.direct * 2 ^ 22 + bit p.repeaterOk * 2 ^ 23
    + bit p.ieee1901 * 2 ^ 24

/-- Group codes as map bytes: even groups in low nibbles (R104). -/
def nibbleBytes : List (BitVec 4) → Bytes
  | a :: b :: t => BitVec.ofNat 8 (a.toNat + 16 * b.toNat) :: nibbleBytes t
  | [a] => [BitVec.ofNat 8 a.toNat]
  | [] => []

/-- The 6 bytes of a candidate (R133). -/
def Cand.bytes (c : Cand) : Bytes := le 2 (c.link.toNat + bit c.valid * 2 ^ 12) ++ le 4 c.q.toNat

/-- The 256 bytes of a local link entry (R238 kind 0x03). -/
def LinkEntry.bytes (e : LinkEntry) : Bytes :=
  match e.body with
  | .plc p =>
    fit 208 (nibbleBytes p.map)
      ++ [p.mapSet, BitVec.ofNat 8 (p.rate.toNat + 4 * bit p.stepHold + 8 * bit p.unconfirmed), BitVec.ofNat 8 p.home.toNat, 0]
      ++ fit 3 p.weight ++ [0] ++ le 4 e.peer.word ++ le 4 p.directQ.toNat
      ++ fit 24 (p.cand.flatMap Cand.bytes) ++ [p.txDsn, p.fails] ++ zeros 6
  | .radio r =>
    fit 216 (euiBytes r.eui
      ++ [r.modeTx, BitVec.ofNat 8 (bit r.sleeper + 2 * bit r.enhAck + 4 * bit r.search + 8 * bit r.lost + 16 * bit r.portB)]
      ++ le 2 r.listenCh.toNat ++ [r.rxMode, r.rssi] ++ zeros 2 ++ le 4 r.anchorS.toNat ++ le 4 r.anchorNs.toNat
      ++ le 4 r.periodMs.toNat ++ le 2 r.drift.toNat ++ le 2 r.rxWindowMs.toNat ++ le 2 r.setFirst.toNat
      ++ le 2 r.setCount.toNat ++ le 2 r.hop.toNat ++ le 2 r.seed.toNat ++ [r.schedMode] ++ zeros 3
      ++ le 4 r.wakeIndex.toNat ++ le 4 r.syncS.toNat ++ le 4 r.syncNs.toNat ++ le 4 r.lastOffset.toNat
      ++ le 2 r.misses.toNat)
      ++ le 4 e.peer.word ++ [r.txDsn, r.fails] ++ zeros 34

/-- The initial values of the powerline parts (R104, R133). -/
def PlcPart.initial : PlcPart :=
  { map := List.replicate 416 0, mapSet := 0, rate := 0, stepHold := false, unconfirmed := true, home := 0,
    weight := [0x49, 0x49, 0x49], directQ := 0, cand := List.replicate 4 ⟨0, false, 0⟩, txDsn := 0, fails := 0 }

/-- The initial values of the radio part for a peer, but for what a join writes (R195). -/
def RadioPart.initial (eui : BitVec 64) : RadioPart :=
  { eui := eui, modeTx := 0xFF, sleeper := false, enhAck := false, search := false, lost := false, portB := false,
    listenCh := 0, rxMode := 0, rssi := 0, anchorS := 0, anchorNs := 0, periodMs := 0, drift := 0, rxWindowMs := 0,
    setFirst := 0, setCount := 0, hop := 0, seed := 0, schedMode := 0, wakeIndex := 0, syncS := 0, syncNs := 0,
    lastOffset := 0, misses := 0, txDsn := 0, fails := 0 }

/-- An index never allocated: no peer, initial values (R104, R133). -/
def LinkEntry.blank : LinkEntry := ⟨⟨0, false, false, false, false, false⟩, .plc PlcPart.initial⟩

/-- The entry of a link index. -/
def linkEntry (s : State) (i : Nat) : LinkEntry := tgetD s.cov.tables.links i LinkEntry.blank

/-- The entry of a link index as the hardware holds it (R41). -/
def hwLink (s : State) (i : Nat) : LinkEntry := tgetD s.hw.links i LinkEntry.blank

/-- Write a local link entry; a write of the value it holds is no change (R611). (DEDUCED, log 16) -/
def putLink (src : Src) (i : Nat) (e : LinkEntry) (s : State) : State :=
  if linkEntry s i = e then s
  else change src 3 3 i e.bytes { s with cov.tables.links := tput s.cov.tables.links i e }

/-- Change the powerline part of a valid powerline entry; any other entry stays (R133). -/
def modPlc (src : Src) (i : Nat) (f : PlcPart → PlcPart) (s : State) : State :=
  let e := linkEntry s i
  match e.body with
  | .plc p => if e.peer.valid then putLink src i { e with body := .plc (f p) } s else s
  | .radio _ => s

/-- Change the radio part of a valid radio entry; any other entry stays. -/
def modRadio (src : Src) (i : Nat) (f : RadioPart → RadioPart) (s : State) : State :=
  let e := linkEntry s i
  match e.body with
  | .radio r => if e.peer.valid then putLink src i { e with body := .radio (f r) } s else s
  | .plc _ => s

/-- The powerline part of a valid powerline entry. -/
def LinkEntry.plc? (e : LinkEntry) : Option PlcPart :=
  match e.body with
  | .plc p => if e.peer.valid then some p else none
  | .radio _ => none

/-- The radio part of a valid radio entry. -/
def LinkEntry.radio? (e : LinkEntry) : Option RadioPart :=
  match e.body with
  | .radio r => if e.peer.valid then some r else none
  | .plc _ => none

/-- The reverse index: the link whose SLOT names the endpoint (R135). -/
def linkOfSlot (links : Tab LinkEntry) (slot : Nat) : Option Nat :=
  (links.find? fun l => l.2.peer.valid && l.2.peer.slot.toNat == slot).map (·.1)

/-- The nibble of stripe `st` of a quality word (R133). -/
def nibble (q : BitVec 32) (st : Nat) : Nat := field q.toNat (4 * st) 4

/-- A quality word with the nibble of stripe `st` written. -/
def setNibble (q : BitVec 32) (st v : Nat) : BitVec 32 :=
  BitVec.ofNat 32 (q.toNat - nibble q st * 2 ^ (4 * st) + v % 16 * 2 ^ (4 * st))

/-- The sum of the 8 nibbles of a quality word. -/
def nibbleSum (q : BitVec 32) : Nat := (List.range 8).foldl (fun a i => a + nibble q i) 0

/-- Eight equal nibbles. -/
def nibbleAll (v : Nat) : BitVec 32 := BitVec.ofNat 32 (v % 16 * 0x11111111)

/-! ### Routes, children, spill list (R226, R230, R236) -/

/-- The 28 bytes of a route prefix (R236). -/
def Route.bytes (r : Route) : Bytes :=
  let (a, ad) := match r.action with
    | .toLocal => (0, 0) | .toChild ad => (1, ad.toNat) | .discard => (2, 0)
  be 8 r.bits.toNat ++ [BitVec.ofNat 8 r.length, BitVec.ofNat 8 a, 0, 0] ++ be 16 ad

/-- The code of CSTATE (R226). -/
def ChildState.code : ChildState → Nat
  | .free => 0 | .active => 1 | .silent => 2

/-- The 32 bytes of a child entry (R226). -/
def Child.bytes (c : Child) : Bytes :=
  be 16 c.addr.toNat ++ euiBytes c.eui ++ [BitVec.ofNat 8 c.ethPort.toNat, BitVec.ofNat 8 (c.state.code + 128 * bit c.static), 0, 0]
    ++ le 4 c.lastHeard.toNat

/-- A child number never used (R226). -/
def Child.blank : Child := ⟨0, 0, 0, .free, false, 0⟩

/-- The entry of a child number. -/
def child (s : State) (n : Nat) : Child := tgetD s.cov.tables.children n Child.blank

/-- Write a child entry. (DEDUCED, log 16) -/
def putChild (src : Src) (n : Nat) (c : Child) (s : State) : State :=
  if child s n = c then s
  else change src 3 5 n c.bytes { s with cov.tables.children := tput s.cov.tables.children n c }

/-- The lowest child number whose entry is FREE (R227). -/
def freeChild (s : State) : Option Nat :=
  (List.range 255).findSome? fun i => if (child s (i + 1)).state = .free then some (i + 1) else none

/-- The child number that holds an address (R227). -/
def childOfAddr (s : State) (a : BitVec 128) : Option Nat :=
  (s.cov.tables.children.find? fun c => c.2.addr == a && c.2.state != .free).map (·.1)

/-- The 16 bytes of a spill-list entry (R230). -/
def Spill.bytes (x : Spill) : Bytes := euiBytes x.eui ++ le 6 x.tick.toNat ++ le 2 x.port.toNat

/-! ### Configuration records as state (R35) -/

/-- Write, replace or remove a configuration record (R35 kind 0x01). -/
def putRecord (src : Src) (type key : Nat) (v : Option Bytes) (s : State) : State :=
  let k := recKey type key
  if tget s.cov.sys.records k = v then s
  else match v with
    | some b => change src 0 1 k (le 2 type ++ le 2 b.length ++ le 2 key ++ le 2 0 ++ b)
        { s with cov.sys.records := tput s.cov.sys.records k b }
    | none => change src 0 1 k [] { s with cov.sys.records := tdel s.cov.sys.records k }

/-! ### The input log (R19 to R24) -/

/-- Bytes an entry takes in a log: header, body, padding (R22). -/
def entrySize (e : LogEntry) : Nat := 16 + (e.body.length + 7) / 8 * 8

/-- The bytes of an entry as they are shipped and hashed (R22). -/
def entryBytes (e : LogEntry) : Bytes :=
  le 2 e.port.toNat ++ [e.kind, 0] ++ le 4 e.body.length ++ le 4 e.arrival.toNat ++ zeros 4 ++ padTo 8 e.body

/-- The log takes the entry within 16,384 entries and 1 MiB (R23). -/
def InputLog.takes (l : InputLog) (e : LogEntry) : Bool :=
  decide (l.entries.length < 16384) && decide ((l.entries.map entrySize).foldl (· + ·) 0 + entrySize e ≤ 1048576)

/-- Bytes of the entries that wait in the capture queue (R24). -/
def queueBytes (q : List LogEntry) : Nat := (q.map entrySize).foldl (· + ·) 0

/-- The entry is of a kind that R24 keeps 32 KiB for: tick-start, metrology, line and transmit reports, radio reports,
fault reports, STATUS and REJOIN. -/
def entryKept (e : LogEntry) : Bool :=
  e.kind == 0 || e.kind == 3 || e.kind == 6 || e.kind == 7 ||
    (e.kind == 1 && ((decide (1 ≤ e.port.toNat) && decide (e.port.toNat ≤ 3) && (e.body.length == 40 || (e.body.head?.map (·.toNat)).getD 0 == 0x80))
      || (e.port == 4 && (e.body.head?.map (·.toNat)).getD 0 ≥ 0x80)))

/-- There is room in the capture queue for an entry (R24). -/
def queueRoom (s : State) (e : LogEntry) : Bool :=
  decide (queueBytes s.cap.queue + entrySize e ≤ if entryKept e then 262144 else 229376)

/-- Log entries the primary has not shipped leave for the mirror, one LOG frame each (R434). A capture entry's count is open
until the boundary, so that shipping pauses at it; `all` is the boundary. (DEDUCED, log 77) -/
def shipLog (all : Bool) (s : State) : State :=
  if s.twin.role ≠ .primary then s
  else
    let rest := s.cap.log.entries.drop s.cap.shipped
    let now := if all then rest else rest.takeWhile fun e => e.kind != 4
    now.foldl (fun s e => holhamSend holLog s.cap.tick (entryBytes e) s)
      { s with cap.shipped := s.cap.shipped + now.length }

/-- An entry takes the next place of the log and is shipped (R19, R434). -/
def enterLog (e : LogEntry) (s : State) : State :=
  shipLog false { s with cap.log.entries := s.cap.log.entries ++ [e] }

/-- An input enters the log where nothing waits ahead of it and the log takes it; else it waits, or is dropped
(R23, R24). (DESIGN CHOICE, log 13) -/
def placeInput (e : LogEntry) (s : State) : State :=
  if s.cap.queue.isEmpty && s.cap.log.takes e then enterLog e s
  else if queueRoom s e then
    { s with cap.queue := s.cap.queue ++ [e], sys.logDeferred := s.sys.logDeferred.inc }
  else { s with sys.captureDropped := s.sys.captureDropped.inc }

/-- The oldest input deferred at an earlier tick enters the log; where the log is full, all that wait go on waiting
(R23). -/
def takeDeferred (s : State) : State :=
  match s.cap.queue, s.cap.carried with
  | e :: q, n + 1 =>
    if s.cap.log.takes e then enterLog e { s with cap.queue := q, cap.carried := n, cap.log.deferred := true }
    else { s with cap.carried := 0 }
  | _, _ => { s with cap.carried := 0 }

/-- Every input deferred at an earlier tick that the log takes. -/
def takeDeferredAll : Nat → State → State
  | 0, s => s
  | n + 1, s => takeDeferredAll n (takeDeferred s)

/-- Frames released from reorder at the boundary follow the deferred inputs (R580). -/
def placeReleased (s : State) : State :=
  s.cap.released.foldl (fun s e => placeInput e s) { s with cap.released := [] }

/-- The inputs made at the boundary follow (R125, R188, R295, R582). -/
def placeReports (s : State) : State :=
  s.cap.reports.foldl (fun s e => placeInput e s) { s with cap.reports := [] }

/-- What stands ahead of a tick's own arrivals has entered its log (R23, R580). -/
def settleLog (s : State) : State := placeReports (placeReleased (takeDeferredAll s.cap.carried s))

/-- An input arrives: it enters the log of the tick, or waits, or is dropped (R19, R23, R24). (DESIGN CHOICE, log 13) -/
def appendInput (e : LogEntry) (s : State) : State := placeInput e (settleLog s)

/-- An input of kind 0x01 on a bearer port, stamped with the low 32 bits of the time base (R22). -/
def bearerInput (port : Nat) (body : Bytes) (s : State) : State :=
  appendInput ⟨BitVec.ofNat 9 port, 1, s.time.ns, body, none⟩ s

end Sys2Proof.Machine
end

