-- ==== Sys2Proof/Machine/KeyOps.lean ====
section
/-!
DEFINITION. Roots, key slots and derivations as the other blocks use them (chapter 11), and the frames that arrive and
leave under fault injection (chapter 18).
-/
namespace Sys2Proof.Machine

open Sys2Proof

/-! ### Roots (R392, R396) -/

/-- The fuses of a root by its code (R392); ROOT_Q has no digest and is written at test. -/
def rootFuses (f : Fuses) : Nat → RootFuses
  | 0 => f.rootM | 1 => f.rootP | 2 => f.rootF0 | 3 => f.rootF1 | _ => ⟨f.rootQ, [], true⟩

/-- A root is written and, for a field root, not revoked (R396, R613). -/
def rootLive (s : State) (r : Nat) : Bool :=
  (r == 0 || (rootFuses s.keys.fuses r).done) && !(r == 2 && testBit (revokeFuses s) 0) && !(r == 3 && testBit (revokeFuses s) 1)

/-- Roots under which slot chains are usable (R396). (DEDUCED, log 66) -/
def chainRoots (s : State) : List Nat :=
  (match lifeState s with
    | .manufacture => [0] | .provision => [1, 2, 3] | .field => [2, 3] | _ => []).filter (rootLive s)

/-- Roots whose import key unwraps imports (R396). (DEDUCED, log 66) -/
def importRoots (s : State) : List Nat :=
  (match lifeState s with
    | .manufacture => [0] | .provision => [1] | .field => [2, 3] | _ => []).filter (rootLive s)

/-! ### Derivations (R394) -/

/-- One output block of the KDF, or the first `bits / 128` of them (R394). -/
def kdf (key : Bytes) (label ctx : Bytes) (bits : Nat) : Bytes :=
  ((List.range (ceilDiv bits 128)).flatMap fun i =>
    cmac key ([BitVec.ofNat 8 (i + 1)] ++ label ++ [0] ++ ctx ++ be 2 bits)).take (bits / 8)

/-- ASCII of the labels WLS-MK, WLS-GK, WLS-IK, WLS-VK and WLS-QK by their two last letters. -/
def kdfLabel (a b : Nat) : Bytes := [0x57, 0x4C, 0x53, 0x2D, BitVec.ofNat 8 a, BitVec.ofNat 8 b]

/-- The import key of a root (R394). -/
def importKey (s : State) (r : Nat) : Bytes :=
  kdf (rootFuses s.keys.fuses r).secret (kdfLabel 0x49 0x4B) [BitVec.ofNat 8 r] 256

/-- The export key of ROOT_Q: its private scalar (R394). -/
def exportKeyQ (s : State) : Nat :=
  ofBe (kdf s.keys.fuses.rootQ (kdfLabel 0x51 0x4B) [4] 256) % (p256n - 1) + 1

/-! ### Slots (R403, R404, R411) -/

/-- The value of a slot, where it is present (R403). -/
def slotValue (s : State) (slot : Nat) : Option Bytes :=
  (tget s.keys.cells slot).map fun c => if c.b.isEmpty then c.a else xorBytes c.a c.b

/-- A slot's chain is intact within `n` links (R404). -/
def chainIntact (roots : List Nat) (slots : Tab KeyDesc) : Nat → Nat → Bool
  | 0, _ => false
  | n + 1, slot =>
    match tget slots slot with
    | none => false
    | some d =>
      if d.type = 0 then false
      else if 0xFFF0 ≤ d.parent.toNat then roots.contains (d.parent.toNat - 0xFFF0)
      else match tget slots d.parent.toNat with
        | none => false
        | some p => p.type != 0 && p.gen == d.parentGen && chainIntact roots slots n d.parent.toNat

/-- The chain of a slot is intact in the state (R404). -/
def intact (s : State) (slot : Nat) : Bool := chainIntact (chainRoots s) s.cov.keys.slots 8 slot

/-- A slot is usable for an operation, a bit of OPS (R404). -/
def usable (s : State) (op slot : Nat) : Bool :=
  match tget s.cov.keys.slots slot with
  | none => false
  | some d => intact s slot && testBit d.ops.toNat op && !(d.flags % 4 == 1 && d.uses == 0) && (tget s.keys.cells slot).isSome

/-- The usable slots of an operation in ascending order. -/
def usableSlots (s : State) (op : Nat) : List Nat := (s.cov.keys.slots.map (·.1)).filter (usable s op)

/-- The bytes of a descriptor (R403). -/
def KeyDesc.bytes (d : KeyDesc) : Bytes :=
  [BitVec.ofNat 8 d.type, BitVec.ofNat 8 d.flags] ++ le 2 d.parent.toNat ++ le 2 d.parentGen.toNat ++ le 2 d.gen.toNat
    ++ le 4 d.uses ++ le 2 d.ops.toNat ++ le 2 d.group.toNat

/-- Write a descriptor (R420 kind 0x01). (DEDUCED, log 16) -/
def putDesc (src : Src) (slot : Nat) (d : KeyDesc) (s : State) : State :=
  if tget s.cov.keys.slots slot = some d then s
  else change src 8 1 slot d.bytes { s with cov.keys.slots := tput s.cov.keys.slots slot d }

/-- A use of a counted slot: USES falls by one, and the use that reaches 0 raises KEY_EXHAUSTED (R405).
(DESIGN CHOICE, log 70) -/
def useSlot (src : Src) (slot : Nat) (s : State) : State :=
  match tget s.cov.keys.slots slot with
  | none => s
  | some d =>
    if d.flags % 4 ≠ 1 then s
    else
      let s := putDesc src slot { d with uses := d.uses - 1 } s
      if d.uses = 1 then { raise src 0x8005 [slot] s with keys.exhausted := s.keys.exhausted.inc } else s

/-- The group key of a key group and the slot it comes from (R411). -/
def groupKey (s : State) (g : BitVec 12) : Option (Nat × Bytes) :=
  match (usableSlots s 5).find? (fun k => ((tget s.cov.keys.slots k).map (·.group)) == some g) with
  | some k => (slotValue s k).map fun v => (k, v)
  | none =>
    match usableSlots s 6 with
    | k :: _ => (slotValue s k).map fun v => (k, kdf v (kdfLabel 0x47 0x4B) (le 2 g.toNat) 128)
    | [] => none

/-- The meter key of an endpoint (R411). -/
def meterKey (s : State) (x : BitVec 64) (g : BitVec 12) (gen : Bool) : Option Bytes :=
  (groupKey s g).map fun k => kdf k.2 (kdfLabel 0x4D 0x4B) (euiBytes x ++ le 2 g.toNat ++ [BitVec.ofNat 8 (bit gen)]) 128

/-- The public point of a 64-byte key in the layout of SIGNER_KEY (R63). -/
def pointOf (k : Bytes) : Nat × Nat := (ofLe (k.take 32), ofLe (slice k 32 32))

/-- A public point in the layout of SIGNER_KEY. -/
def keyBytes (p : Nat × Nat) : Bytes := le 32 p.1 ++ le 32 p.2

/-! ### Frames that arrive and leave under injection (R579, R580) -/

/-- An input of a link that was not dropped enters the log, releasing a held frame right after it (R580). -/
def deliverInput (link : Nat) (e : LogEntry) (s : State) : State :=
  let s := appendInput e s
  match (faultLink s link).held with
  | none => s
  | some h => appendInput h (putFaultLink link { faultLink s link with held := none } s)

/-- A received frame that would make the input `e`, under the effect drawn for it (R579, R580). -/
def receiveInput (link : Nat) (eff : FaultEffect) (e : LogEntry) (s : State) : State :=
  match eff with
  | .drop => s
  | .reorder => putFaultLink link { faultLink s link with held := some e } s
  | _ => deliverInput link e s

/-- A frame leaves a serial port, under the faults injected in its transmit direction (R579). -/
def serialOut (portB : Bool) (frame : Bytes) (s : State) : State :=
  match injectFault (if portB then 7 else 6) false false s with
  | (.drop, s) => s
  | (.corrupt p m, s) => emit (.serial portB (corruptByte frame p m)) s
  | (_, s) => emit (.serial portB frame) s

/-- A frame leaves an Ethernet port. Under injection it is not sent, or sent with a failing FCS and so lost to its receiver
(R579). (DEDUCED, log 65) -/
def ethernetOut (port : Nat) (e : Emission) (s : State) : State :=
  match injectFault (0x10 + port) false false s with
  | (.drop, s) => s
  | (.corrupt _ _, s) => s
  | (_, s) => emit e s

/-- ROLE of an Ethernet port: 0 head end, 1 child (R73). -/
def ethRole (recs : Tab Bytes) (port : Nat) : Nat := cfgOf recs 0x0002 port 1 1 (if port < 2 then 0 else 1)

/-- The head-end port that client connections of the unit leave by: the lowest one. (PRESUMED, log 62) -/
def headPort (s : State) : Nat := ([0, 1, 2, 3].find? fun p => ethRole s.cov.sys.records p == 0).getD 0

end Sys2Proof.Machine
end

