-- ==== Sys2Proof/Machine/Tables.lean ====
section
/-!
DEFINITION. Endpoint, identity and route tables: lookup, learning, link indices, aging, children, route resolution
(chapter 6).
-/
namespace Sys2Proof.Machine

open Sys2Proof

/-! ### Identity (R213 to R216) -/

/-- The two candidate buckets of an EUI-64 (R214). -/
def buckets (x : BitVec 64) : Nat × Nat :=
  let b1 := (crc32 (euiBytes x)).toNat * 163840 / 2 ^ 32
  let b2 := (crc32c (euiBytes x)).toNat * 163840 / 2 ^ 32
  (b1, if b2 = b1 then (b1 + 81920) % 163840 else b2)

/-- The first way of bucket `b` that holds `x`. -/
def wayIn (ways : Tab Identity) (x : BitVec 64) (b : Nat) : Option Nat :=
  (List.range 8).findSome? fun w =>
    match tget ways (8 * b + w) with
    | some i => if i.eui = x then some (8 * b + w) else none
    | none => none

/-- The slot of an EUI-64, or none (R215). -/
def lookupIn (t : Tables) (x : BitVec 64) : Option Nat :=
  let (b1, b2) := buckets x
  ((wayIn t.ways x b1).orElse fun _ => wayIn t.ways x b2).bind fun w => (tget t.ways w).map (·.slot.toNat)

/-- The slot of an EUI-64 in the state. -/
def lookup (s : State) (x : BitVec 64) : Option Nat := lookupIn s.cov.tables x

/-- VALID ways of a bucket. -/
def validWays (ways : Tab Identity) (b : Nat) : Nat :=
  (List.range 8).foldl (fun n w => n + bit (tget ways (8 * b + w)).isSome) 0

/-- The way an insertion takes, or none where both buckets are full (R216). -/
def insertWay (ways : Tab Identity) (x : BitVec 64) : Option Nat :=
  let (b1, b2) := buckets x
  let (n1, n2) := (validWays ways b1, validWays ways b2)
  let b := if n1 < n2 then b1 else if n2 < n1 then b2 else min b1 b2
  (List.range 8).findSome? fun w => if (tget ways (8 * b + w)).isNone then some (8 * b + w) else none

/-- The lowest FREE slot (R217). -/
def freeSlot (t : Tables) : Option Nat :=
  let used := t.endpoints.filterMap fun e => if e.2.state = .free then none else some e.1
  let n := lowestGap used 0
  if n < 1048576 then some n else none

/-! ### Ports and learning (R206, R207, R217 to R220) -/

/-- The learning group of a port: 0 for none (R206). -/
def portGroup (p : Nat) : Nat :=
  if p = 0 then 0 else if p ≤ 3 then 1 else if p = 4 then 2 else if p = 5 then 0 else p

/-- The bit of LEARN for the bearer of a port (R221). -/
def bearerBit (p : Nat) : Nat := if p ≤ 3 then 0 else if p = 4 then 1 else if p ≤ 7 then 2 else 3

/-- The engine of table work for an EUI-64 (R243). -/
def euiEngine (s : State) (x : BitVec 64) : Nat :=
  match (lookup s x).filter fun k => !s.work.fresh.contains k with
  | some slot => recordEngine slot
  | none => 16 + (buckets x).1 % 8

/-- A failed insertion enters the spill list (R230). -/
def spillAdd (src : Src) (x : BitVec 64) (port : Nat) (tick : BitVec 48) (s : State) : State :=
  let l := s.cov.tables.spills
  if l.any (fun e => e.2.eui == x) then s
  else
    let pos :=
      if l.length < 1024 then lowestGap (l.map (·.1)) 0
      else (l.foldl (fun (b : Nat × Nat) e => if e.2.tick.toNat < b.2 then (e.1, e.2.tick.toNat) else b)
              (0, 2 ^ 48)).1
    let e : Spill := ⟨x, tick, BitVec.ofNat 9 port⟩
    change src 3 6 pos e.bytes { s with cov.tables.spills := tput l pos e }

/-- Write an identity way. -/
def putWay (src : Src) (w : Nat) (i : Identity) (s : State) : State :=
  change src 3 2 w i.bytes { s with cov.tables.ways := tput s.cov.tables.ways w i }

/-- Every candidate that names a link index is cleared (R150). -/
def clearCandidates (src : Src) (i : Nat) (s : State) : State :=
  s.cov.tables.links.foldl (fun s l =>
    match l.2.body with
    | .plc p =>
      if p.cand.any (fun c => c.valid && c.link.toNat == i) then
        putLink src l.1 { l.2 with body := .plc { p with cand := p.cand.map fun c =>
          if c.valid && c.link.toNat == i then ⟨0, false, 0⟩ else c } } s
      else s
    | .radio _ => s) s

/-- The local link entry of an endpoint that moves between groups (R219). -/
def moveLink (src : Src) (x : BitVec 64) (slot old new : Nat) (s : State) : State :=
  match linkOfSlot s.cov.tables.links slot with
  | none => s
  | some i =>
    let e := linkEntry s i
    match portGroup old, portGroup new with
    | 2, 1 => putLink src i ⟨{ e.peer with radio := false, direct := false, repeaterOk := false, ieee1901 := false },
        .plc PlcPart.initial⟩ s
    | 1, 2 =>
      let r := RadioPart.initial x
      let peer := { e.peer with radio := true, direct := true, repeaterOk := false, ieee1901 := false }
      clearCandidates src i (putLink src i ⟨peer, .radio { r with sleeper := (endpoint s slot).sleeper }⟩ s)
    | _, _ => clearCandidates src i (putLink src i { e with peer := { e.peer with valid := false } } s)

/-- What learning answers: the slot, or the frame dropped. -/
abbrev Learned := Option Nat × State

/-- CLASS of an entry that learning creates (R218). (DEDUCED, log 46) -/
def policyClass (s : State) (port : Nat) (joinClass : Option (BitVec 8)) : BitVec 3 :=
  match (if port ≤ 3 then joinClass else none) with
  | some c => c.truncate 3
  | none => BitVec.ofNat 3 (cfg s 0x0303 0 3 1 0)

/-- Create an endpoint: the lowest FREE slot and an identity way, or a spill (R217). -/
def createEndpoint (src : Src) (x : BitVec 64) (port : Nat) (tick : BitVec 48) (spill : Bool) (e : Endpoint) (s : State) :
    Learned :=
  let hi := x.toNat / 2 ^ 32
  match freeSlot s.cov.tables with
  | none =>
    let s := if spill then spillAdd src x port tick s else s
    (none, { raise src 0x3007 [euiLow x, hi] s with tstat.slotsExhausted := s.tstat.slotsExhausted.inc })
  | some slot =>
    match insertWay s.cov.tables.ways x with
    | none =>
      let s := if spill then spillAdd src x port tick s else s
      let (b1, b2) := buckets x
      (none, { raise src 0x3006 [euiLow x, hi, b1, b2] s with tstat.insertFails := s.tstat.insertFails.inc })
    | some w =>
      let s := putWay src w ⟨x, BitVec.ofNat 20 slot⟩ s
      let s := putEndpoint src slot { e with way := BitVec.ofNat 21 w, port := BitVec.ofNat 9 port } s
      (some slot, s)

/-- LAST_HEARD of a tick (R208). -/
def heardOf (tick : BitVec 48) : BitVec 24 := BitVec.ofNat 24 (tick.toNat / 256)

/-- Learning (R217, R219). (DEDUCED, log 47) -/
def learn (src : Src) (x : BitVec 64) (port : Nat) (tick : BitVec 48) (joinClass : Option (BitVec 8)) (s : State) :
    Learned :=
  match lookup s x with
  | some slot =>
    let e := endpoint s slot
    if e.state = .barred then (none, { s with tstat.barredDrops := s.tstat.barredDrops.inc })
    else if portGroup port ≠ portGroup e.port.toNat ∧ e.static then
      (none, { raise src 0x3003 [slot, port] s with tstat.staticRefused := s.tstat.staticRefused.inc })
    else
      let s := if portGroup port ≠ portGroup e.port.toNat then
          { moveLink src x slot e.port.toNat port (raise src 0x3002 [slot, e.port.toNat, port] s) with
            tstat.moves := s.tstat.moves.inc }
        else s
      let s := if e.state = .silent then
          raise src 0x3005 [slot, ((heardOf tick).toNat + 2 ^ 24 - e.lastHeard.toNat) % 2 ^ 24] s
        else s
      (some slot, putEndpoint src slot { e with port := BitVec.ofNat 9 port, state := .active, lastHeard := heardOf tick } s)
  | none =>
    if !testBit (cfg s 0x0303 0 2 1 0x0F) (bearerBit port) then (none, s)
    else
      let e := { Endpoint.blank with
                 state := .active, cls := policyClass s port joinClass, lastHeard := heardOf tick,
                 keyGroup := BitVec.ofNat 12 (cfg s 0x0303 0 4 2 0) }
      match createEndpoint src x port tick true e s with
      | (some slot, s) =>
        (some slot, { raise src 0x3001 [slot, port, euiLow x, x.toNat / 2 ^ 32] s with
                      tstat.learned := s.tstat.learned.inc, work.fresh := slot :: s.work.fresh })
      | r => r

/-! ### Link indices (R149 steps 3 to 6, R150) -/

/-- A radio frame fails: counted and raised with its cause (R197, R205). -/
def radioFail (src : Src) (i : Nat) (dsn : Byte) (cause : Nat) (s : State) : State :=
  { raise src 0x2002 [i, dsn.toNat, cause] s with radio.failed := s.radio.failed.inc }

/-- Frames queued for a peer whose index is reclaimed fail with cause 3 (R150, R205). -/
def dropDeliveries (src : Src) (i : Nat) (s : State) : State :=
  let gone := s.plc.queue.filter (fun f => f.peer == i && !f.sending)
  let rGone := ((s.radio.queue.filter (·.link == i)).map (·.dsn))
    ++ (((s.radio.mailboxes ++ s.radio.sleepQueue).filter (·.link == i)).map (·.dsn))
  let s := { s with plc.queue := s.plc.queue.filter (fun f => !(f.peer == i && !f.sending)),
                    plc.waiting := s.plc.waiting.filter (fun w => !(w.2.peer == i)),
                    radio.queue := s.radio.queue.filter (fun f => f.link != i),
                    radio.mailboxes := s.radio.mailboxes.filter (fun f => f.link != i),
                    radio.sleepQueue := s.radio.sleepQueue.filter (fun f => f.link != i),
                    radio.arms := s.radio.arms.filter (fun w => w.link != i),
                    radio.searches := s.radio.searches.filter (fun w => w.1 != i) }
  let s := gone.foldl (fun s f =>
    { raise src 0x1013 [i, f.dsn.toNat, 3] s with plc.failed := s.plc.failed.inc }) s
  rGone.foldl (fun s d => radioFail src i d 3 s) s

/-- Age of an entry in units of 256 ticks (R224). -/
def heardAge (tick : BitVec 48) (e : Endpoint) : Nat := (tick.toNat / 256 + 2 ^ 24 - e.lastHeard.toNat) % 2 ^ 24

/-- What a link allocation gives: the index and whether it is a new, reused or reclaimed one. -/
inductive LinkGrant where
  | reused (i : Nat)
  | fresh (i : Nat)
  | reclaimed (i : Nat) (oldSlot : Nat)
  | refused
  deriving DecidableEq, Repr

/-- The index an endpoint receives (R149 steps 3 to 6). -/
def grantLink (s : State) (slot : Nat) (radio : Bool) (tick : BitVec 48) : LinkGrant :=
  let links := s.cov.tables.links
  match links.find? (fun l => l.2.peer.valid && l.2.peer.slot.toNat == slot && l.2.peer.radio == radio) with
  | some l => .reused l.1
  | none =>
    let n := lowestGap (links.filterMap fun l => if l.2.peer.valid then some l.1 else none) 0
    if n ≤ 0xFFD then .fresh n
    else
      let best := links.foldl (fun (b : Option (Nat × Nat × Nat)) l =>
        let sl := l.2.peer.slot.toNat
        let e := endpoint s sl
        if l.2.peer.valid && e.state == .silent then
          let a := heardAge tick e
          match b with
          | some (_, _, a0) => if a0 < a then some (l.1, sl, a) else b
          | none => some (l.1, sl, a)
        else b) none
      match best with
      | some (i, old, _) => .reclaimed i old
      | none => .refused

/-- The index of a reclaimed entry is freed of its old peer (R150). -/
def reclaim (src : Src) (i oldSlot newSlot : Nat) (s : State) : State :=
  let s := raise src 0x1012 [i, oldSlot, newSlot] (clearCandidates src i s)
  dropDeliveries src i { s with plc.reclaimed := s.plc.reclaimed.inc }

/-- A radio entry for an endpoint (R149, R196, R223): its index, or none where none is given. -/
def grantRadio (src : Src) (x : BitVec 64) (slot : Nat) (tick : BitVec 48) (s : State) : Option Nat × State :=
  let fresh (i : Nat) (s : State) : Option Nat × State :=
    (some i, putLink src i ⟨⟨BitVec.ofNat 20 slot, true, true, true, false, false⟩,
      .radio { RadioPart.initial x with sleeper := (endpoint s slot).sleeper }⟩ s)
  match grantLink s slot true tick with
  | .reused i => (some i, s)
  | .fresh i => fresh i s
  | .reclaimed i old => fresh i (reclaim src i old slot s)
  | .refused => (none, s)

/-! ### Aging (R224, R225, R227) -/

/-- AGE_UNITS (R224). -/
def ageUnits (s : State) : Nat := ceilDiv (cfg s 0x0303 0 0 2 72 * 3600 * ticksPerS s) 256

/-- The sweep of one log: 4,096 slots, each on its record engine (R224). -/
def agingSweep (tick : BitVec 48) (s : State) : State :=
  let lo := 4096 * (tick.toNat % 256)
  let units := ageUnits s
  (s.cov.tables.endpoints.filter fun e => decide (lo ≤ e.1) && decide (e.1 < lo + 4096)).foldl (fun s e =>
    if e.2.state = .active ∧ units < heardAge tick e.2 then
      let src := Src.sweep (recordEngine e.1)
      raise src 0x3004 [e.1, e.2.lastHeard.toNat] (putEndpoint src e.1 { e.2 with state := .silent } s)
    else s) s

/-- Children not heard for CHILD_AGE_S become SILENT (R227). -/
def childSweep (tick : BitVec 48) (s : State) : State :=
  let limit := cfg s 0x0303 0 8 2 3600 * ticksPerS s
  s.cov.tables.children.foldl (fun s c =>
    if c.2.state = .active ∧ limit < ((tick.toNat / 256 + 2 ^ 24 - c.2.lastHeard.toNat) % 2 ^ 24) * 256 then
      let src := Src.sweep 0
      raise src 0x300B [c.1] (putChild src c.1 { c.2 with state := .silent } s)
    else s) s

/-! ### Routes (R229 to R237) -/

/-- The upper bits of a 64-bit prefix. -/
def topBits (v n : Nat) : Nat := v / 2 ^ (64 - n)

/-- The implicit prefixes of NETWORK (R237). -/
def implicitRoutes (recs : Tab Bytes) : List Route :=
  let a := cfgBytes recs 0x0003 0 0 16
  let n := min (cfgOf recs 0x0003 0 0x10 1 64) 64
  let up := ofBe (a.take 8)
  ⟨0xFE80000000000000#64, 64, .toLocal⟩ ::
    (if ofBe a = 0 then [] else [⟨BitVec.ofNat 64 (topBits up n * 2 ^ (64 - n)), n, .toLocal⟩])

/-- Every prefix installed. -/
def allRoutes (s : State) : List Route := implicitRoutes s.cov.sys.records ++ s.cov.tables.routes

/-- A prefix covers the upper 64 bits of an address. -/
def Route.covers (r : Route) (up : Nat) : Bool := topBits r.bits.toNat r.length == topBits up r.length

/-- The longest match (R235). -/
def longestMatch (rs : List Route) (up : Nat) : Option Route :=
  rs.foldl (fun b r =>
    if r.covers up then
      match b with
      | some q => if q.length < r.length then some r else b
      | none => some r
    else b) none

/-- The stage that holds a prefix length (R232). -/
def trieStage (len : Nat) : Nat := if len ≤ 16 then 0 else (len - 9) / 8

/-- Nodes in use in stage `k` (R234). -/
def trieNodes (rs : List Route) (k : Nat) : Nat :=
  ((rs.filter fun r => k ≤ trieStage r.length).map fun r => topBits r.bits.toNat (16 + 8 * (k - 1))).eraseDups.length

/-- The prefixes fit the trie (R234). -/
def trieFits (rs : List Route) : Bool :=
  decide (rs.length ≤ 16384) && (List.range 6).all fun k => decide (trieNodes rs (k + 1) ≤ 124)

/-- The index of a route object: LENGTH, the removed bit, and beyond the 32 bits of the entry the prefix itself. -/
def routeIndex (bits : BitVec 64) (len : Nat) (removed : Bool) : Nat := len + 256 * bit removed + 2 ^ 32 * bits.toNat

/-- Install or replace a prefix (R234, R236). -/
def putRoute (src : Src) (r : Route) (s : State) : State :=
  if s.cov.tables.routes.any (fun q => decide (q = r)) then s
  else
    let rest := s.cov.tables.routes.filter fun q => !(q.bits == r.bits && q.length == r.length)
    change src 3 4 (routeIndex r.bits r.length false) r.bytes { s with cov.tables.routes := rest ++ [r] }

/-- Remove a prefix (R234). -/
def removeRoute (src : Src) (bits : BitVec 64) (len : Nat) (s : State) : State :=
  change src 3 4 (routeIndex bits len true) []
    { s with cov.tables.routes := s.cov.tables.routes.filter fun q => !(q.bits == bits && q.length == len) }

/-- Endpoints that name a port (R228). -/
def endpointsOnPort (t : Tables) (port : Nat) : Nat :=
  (t.endpoints.filter fun e => e.2.port.toNat == port && e.2.state != .free).length

/-- A ROUTE_PREFIX record takes effect; none where no child number is free (R236). -/
def applyRoute (src : Src) (v : Bytes) (s : State) : Option State :=
  let bits := BitVec.ofNat 64 (ofBe (v.take 8))
  let len := ofLe (slice v 8 1)
  match ofLe (slice v 9 1) with
  | 1 =>
    let a := addrOf (slice v 0xC 16)
    match childOfAddr s a with
    | some _ => some (putRoute src ⟨bits, len, .toChild a⟩ s)
    | none =>
      match freeChild s with
      | some n => some (putRoute src ⟨bits, len, .toChild a⟩
          (putChild src n { Child.blank with addr := a, state := .silent, static := true } s))
      | none => none
  | 2 => some (putRoute src ⟨bits, len, .discard⟩ s)
  | _ => some (putRoute src ⟨bits, len, .toLocal⟩ s)

/-- How a STATIC_ENDPOINT record ended (R223). -/
inductive StaticEnd where
  | ok | capacity | identity
  deriving DecidableEq, Repr

/-- A staged write of FEEDER or PHASE frees the endpoint's identification entry (R312). -/
def dropIdent (src : Src) (slot : Nat) (s : State) : State :=
  match s.cov.metro.idents.find? (fun e => e.2.slot == slot) with
  | none => s
  | some e => change src 5 4 e.1 (zeros 0x240) { s with cov.metro.idents := tdel s.cov.metro.idents e.1 }

/-- A STATIC_ENDPOINT record applies, from the image or a staged set (R222, R223, R312). (DESIGN CHOICE, log 109) -/
def applyStatic (src : Src) (tick : BitVec 48) (v : Bytes) (s : State) : StaticEnd × State :=
  let x := euiOf (v.take 8)
  let port := ofLe (slice v 8 2) % 512
  let cf := ofLe (slice v 0xA 1)
  let fp := ofLe (slice v 0xB 1)
  let k := ofLe (slice v 0xC 2)
  let barred := testBit cf 4
  let fill (e : Endpoint) : Endpoint :=
    { e with port := BitVec.ofNat 9 port, static := true, cls := BitVec.ofNat 3 cf, sleeper := testBit cf 3,
             feeder := BitVec.ofNat 3 fp, phase := BitVec.ofNat 2 (fp / 16), keyGroup := BitVec.ofNat 12 k,
             keyGen := testBit k 12 }
  let (got, ended, s) :=
    match lookup s x with
    | some slot =>
      let e := endpoint s slot
      let st := if barred then .barred else if e.state = .barred then .silent else e.state
      let s := if src.stage = 2 then dropIdent src slot s else s
      (some slot, StaticEnd.ok, putEndpoint src slot { fill e with state := st } s)
    | none =>
      let full := (freeSlot s.cov.tables).isNone
      match createEndpoint src x port tick false
          { fill Endpoint.blank with state := if barred then .barred else .active } s with
      | (some slot, s) => (some slot, StaticEnd.ok, s)
      | (none, s) => (none, if full then StaticEnd.capacity else StaticEnd.identity, s)
  match got with
  | none => (ended, s)
  | some slot =>
    if port ≠ 4 then (ended, s)
    else
      match grantRadio src x slot tick s with
      | (none, s) => (ended, s)
      | (some i, s) =>
        let sc := slice v 0x10 28
        (ended, modRadio src i (fun r =>
          { r with eui := x, modeTx := BitVec.ofNat 8 (ofLe (slice v 0xE 1)), sleeper := testBit cf 3,
                   anchorS := BitVec.ofNat 32 (ofLe (slice sc 0 4)), anchorNs := BitVec.ofNat 32 (ofLe (slice sc 4 4)),
                   periodMs := BitVec.ofNat 32 (ofLe (slice sc 8 4)), drift := BitVec.ofNat 16 (ofLe (slice sc 12 2)),
                   rxWindowMs := BitVec.ofNat 16 (ofLe (slice sc 14 2)), setFirst := BitVec.ofNat 16 (ofLe (slice sc 16 2)),
                   setCount := BitVec.ofNat 16 (ofLe (slice sc 18 2)), hop := BitVec.ofNat 16 (ofLe (slice sc 20 2)),
                   seed := BitVec.ofNat 16 (ofLe (slice sc 22 2)), schedMode := BitVec.ofNat 8 (ofLe (slice sc 24 1)),
                   syncS := 0, syncNs := 0, misses := 0 }) s)

end Sys2Proof.Machine
end

