-- ==== Sys2Proof/Machine/PlcPhy.lean ====
section
/-!
DEFINITION. The powerline physical layer (chapter 3) and the acknowledgement and start of PPDUs (chapter 4): reception,
blanking, impedance steps, the transmit energy governor, launches and transmit reports.
-/
namespace Sys2Proof.Machine

open Sys2Proof

/-! ### Phases -/

/-- The state of phase `p`, 1 to 3. -/
def Plc.phase (x : Plc) (p : Nat) : PhaseState := if p = 1 then x.l1 else if p = 2 then x.l2 else x.l3

/-- Write the state of a phase. -/
def Plc.setPhase (x : Plc) (p : Nat) (f : PhaseState → PhaseState) : Plc :=
  if p = 1 then { x with l1 := f x.l1 } else if p = 2 then { x with l2 := f x.l2 } else { x with l3 := f x.l3 }

/-- Change the state of a phase. -/
def modPhase (p : Nat) (f : PhaseState → PhaseState) (s : State) : State := { s with plc := s.plc.setPhase p f }

/-- MODES of a phase: native and the strapped IEEE 1901.2 band by default (R60, R73). -/
def modesOf (recs : Tab Bytes) (region : BitVec 2) (p : Nat) : Nat :=
  cfgOf recs 0x0101 p 0 1 (1 + if region.getLsbD 0 then 4 else 2)

/-- MODES of a phase in the hardware. -/
def hwModes (s : State) (p : Nat) : Nat := modesOf s.hw.records s.sys.region p

/-- Native mode is enabled on a phase. -/
def nativeOn (s : State) (p : Nat) : Bool := testBit (hwModes s p) 0

/-- IEEE 1901.2 is enabled on a phase. -/
def ieeeOn (s : State) (p : Nat) : Bool := testBit (hwModes s p) 1 || testBit (hwModes s p) 2

/-! ### Tone maps (R104 to R106) -/

/-- Bits of a tone of a load code (R105). -/
def loadBits (code : Nat) : Nat :=
  match code % 8 with
  | 1 => 1 | 2 => 2 | 3 => 3 | 4 => 4 | 5 => 6 | 6 => 8 | _ => 0

/-- The 52 codes of stripe `st`. -/
def stripeMap (m : List (BitVec 4)) (st : Nat) : List (BitVec 4) := (m.drop (52 * st)).take 52

/-- Coded bits of a symbol on stripe `st` (R94, R106). -/
def stripeBits (m : List (BitVec 4)) (st : Nat) : Nat :=
  (stripeMap m st).foldl (fun a c => a + 4 * loadBits c.toNat) 0

/-- Coded bits per symbol summed over the 8 stripes (R131). -/
def mapBits (m : List (BitVec 4)) : Nat := (List.range 8).foldl (fun a st => a + stripeBits m st) 0

/-- No stripe map holds a loaded group (R106). -/
def robustOnly (p : PlcPart) : Bool := mapBits p.map == 0

/-- Tones of a stripe weighted by level, in quarters: 4 at full level, 1 where trimmed (R121). -/
def stripeAmp (m : List (BitVec 4)) (st : Nat) : Nat :=
  if stripeBits m st = 0 then 832
  else (stripeMap m st).foldl (fun a c => a + if c.getLsbD 3 then 4 else 16) 0

/-- Information bits of a codeword (R93). -/
def infoBits (rate : Nat) : Nat := match rate with | 1 => 1296 | 2 => 1620 | _ => 972

/-- Codewords of a payload of `n` bytes (R101). -/
def codewords (rate n : Nat) : Nat := ceilDiv (8 * n) (infoBits rate)

/-- Payload symbols of a robust PPDU (R95, R101). -/
def robustSymbols (n : Nat) : Nat := ceilDiv (1944 * codewords 0 n) 52

/-- The stripe of symbol `n`, offsets in 8 µs, stripe length in ns (R102). -/
def symbolStripe (startStripe startOffset lambdaNs n : Nat) : Nat :=
  if lambdaNs = 0 then startStripe % 8 else (startStripe + (8000 * startOffset + 480000 * n) / lambdaNs) % 8

/-- The stripes of the symbols that hold `need` coded bits on a link's maps (R101). -/
def mapSymbols (m : List (BitVec 4)) (st off lam : Nat) : Nat → Nat → Nat → List Nat
  | 0, _, _ => []
  | fuel + 1, n, need =>
    if need = 0 then []
    else
      let k := symbolStripe st off lam n
      k :: mapSymbols m st off lam fuel (n + 1) (need - stripeBits m k)

/-! ### The governor (R120 to R123) -/

/-- The energy of one symbol in 1/16 µJ: weight in 1/127, tones in quarters (R121). -/
def symbolEnergy (w amp4 : Nat) : Nat := ceilDiv (3840 * w * w * amp4) (127 * 127 * 208 * 4)

/-- A PPDU as the governor projects it: the weights of L1 to L3 and the tones of each 480 µs period, the preamble
counting as two (R121). -/
structure Projection where
  weights : List Nat
  amps    : List Nat
  deriving DecidableEq, Repr

/-- W, the ticks of the window (R122). -/
def windowTicks (s : State) : Nat := if nominal60Of s.hw.records s.sys.region then 120 else 100

/-- The shares of a PPDU by tick, for one weight (R122). -/
def shares (tickNs startNs w : Nat) : List Nat → Nat → List (Nat × Nat)
  | [], _ => []
  | a :: as, i =>
    let t := if tickNs = 0 then 0 else (startNs + 480000 * i) / tickNs
    match shares tickNs startNs w as (i + 1) with
    | (u, e) :: rest => if u = t then (u, e + symbolEnergy w a) :: rest else (t, symbolEnergy w a) :: (u, e) :: rest
    | [] => [(t, symbolEnergy w a)]

/-- Energy charged to a tick. -/
def chargedTo (cs : List (Nat × Nat)) (tick : Nat) : Nat :=
  cs.foldl (fun a c => if c.1 = tick then a + c.2 else a) 0

/-- Energy charged to ticks `lo` to `hi`. -/
def chargedIn (cs : List (Nat × Nat)) (lo hi : Nat) : Nat :=
  cs.foldl (fun a c => if lo ≤ c.1 ∧ c.1 ≤ hi then a + c.2 else a) 0

/-- What the governor answers: admitted, or the first phase that refuses with the PPDU's energy and the window
energy left there, in µJ. -/
inductive Admission where
  | admitted
  | held (phase energy left : Nat)
  deriving DecidableEq, Repr

/-- The governor's decision on a PPDU that starts `startNs` into the tick in progress (R122). -/
def governor (s : State) (startNs : Nat) (pr : Projection) : Admission :=
  let t := s.cap.tick.toNat
  let w := windowTicks s
  let bad := [1, 2, 3].findSome? fun p =>
    let wt := pr.weights.getD (p - 1) 0
    if wt = 0 then none
    else
      let cs := (s.plc.phase p).charges
      let sh := shares s.pll.tickNs startNs wt pr.amps 0
      let total := sh.foldl (fun a x => a + x.2) 0
      let tickCap := 16 * hwCfg s 0x0101 p 4 4 5000
      let winCap := 16 * hwCfg s 0x0101 p 8 4 200000
      let used := chargedIn cs (t + 1 - w) t
      if sh.all (fun x => decide (chargedTo cs (t + x.1) + x.2 ≤ tickCap)) && decide (used + total ≤ winCap) then none
      else some (p, ceilDiv total 16, (winCap - used) / 16)
  match bad with
  | none => .admitted
  | some (p, e, l) => .held p e l

/-- The charges of an admitted PPDU (R122), with its symbols counted on each phase (R130). -/
def chargePpdu (startNs : Nat) (pr : Projection) (s : State) : State :=
  [1, 2, 3].foldl (fun s p =>
    let wt := pr.weights.getD (p - 1) 0
    if wt = 0 then s
    else
      let t := s.cap.tick.toNat
      let w := windowTicks s
      let sh := shares s.pll.tickNs startNs wt pr.amps 0
      modPhase p (fun x =>
        { x with charges := (x.charges.filter fun c => decide (t + 1 ≤ c.1 + w)) ++ sh.map fun e => (t + e.1, e.2),
                 txSymbols := x.txSymbols.add pr.amps.length, tickTx := true }) s) s

/-- Each of the W-1 ticks before the first captured tick counts as charged with WINDOW_ENERGY/W (R123). -/
def chargeWindow (s : State) : State :=
  [1, 2, 3].foldl (fun s p =>
    let t := s.cap.tick.toNat
    let w := windowTicks s
    let e := 16 * hwCfg s 0x0101 p 8 4 200000 / w
    let cs := (List.range (w - 1)).filterMap fun i => if i + 1 ≤ t then some (t - (i + 1), e) else none
    modPhase p (fun x => { x with charges := cs }) s) s

/-- A hold, counted on the phase that refused; PLC_GOVERNOR_HOLD is raised with the tick's log (R122, R131).
(DEDUCED, log 14) -/
def countHold (p e l : Nat) (s : State) : State :=
  { modPhase p (fun x => { x with govHolds := x.govHolds.inc }) s with
    cap.log.events := s.cap.log.events ++ [(0x1003, [BitVec.ofNat 32 p, BitVec.ofNat 32 e, BitVec.ofNat 32 l])] }

/-! ### Projections of what the M20 sends -/

/-- The weights that a link is sent with (R118): 0x49 on every phase without a home, the home phase alone at TX_MODE 0,
else WEIGHT. Disabled phases send nothing. -/
def linkWeights (s : State) (i : Nat) : List Nat :=
  let keep (p w : Nat) : Nat := if nativeOn s p then w else 0
  match (hwLink s i).plc? with
  | none => [keep 1 73, keep 2 73, keep 3 73]
  | some l =>
    let h := l.home.toNat
    if h = 0 then [keep 1 73, keep 2 73, keep 3 73]
    else if hwCfg s 0x0101 h 1 1 1 = 0 then [1, 2, 3].map fun p => if p = h then keep p 127 else 0
    else [1, 2, 3].map fun p => keep p ((l.weight.getD (p - 1) 0).toNat % 128)

/-- The home-phase port of a link: L1 without a home (R148). -/
def homePort (s : State) (i : Nat) : Nat :=
  match (hwLink s i).plc? with
  | some l => if l.home = 0 then 1 else l.home.toNat
  | none => 1

/-- A robust PPDU of `n` payload bytes, `extra` sounding symbols ahead of the payload. -/
def robustProjection (ws : List Nat) (extra n : Nat) : Projection :=
  ⟨ws, List.replicate (6 + extra + if n = 0 then 0 else robustSymbols n) 832⟩

/-- A PPDU of `n` payload bytes on a link's maps, started in `stripe` at `offsetNs` (R101, R102). -/
def mapProjection (s : State) (ws : List Nat) (p : PlcPart) (stripe offsetNs n : Nat) : Projection :=
  let lam := s.pll.stripeNs
  let t0 := offsetNs + 2880000
  let st := if lam = 0 then stripe else (stripe + t0 / lam) % 8
  let off := if lam = 0 then 0 else t0 % lam / 8000
  let sy := mapSymbols p.map st off lam 511 0 (1944 * codewords p.rate.toNat n)
  ⟨ws, List.replicate 6 832 ++ sy.map fun k => stripeAmp p.map k⟩

/-- PSDU bytes of a native frame (R137). -/
def psduBytes (routed : Bool) (payload : Nat) : Nat := 12 + (if routed then 8 else 0) + payload

/-- The native frame that a queued frame makes (R137): the M20 is 0xFFE. (PRESUMED, log 40) -/
def nativeFrame (ftype : Nat) (ackReq retry : Bool) (dsn : Byte) (dest : Nat) (route : List Nat) (payload : Bytes) : Bytes :=
  let b0 := ftype + 16 * bit ackReq + 32 * bit retry + 64 * bit (!route.isEmpty)
  let rt := if route.isEmpty then [] else
    [BitVec.ofNat 8 route.length, 0] ++ fit 6 (route.flatMap fun r => le 2 r)
  let n := psduBytes (!route.isEmpty) payload.length
  let h := [BitVec.ofNat 8 b0, dsn] ++ le 2 dest ++ le 2 0xFFE ++ le 2 n ++ rt ++ payload
  h ++ le 4 (crc32 h).toNat

/-- Whether a queued frame goes robust: by its attempt, or because the link's maps are not to be used (R107, R160). -/
def goesRobust (s : State) (f : PlcTx) : Bool :=
  f.robust || (match (hwLink s f.link).plc? with
    | some p => p.stepHold || p.unconfirmed || robustOnly p
    | none => true)

/-- The projection of a queued frame. -/
def frameProjection (s : State) (f : PlcTx) (stripe offsetNs : Nat) : Projection :=
  let n := psduBytes (!f.route.isEmpty) f.payload.length
  let ws := linkWeights s f.link
  let extra := if f.ftype = 5 then 25 else 0
  match goesRobust s f, (hwLink s f.link).plc? with
  | false, some p => mapProjection s ws p stripe offsetNs n
  | _, _ => robustProjection ws extra n

/-! ### Impulse blanking (R115, R116) -/

/-- Over-threshold flags of samples, and the running mean square after them, in 1/4096 of a squared sample.
`zero` says which samples are zeroed and so leave the mean alone (R115). -/
def runningMs (pw : Nat) : List Int → List Bool → Nat
  | x :: xs, z :: zs =>
    runningMs (if z then pw else pw + (x * x).toNat - pw / 4096) xs zs
  | _, _ => pw

/-- A sample is over threshold: x² > (BLANK_FACTOR/16)²·pw. -/
def overThreshold (factor pw : Nat) (x : Int) : Bool := decide (factor * factor * pw < (x * x).toNat * 256 * 4096)

/-- The flags spread over 4 samples on each side. -/
def guardFlags (fs : List Bool) : List Bool :=
  (List.range fs.length).map fun i => (List.range 9).any fun d => 4 ≤ i + d && fs.getD (i + d - 4) false

/-- Runs of consecutive zeroed samples. (DEDUCED, log 37) -/
def countRuns (zs : List Bool) : Nat :=
  (zs.foldl (fun (a : Nat × Bool) z => (if z && !a.2 then a.1 + 1 else a.1, z)) (0, false)).1

/-- What blanking does to one symbol of one phase. -/
structure Blanked where
  pw     : Nat
  zeroed : Nat
  runs   : Nat
  deriving DecidableEq, Repr

/-- Blank one 576-sample period (R115). Where the stripe has no mean yet, it starts at this period's mean square and
nothing is blanked. -/
def blankSymbol (factor : Nat) (pw : Option Nat) (xs : List Int) : Blanked :=
  match pw with
  | none => ⟨(xs.foldl (fun a x => a + (x * x).toNat) 0) * 4096 / (max 1 xs.length), 0, 0⟩
  | some p =>
    let zs := guardFlags (xs.map (overThreshold factor p))
    ⟨runningMs p xs zs, zs.foldl (fun a z => a + bit z) 0, countRuns zs⟩

/-- The blanking of one symbol on every phase: zeroed samples of the symbol (the most of any phase), and the state with
means, line statistics and counters (R116, R125, R130). (DEDUCED, log 37) -/
def blankAll (stripe i : Nat) (p : PpduIn) (s : State) : Nat × State :=
  [1, 2, 3].foldl (fun (a : Nat × State) ph =>
    let xs := (p.samples.getD (ph - 1) []).drop (576 * i) |>.take 576
    if xs.isEmpty || !nativeOn a.2 ph then a
    else
      let st := a.2.plc.phase ph
      let r := blankSymbol (hwCfg a.2 0x0101 ph 2 2 96) (st.pw.getD stripe none) xs
      let er := decide (69 < r.zeroed)
      (max a.1 r.zeroed, modPhase ph (fun x =>
        { x with pw := x.pw.set stripe (some r.pw), blankEvents := x.blankEvents.add r.runs,
                 erasedSymbols := x.erasedSymbols.add (bit er),
                 tickBlank := x.tickBlank.modify stripe (· + r.runs), tickZeroed := x.tickZeroed.modify stripe (· + r.zeroed),
                 tickErased := x.tickErased.modify stripe (· + bit er) }) a.2)) (0, s)

/-- The scale of a symbol's soft values in 1/576, 0 for an erased symbol (R116). -/
def softScale (zeroed : Nat) : Nat := if zeroed ≤ 69 then 576 - 4 * zeroed else 0

/-! ### Impedance steps (R110) -/

/-- A symbol qualifies: of its loaded groups, the error of enough rose by 6 dB or more. -/
def stepQualifies (g : Nat × Nat) : Bool :=
  if g.1 < 52 then decide (0 < g.1) && decide (g.1 ≤ 4 * g.2) else decide (13 ≤ g.2)

/-- The first of two consecutive qualifying symbols. -/
def stepSymbol : List (Nat × Nat) → Nat → Option Nat
  | a :: b :: t, i => if stepQualifies a && stepQualifies b then some i else stepSymbol (b :: t) (i + 1)
  | _, _ => none

/-! ### Receive descriptors (R124) -/

/-- The stripes of a PPDU's payload and sounding symbols as a mask (R102, R124). -/
def stripeMask (fc : PlcFc) (lambdaNs : Nat) : Nat :=
  let n := fc.symbols.toNat + if fc.ppduType = 2 then 25 else 0
  (List.range n).foldl (fun m i => m ||| 2 ^ symbolStripe fc.startStripe.toNat fc.startOffset.toNat lambdaNs i) 0

/-- A receive descriptor and what follows it (R124). -/
def plcDescriptor (mode flags phases mask : Nat) (fc : PlcFc) (cwT cwF : Byte) (arrival : BitVec 32) (blanked erased : Nat)
    (step : Option Nat) (gains : List Byte) (mean : Byte) (snr : List Bytes) (psdu : Bytes) : Bytes :=
  [BitVec.ofNat 8 mode, BitVec.ofNat 8 flags, BitVec.ofNat 8 phases, BitVec.ofNat 8 mask] ++ le 2 fc.link.toNat
    ++ [fc.mapSet, BitVec.ofNat 8 fc.rate.toNat] ++ le 2 fc.symbols.toNat ++ [cwT, cwF] ++ le 4 arrival.toNat
    ++ [BitVec.ofNat 8 (sat 8 blanked), BitVec.ofNat 8 (sat 8 erased), BitVec.ofNat 8 (step.getD 0xFF), BitVec.ofNat 8 fc.level.toNat]
    ++ fit 3 gains ++ [mean] ++ le 2 psdu.length ++ zeros 6 ++ snr.flatten ++ psdu

/-- The map set a non-robust payload is decoded with: the link's current set, a shadow, or neither (R108). -/
inductive MapUse where
  | current | shadow | miss
  deriving DecidableEq, Repr

/-- Which set frame control names. -/
def mapUse (s : State) (fc : PlcFc) : MapUse :=
  match (hwLink s fc.link.toNat).plc? with
  | none => .miss
  | some p =>
    if p.mapSet = fc.mapSet ∧ p.rate = fc.rate then .current
    else if s.plc.shadows.any (fun x => x.link == fc.link.toNat && x.mapSet == fc.mapSet && x.rate == fc.rate) then .shadow
    else .miss

/-- The hardware acknowledges a data PPDU of these first bytes (R146). -/
def wantsAck (psdu : Bytes) : Bool :=
  let b0 := ((psdu.head?).map (·.toNat)).getD 0
  let ft := b0 % 16
  let dest := ofLe (slice psdu 2 2) % 4096
  let r0 := ofLe (slice psdu 8 1)
  let hop :=
    if testBit b0 6 && decide (r0 / 4 % 4 < r0 % 4) then ofLe (slice psdu (10 + 2 * (r0 / 4 % 4)) 2) % 4096 else dest
  (ft == 0 || ft == 2 || ft == 7 || ft == 8) && testBit b0 4 && hop == 0xFFE

/-- The acknowledgement of a received data PPDU: 240 µs after it, or withheld (R140, R146). `gap` is the time to the next
due launch, which it must leave 100 µs clear. -/
def plcAck (fc : PlcFc) (dsn : Byte) (endNs : Nat) (s : State) : State :=
  let pr := robustProjection (linkWeights s fc.link.toNat) 0 0
  match governor s (endNs + 240000) pr with
  | .held _ _ _ => { s with plc.ackWithheld := s.plc.ackWithheld.inc }
  | .admitted =>
    let s := chargePpdu (endNs + 240000) pr s
    emit (.plc [1, 2, 3] (le 2 fc.link.toNat ++ [dsn])) s

/-- Time into the tick of an instant given by the low 32 bits of its stamp, in ns. -/
def intoTick (s : State) (a : BitVec 32) : Nat := (a - s.cap.log.start.ns).toNat

/-! ### Commands -/

/-- A native preamble is detected on a phase (R117, R119, R127): it starts the PPDU's reception on all enabled phases,
unless a transmission or another reception holds the receivers. -/
def execPreambleDetect (phase : BitVec 2) (s : State) : Answer :=
  whenCapturing s fun s =>
    if nativeOn s phase.toNat && s.plc.onAir.isNone && s.plc.reception.isNone then
      { s with plc.reception := some phase.toNat }
    else s

/-- Symbols that follow frame control: sounding symbols and the payload (R102, R109). -/
def ppduSymbols (p : PpduIn) : Nat := p.fc.symbols.toNat + if p.fc.ppduType = 2 then 25 else 0

/-- The blanking of a PPDU's symbols: symbols with a zeroed sample, erased symbols, and the state after it (R115, R116). -/
def blankPpdu (p : PpduIn) (s : State) : Nat × Nat × State :=
  (List.range (ppduSymbols p)).foldl (fun (a : Nat × Nat × State) i =>
    let r := blankAll (symbolStripe p.fc.startStripe.toNat p.fc.startOffset.toNat s.pll.stripeNs i) i p a.2.2
    (a.1 + bit (decide (0 < r.1)), a.2.1 + bit (decide (69 < r.1)), r.2)) (0, 0, s)

/-- The payload is robust whatever the link's maps (R95, R109). -/
def ppduRobust (p : PpduIn) : Bool := p.fc.rate = 3 || p.fc.ppduType = 2

/-- The map set that decodes the payload. -/
def ppduUse (p : PpduIn) (s : State) : MapUse := if ppduRobust p || p.fc.ppduType = 1 then .current else mapUse s p.fc

/-- The symbol of an impedance step in a data PPDU (R110). -/
def ppduStep (p : PpduIn) (use : MapUse) : Option Nat :=
  if p.fc.ppduType = 0 && use != .miss then stepSymbol p.groupError 0 else none

/-- Failed codewords, one more where injection corrupts the PPDU (R579). -/
def ppduFailed (p : PpduIn) (eff : FaultEffect) : Byte :=
  match eff with | .corrupt _ _ => p.cwFailed + 1 | _ => p.cwFailed

/-- Every codeword of a payload decoded. -/
def ppduOk (p : PpduIn) (use : MapUse) (cwF : Byte) : Bool := p.fc.ppduType != 1 && use != .miss && decide (cwF = 0)

/-- The counters of a received PPDU (R130). -/
def countPpdu (p : PpduIn) (use : MapUse) (cwF : Byte) (s : State) : State :=
  modPhase p.phase.toNat (fun x =>
    { x with rxOk := if ppduOk p use cwF || p.fc.ppduType = 1 then x.rxOk.inc else x.rxOk,
             rxFailed := if p.fc.ppduType != 1 && use != .miss && cwF != 0 then x.rxFailed.inc else x.rxFailed,
             mapMiss := if use == .miss then x.mapMiss.inc else x.mapMiss,
             steps := if (ppduStep p use).isSome then x.steps.inc else x.steps }) s

/-- The descriptor of a received PPDU, with what follows it (R124). -/
def ppduBody (p : PpduIn) (use : MapUse) (cwF : Byte) (blanked erased : Nat) (s : State) : Bytes :=
  let short := p.fc.ppduType = 1
  let comb := ([1, 2, 3].filter (nativeOn s)).foldl (fun a q => a + 2 ^ (q - 1)) 0
  let step := ppduStep p use
  let flags := bit (ppduOk p use cwF) + 2 * bit step.isSome + 4 * bit (use == .shadow) + 8 * bit (ppduRobust p) + 16 * bit (use == .miss)
  plcDescriptor p.fc.ppduType.toNat flags (comb + 16 * p.strongest.toNat) (if short then 0 else stripeMask p.fc s.pll.stripeNs)
    p.fc p.cwTotal cwF p.arrival blanked erased step p.phaseGain p.meanSnr (if short then [] else p.snr)
    (if ppduOk p use cwF then p.psdu else [])

/-- The hardware acknowledges a data PPDU that decoded and found room (R146). -/
def ackPpdu (p : PpduIn) (ok : Bool) (s : State) : State :=
  if p.fc.ppduType = 0 && ok && wantsAck p.psdu then
    plcAck p.fc (p.psdu.getD 1 0) (intoTick s p.arrival + 106666 + 1920000 + 480000 * ppduSymbols p) s
  else s

/-- A native PPDU whose frame control decodes: one input with its descriptor, and the hardware acknowledgement. -/
def receivePpdu (p : PpduIn) (s : State) : State :=
  let ph := p.phase.toNat
  let use := ppduUse p s
  let x := blankPpdu p s
  let y := injectFault ph true (p.cwFailed != 0 || use == .miss) x.2.2
  let cwF := ppduFailed p y.1
  let s := countPpdu p use cwF y.2
  let e : LogEntry := ⟨BitVec.ofNat 9 ph, 1, s.time.ns, ppduBody p use cwF x.1 x.2.1 s, none⟩
  let room := s.cap.log.takes e || queueRoom s e
  ackPpdu p (ppduOk p use cwF && room && y.1 != .drop) (receiveInput ph y.1 e s)

/-- A native PPDU ends (R99 to R124, R134, R140, R146, R579). One whose frame control fails is counted and makes no input. -/
def execPpduReceive (p : PpduIn) (s : State) : Answer :=
  whenCapturing s fun s =>
    let ph := p.phase.toNat
    if !nativeOn s ph || s.plc.onAir.isSome then s
    else if !p.fcOk then
      modPhase ph (fun x => { x with fcFailed := x.fcFailed.inc, tickFcFail := x.tickFcFail + 1 }) { s with plc.reception := none }
    else receivePpdu p { s with plc.reception := none }

/-- An IEEE 1901.2 PPDU is received (R127 to R129): a descriptor with MODE 3. -/
def execIeee1901PpduReceive (p : Ieee1901In) (s : State) : Answer :=
  whenCapturing s fun s =>
    let ph := p.phase.toNat
    if !ieeeOn s ph || s.plc.onAir.isSome then s
    else
      let fc : PlcFc := ⟨0, 0, 0, 0xFFF, 0, 0, 0, 0⟩
      let (eff, s) := injectFault ph true (!p.ok) s
      let hit := match eff with | .corrupt _ _ => true | _ => false
      let ok := p.ok && !hit
      let s := modPhase ph (fun x => { x with rxOk := if ok then x.rxOk.inc else x.rxOk,
                                              rxFailed := if ok then x.rxFailed else x.rxFailed.inc }) s
      let body := plcDescriptor 3 (bit ok) (2 ^ (ph - 1) + 16 * ph) 0 fc 0 (BitVec.ofNat 8 (bit (!ok))) p.arrival 0 0 none
        [127, 127, 127] p.meanSnr [] (if ok then p.psdu else [])
      receiveInput ph eff ⟨BitVec.ofNat 9 ph, 1, s.time.ns, body, none⟩ s

/-- STRIPE_PLAN lets an ordinary PPDU of the M20 start in a stripe: open or downlink only (R142, R143). -/
def planOpen (recs : Tab Bytes) (stripe : Nat) : Bool :=
  cfgOf recs 0x0102 0 4 2 0 / 4 ^ stripe % 4 < 2

/-- The first queued frame that starts: its slot stripe open, admitted, and clear of the next launch by 100 µs
(R144, R145). Frames the governor refuses are held and counted. -/
def startQueued (stripe offsetNs : Nat) (gap : Option Nat) : List PlcTx → State → State
  | [], s => s
  | f :: fs, s =>
    if f.sending || f.slot ≠ stripe then startQueued stripe offsetNs gap fs s
    else
      let pr := frameProjection s f stripe offsetNs
      let dur := 480000 * pr.amps.length
      if gap.any (fun g => decide (g < dur + 100000)) then startQueued stripe offsetNs gap fs s
      else
        let at0 := stripe * s.pll.stripeNs + offsetNs
        match governor s at0 pr with
        | .held p e l => startQueued stripe offsetNs gap fs (countHold p e l s)
        | .admitted =>
          let home := homePort s f.link
          let robust := goesRobust s f
          let dest := f.peer
          let frame := nativeFrame f.ftype f.ackReq f.retry f.dsn dest f.route f.payload
          let (eff, s) := injectFault home false false s
          let frame := match eff with | .corrupt p m => corruptByte frame p m | _ => frame
          let s := chargePpdu at0 pr s
          let s := { s with plc.queue := s.plc.queue.map fun q => if q.queueId = f.queueId then { q with sending := true } else q,
                            plc.onAir := some { phase := home, launched := false, robust := robust, ackReq := f.ackReq,
                                                link := f.link, dsn := f.dsn, attempt := f.attempt, queueId := f.queueId,
                                                startAt := s.cap.log.start.ns + BitVec.ofNat 32 at0, stripe := stripe,
                                                mapSet := if robust then 0 else ((hwLink s f.link).plc?.map (·.mapSet)).getD 0,
                                                symbols := pr.amps.length - 6 } }
          if eff = .drop then s else emit (.plc [1, 2, 3] frame) s

/-- An ordinary PPDU may start in its slot stripe (R119, R122, R143 to R145). -/
def execPlcPpduStart (stripe : BitVec 3) (offsetNs : Nat) (launchGapNs : Option Nat) (s : State) : Answer :=
  whenCapturing s fun s =>
    if s.plc.onAir.isSome || s.plc.reception.isSome || !planOpen s.hw.records stripe.toNat then s
    else startQueued stripe.toNat offsetNs launchGapNs s.plc.queue s

/-- The bytes of a transmit report (R153). -/
def plcReportBytes (a : PlcOnAir) (endAt : BitVec 32) (withdrawn : Bool) : Bytes :=
  [0x80, BitVec.ofNat 8 (bit a.ackReq + 2 * bit a.robust + 4 * bit a.launched + 8 * bit withdrawn)] ++ le 2 a.link
    ++ [a.dsn, BitVec.ofNat 8 a.attempt] ++ le 2 a.queueId.toNat ++ le 4 a.startAt.toNat ++ le 4 endAt.toNat
    ++ [BitVec.ofNat 8 a.stripe, a.mapSet] ++ le 2 a.symbols ++ zeros 4

/-- A PPDU of the M20 ends, or is withdrawn before it was sent (R153). -/
def execPlcPpduEnd (at_ : BitVec 32) (withdrawn : Bool) (s : State) : Answer :=
  whenCapturing s fun s =>
    match s.plc.onAir with
    | none => s
    | some a =>
      let mine (q : PlcTx) : Bool := q.sending && q.queueId == a.queueId && !a.launched
      bearerInput a.phase (plcReportBytes a at_ withdrawn)
        { s with plc.onAir := none, plc.queue := s.plc.queue.filter fun q => !mine q,
                 plc.waiting := s.plc.waiting ++ (s.plc.queue.filter mine).map fun q => (s.cap.tick.toNat, q) }

/-- Whether a launch's anchor has passed: a stripe of an earlier tick, or an instant before the tick in progress (R147). -/
def anchorDue (s : State) (st : Nat) (a : Anchor) : Bool :=
  match a with
  | .stripe t x => t == s.cap.tick && x == st
  | .instant sec ns => decide (stampNs ⟨sec, ns⟩ ≤ nowNs s)

/-- A reception in progress ends for a launch (R119). -/
def preempt (s : State) : State :=
  match s.plc.reception with
  | some p => { modPhase p (fun x => { x with rxPreempted := x.rxPreempted.inc }) s with plc.reception := none }
  | none => s

/-- The projection of a launch: robust, with weights 0x49 on every phase for the broadcast LINK (R148). -/
def launchProjection (l : PlcLaunchEntry) (s : State) : Projection :=
  let ws := if l.link = 0xFFF then [1, 2, 3].map fun p => if nativeOn s p then 73 else 0 else linkWeights s l.link
  robustProjection ws 0 (psduBytes false l.payload.length)

/-- The home-phase port of a launch. -/
def launchPort (l : PlcLaunchEntry) (s : State) : Nat := if l.link = 0xFFF then 1 else homePort s l.link

/-- A launch is sent, or is withdrawn where the governor does not allow it (R122, R147). -/
def sendLaunch (stripe offsetNs : Nat) (l : PlcLaunchEntry) (s : State) : State :=
  let pr := launchProjection l s
  let at0 := stripe * s.pll.stripeNs + offsetNs
  let home := launchPort l s
  let air : PlcOnAir :=
    ⟨home, true, true, l.ackReq, l.link, l.dsn, 1, l.queueId, s.cap.log.start.ns + BitVec.ofNat 32 at0, stripe, 0,
      pr.amps.length - 6⟩
  match governor s at0 pr with
  | .held _ _ _ =>
    bearerInput home (plcReportBytes air air.startAt true) { s with plc.launchDropped := s.plc.launchDropped.inc }
  | .admitted =>
    let frame := nativeFrame l.ftype l.ackReq false l.dsn l.link [] l.payload
    let x := injectFault home false false s
    let frame := match x.1 with | .corrupt p m => corruptByte frame p m | _ => frame
    let s := { chargePpdu at0 pr x.2 with plc.onAir := some air }
    if x.1 = .drop then s else emit (.plc [1, 2, 3] frame) s

/-- A launch reaches its anchor (R119, R147, R148): it ends any reception in progress and is sent, or is dropped late. -/
def execPlcLaunch (stripe : BitVec 3) (offsetNs : Nat) (late : Bool) (s : State) : Answer :=
  whenCapturing s fun s =>
    match s.plc.launches.find? (fun l => late || anchorDue s stripe.toNat l.anchor) with
    | none => s
    | some l =>
      if late then { s with plc.launches := s.plc.launches.erase l, plc.launchLate := s.plc.launchLate.inc }
      else if s.plc.onAir.isSome then s
      else sendLaunch stripe.toNat offsetNs l (preempt { s with plc.launches := s.plc.launches.erase l })

end Sys2Proof.Machine
end

