-- ==== Sys2Proof/Machine/PlcLink.lean ====
section
/-!
DEFINITION. The powerline link (chapters 3 and 4): map computation, qualities, repeater selection, the transmit queue,
joins, soundings and beacons.
-/
namespace Sys2Proof.Machine

open Sys2Proof

/-! ### Map computation (R111 to R113, R118) -/

/-- The loads of R105 as code order: 0, 1, 2, 3, 4, 6, 8 bits are codes 0 to 6. Required SNR of a code at rate 2/3, in
0.5 dB (R111). -/
def reqSnr (code : Nat) : Int :=
  match code with
  | 1 => 3 | 2 => 9 | 3 => 18 | 4 => 21 | 5 => 33 | 6 => 45 | _ => 0

/-- Rate offset (R111). -/
def rateOffset (rate : Nat) : Int := match rate with | 0 => -3 | 1 => 0 | _ => 4

/-- The largest load code that an SNR carries at a rate with the margin of 4, or 0 (R111, R112). -/
def bestLoad (snr : Nat) (rate : Nat) : Nat :=
  (List.range 7).foldl (fun b c => if c ≠ 0 ∧ reqSnr c + rateOffset rate + 4 ≤ (snr : Int) then c else b) 0

/-- The code of one group at one rate (R112). -/
def groupCode (rate cur : Nat) (up dn : Byte) : BitVec 4 :=
  if up = 0xFF ∨ dn = 0xFF then 0
  else
    let snr := min up.toNat dn.toNat
    let b := bestLoad snr rate
    let b := if cur < b then cur + 1 else b
    let trim := b == 6 && decide (reqSnr 6 + rateOffset rate + 20 ≤ (snr : Int))
    BitVec.ofNat 4 (b + 8 * bit trim)

/-- Numerators of the code rates over 12: 1/2, 2/3, 5/6. -/
def rateTwelfths (rate : Nat) : Nat := match rate with | 0 => 6 | 1 => 8 | _ => 10

/-- The map and rate of a sounding response (R112): the rate with the most information bits, the lower on a tie. -/
def computeMap (cur : List (BitVec 4)) (up dn : List Byte) : List (BitVec 4) × Nat :=
  let ofRate (r : Nat) : List (BitVec 4) :=
    (List.range 416).map fun i => groupCode r ((cur.getD i 0).toNat % 8) (up.getD i 0xFF) (dn.getD i 0xFF)
  [1, 2].foldl (fun b r =>
    let m := ofRate r
    if rateTwelfths b.2 * mapBits b.1 < rateTwelfths r * mapBits m then (m, r) else b) (ofRate 0, 0)

/-- The group SNR of the 8 stripes from the blocks of a descriptor's mask; unlisted stripes are not measured (R124). -/
def snrOfBlocks (mask : Nat) (blocks : List (List Byte)) : List Byte :=
  ((List.range 8).foldl (fun (a : List Byte × List (List Byte)) st =>
    if testBit mask st then (a.1 ++ fit 52 (a.2.headD []), a.2.drop 1) else (a.1 ++ List.replicate 52 0xFF, a.2))
    ([], blocks)).1

/-- A data PPDU lowers the loads that its uplink SNR no longer carries (R113). -/
def lowerMap (rate : Nat) (m : List (BitVec 4)) (up : List Byte) : List (BitVec 4) :=
  (List.range 416).map fun i =>
    let c := m.getD i 0
    let l := c.toNat % 8
    let u := up.getD i 0xFF
    if l = 0 ∨ u = 0xFF ∨ reqSnr l + rateOffset rate ≤ (u.toNat : Int) then c
    else BitVec.ofNat 4 (bestLoad u.toNat rate)

/-- The floor of the `n`-th root of `v`, below 2^bits. -/
def rootFloor (n v : Nat) : Nat → Nat → Nat
  | 0, lo => lo
  | b + 1, lo => rootFloor n v b (if (lo + 2 ^ b) ^ n ≤ v then lo + 2 ^ b else lo)

/-- The squared amplitude 10^(-att/20) of a phase `att` half-decibels down, in units of 10^-24 (R118). -/
def ampSquared (att : Nat) : Nat := rootFloor 20 (10 ^ (480 - att)) 81 0

/-- WEIGHT of L1 to L3 (R118). -/
def computeWeights (native : Nat → Bool) (gain : List Byte) : List Byte :=
  let sq (p : Nat) : Nat :=
    let a := (gain.getD (p - 1) 0x7F).toNat % 128
    if 36 < a || !native p then 0 else ampSquared a
  let total := sq 1 + sq 2 + sq 3
  [1, 2, 3].map fun p =>
    let w := (List.range 128).foldl (fun b w => if w * w * total ≤ 127 * 127 * sq p then w else b) 0
    BitVec.ofNat 8 ((if total = 0 then 0 else w) + 128 * bit ((gain.getD (p - 1) 0).getLsbD 7))

/-- The strongest phase of a PHASE_GAIN, the lower on a tie (R118). -/
def strongestPhase (gain : List Byte) : Nat :=
  ([2, 3].foldl (fun (b : Nat × Nat) p =>
    let a := (gain.getD (p - 1) 0x7F).toNat % 128
    if a < b.2 then (p, a) else b) (1, (gain.getD 0 0x7F).toNat % 128)).1

/-- The hardware's shadow of a replaced map set, at most 256 (R108). -/
def pushShadow (i : Nat) (p : PlcPart) (s : State) : State :=
  let l := s.plc.shadows ++ [⟨i, p.mapSet, p.map, p.rate⟩]
  { s with plc.shadows := l.drop (l.length - 256) }

/-! ### Qualities and paths (R134, R159, R160) -/

/-- The quality nibble of an SNR in 0.5 dB (R134). -/
def qualityOf (m : Nat) : Nat := min 15 (1 + m / 6)

/-- The mean of the measured bytes of a block, or the descriptor's mean (R134). -/
def blockMean (mean : Byte) (blk : List Byte) : Nat :=
  let ms := blk.filter (· != 0xFF)
  if ms.isEmpty then mean.toNat else (ms.foldl (fun a b => a + b.toNat) 0) / ms.length

/-- DIRECT_Q after a PPDU (R134). -/
def newQuality (q : BitVec 32) (mask : Nat) (blocks : List (List Byte)) (mean : Byte) : BitVec 32 :=
  ((List.range 8).foldl (fun (a : BitVec 32 × List (List Byte)) st =>
    if testBit mask st then
      let n := qualityOf (blockMean mean (a.2.headD []))
      let old := nibble a.1 st
      (setNibble a.1 st (if old = 0 then n else (old + n + 1) / 2), a.2.drop 1)
    else a) (q, blocks)).1

/-- The hop sender's quality takes a PPDU (R134). -/
def updateQuality (src : Src) (i : Nat) (r : PlcRx) (s : State) : State :=
  let e := linkEntry s i
  match e.plc? with
  | none => s
  | some p =>
    putLink src i { peer := { e.peer with direct := true },
                    body := .plc { p with directQ := newQuality p.directQ r.stripeMask.toNat r.snr r.meanSnr } } s

/-- The hop sender of a received frame: SRC, or the repeater before NEXT (R158). -/
def hopSender (r : PlcRx) : Nat :=
  match r.route with
  | some rt => if rt.next = 0 then r.srcAddr.toNat else ((rt.entries.getD (rt.next - 1) (0, 0)).1).toNat
  | none => r.srcAddr.toNat

/-- The hop receiver of a received frame (R138). -/
def hopReceiver (r : PlcRx) : Nat :=
  match r.route with
  | some rt => if rt.next < rt.entries.length then ((rt.entries.getD rt.next (0, 0)).1).toNat else r.dest.toNat
  | none => r.dest.toNat

/-- A candidate list after a neighbour's report (R159). `onlyNew`: an existing candidate stays as it is. -/
def reportCand (candMin : Nat) (peer : BitVec 12) (q : BitVec 32) (onlyNew : Bool) (cs : List Cand) : List Cand :=
  let mean := nibbleSum q / 8
  if cs.any (fun c => c.valid && c.link == peer) then
    if onlyNew then cs
    else cs.map fun c => if c.valid && c.link == peer then (if candMin ≤ mean then { c with q := q } else ⟨0, false, 0⟩) else c
  else if mean < candMin then cs
  else
    match cs.findIdx? (fun c => !c.valid) with
    | some k => cs.set k ⟨peer, true, q⟩
    | none =>
      let best := (List.range cs.length).foldl (fun (b : Nat × Nat) k =>
        let n := nibbleSum ((cs.getD k ⟨0, false, 0⟩).q)
        if n < b.2 then (k, n) else b) (0, nibbleSum ((cs.headD ⟨0, false, 0⟩).q))
      if best.2 < nibbleSum q then cs.set best.1 ⟨peer, true, q⟩ else cs

/-- CAND_MIN of PLC_LINK (R142). -/
def candMin (s : State) : Nat := cfg s 0x0102 0 9 1 3

/-- A report of `peer` about neighbour `n` (R159). -/
def reportNeighbour (src : Src) (peer n : BitVec 12) (q : BitVec 32) (onlyNew : Bool) (s : State) : State :=
  let pe := linkEntry s peer.toNat
  if (pe.plc?).isNone || !pe.peer.repeaterOk || peer == n then s
  else modPlc src n.toNat (fun p => { p with cand := reportCand (candMin s) peer q onlyNew p.cand }) s

/-- An uplink route adds each repeater as a candidate of the hop's sender (R159). -/
def routeCandidates (src : Src) (r : PlcRx) (s : State) : State :=
  match r.route with
  | none => s
  | some rt =>
    (rt.entries.foldl (fun (a : BitVec 12 × State) e =>
      (e.1, reportNeighbour src e.1 a.1 (nibbleAll e.2.toNat) true a.2)) (r.srcAddr, s)).2

/-- Cost of a hop on maps (R160). -/
def mapCost (q : Nat) : Option Nat :=
  if q = 0 then none else if q = 1 then some 192 else if q = 2 then some 128 else if q ≤ 4 then some 48
  else if q ≤ 8 then some 24 else some 12

/-- Cost of a robust hop (R160). -/
def robustCost (q : Nat) : Option Nat :=
  if q = 0 then none else if q = 1 then some 192 else if q = 2 then some 128 else some 96

/-- A path from the M20 (R160). -/
structure Path where
  cost  : Nat
  hops  : Nat
  route : List Nat
  deriving DecidableEq, Repr

/-- Lower cost, then fewer hops, then lower indices from the M20's side (R160). -/
def Path.better (a b : Path) : Bool :=
  decide (a.cost < b.cost) || (a.cost == b.cost && (decide (a.hops < b.hops) || (a.hops == b.hops && decide (a.route < b.route))))

/-- The cost of the first hop to a peer in a stripe, robust where the link or the attempt asks for it (R160). -/
def firstCost (p : PlcPart) (robust : Bool) (st : Nat) : Option Nat :=
  if robust || p.stepHold || p.unconfirmed || robustOnly p then robustCost (nibble p.directQ st)
  else mapCost (nibble p.directQ st)

/-- The best path to peer `x` for a start in stripe `st`, at most `h` hops (R160). -/
def bestPath (s : State) (robust : Bool) (st : Nat) : Nat → Nat → List Nat → Option Path
  | 0, _, _ => none
  | h + 1, x, seen =>
    let pen := cfg s 0x0102 0 8 1 16
    let e := linkEntry s x
    match e.plc? with
    | none => none
    | some p =>
      let first : Option Path :=
        if e.peer.direct then (firstCost p robust st).map fun c => ⟨c + pen, 1, []⟩ else none
      if h = 0 then first
      else
        p.cand.foldl (fun b c =>
          let r := linkEntry s c.link.toNat
          if !c.valid || !r.peer.repeaterOk || !r.peer.valid || seen.contains c.link.toNat then b
          else
            let m := nibbleSum c.q / 8
            if m < candMin s then b
            else
              match bestPath s robust st h c.link.toNat (seen ++ [x]), robustCost m with
              | some q, some rc =>
                let t : Path := ⟨q.cost + rc + pen, q.hops + 1, q.route ++ [c.link.toNat]⟩
                match b with
                | some bb => if t.better bb then some t else b
                | none => some t
              | _, _ => b) first

/-- The slot stripe and path of a frame: the stripe of the lowest cost that the plan lets it start in (R160). -/
def choosePath (s : State) (robust : Bool) (x hops : Nat) : Option (Nat × Path) :=
  (List.range 8).foldl (fun b st =>
    if !planOpen s.cov.sys.records st then b
    else match bestPath s robust st hops x [], b with
      | some p, some (_, q) => if p.cost < q.cost then some (st, p) else b
      | some p, none => some (st, p)
      | none, _ => b) none

/-- The slot stripe of a frame that keeps its path in robust mode (R156). -/
def keepPath (s : State) (first : Nat) : Option Nat :=
  match (linkEntry s first).plc? with
  | none => none
  | some p =>
    ((List.range 8).foldl (fun (b : Option (Nat × Nat)) st =>
      if !planOpen s.cov.sys.records st then b
      else match robustCost (nibble p.directQ st), b with
        | some c, some (_, d) => if c < d then some (st, c) else b
        | some c, none => some (st, c)
        | none, _ => b) none).map (·.1)

/-- The lowest stripe the plan opens, stripe 0 where it opens none. -/
def anyStripe (s : State) : Nat := ((List.range 8).find? (planOpen s.cov.sys.records)).getD 0

/-! ### The transmit queue (R152, R156) -/

/-- A frame fails (R156, R165). -/
def plcFail (src : Src) (link : Nat) (dsn : Byte) (cause : Nat) (s : State) : State :=
  { raise src 0x1013 [link, dsn.toNat, cause] s with plc.failed := s.plc.failed.inc }

/-- A frame enters the queue: class 0 ahead of class 1; a full queue fails it with cause 2 (R152). -/
def plcEnqueue (src : Src) (f : PlcTx) (s : State) : State :=
  let q := if f.ftype = 4 then s.plc.queue.filter fun g => !(g.ftype == 4 && g.peer == f.peer && !g.sending) else s.plc.queue
  if 256 ≤ q.length then plcFail src f.peer f.dsn 2 { s with plc.queue := q, plc.txqFull := s.plc.txqFull.inc }
  else
    let f := { f with queueId := s.plc.nextQid, queued := s.work.log.tick }
    let q := if f.cls = 0 then (q.filter (·.cls == 0)) ++ [f] ++ (q.filter (·.cls != 0)) else q ++ [f]
    { s with plc.queue := q, plc.nextQid := s.plc.nextQid + 1 }

/-- The next DSN of a peer, stored in its entry (R156). -/
def nextDsn (src : Src) (i : Nat) (s : State) : Byte × State :=
  match (linkEntry s i).plc? with
  | none => (0, s)
  | some p => (p.txDsn + 1, modPlc src i (fun p => { p with txDsn := p.txDsn + 1 }) s)

/-- A new frame to a peer by the best path (R152, R156, R160); without a path it fails with cause 1. -/
def plcSend (src : Src) (cls ftype i : Nat) (ackReq : Bool) (hops : Nat) (payload : Bytes) (s : State) : State :=
  let (dsn, s) := nextDsn src i s
  let robust := ftype == 4 || ftype == 5
  match choosePath s robust i hops with
  | none => plcFail src i dsn 1 s
  | some (st, p) =>
    let link := match p.route with | r :: _ => r | [] => i
    plcEnqueue src { queueId := 0, cls := cls, ftype := ftype, link := link, peer := i, dsn := dsn, attempt := 1,
                     robust := robust, retry := false, ackReq := ackReq, route := p.route, slot := st, queued := 0,
                     sending := false, payload := payload } s

/-- MAX_HOPS of PLC_LINK. -/
def maxHops (s : State) : Nat := cfg s 0x0102 0 7 1 4

/-- A datagram to a powerline peer: a DATA frame of class 1 (R139, R152). -/
def plcDatagram (src : Src) (i : Nat) (payload : Bytes) (s : State) : State :=
  if (linkEntry s i).peer.ieee1901 then plcSend src 1 0 i true 1 payload s
  else plcSend src 1 0 i true (maxHops s) payload s

/-- A sounding exchange with a direct peer begins, where none is in progress (R157). -/
def beginSounding (src : Src) (i : Nat) (s : State) : State :=
  let e := linkEntry s i
  if s.plc.sounding.isSome || (e.plc?).isNone || !e.peer.direct || e.peer.ieee1901 then s
  else plcSend src 0 5 i false 1 [] { s with plc.sounding := some (i, s.work.log.tick) }

/-- A MAP_UPDATE with the link's new set (R139). -/
def sendMapUpdate (src : Src) (i : Nat) (s : State) : State :=
  match (linkEntry s i).plc? with
  | none => s
  | some p => plcSend src 0 4 i true (maxHops s)
      ([p.mapSet, BitVec.ofNat 8 p.rate.toNat, 0, 0] ++ fit 208 (nibbleBytes p.map)) s

/-- A link's map changes: generation, confirmation, shadow, events, and the update to the peer (R108, R112, R131). -/
def changeMap (src : Src) (i : Nat) (m : List (BitVec 4)) (rate : Nat) (s : State) : State :=
  match (linkEntry s i).plc? with
  | none => s
  | some p =>
    if p.map = m ∧ p.rate.toNat = rate then s
    else
      let s := pushShadow i p s
      let s := modPlc src i (fun p => { p with map := m, rate := BitVec.ofNat 2 rate, mapSet := p.mapSet + 1, unconfirmed := true }) s
      let s := raise src 0x1002 [i, (p.mapSet + 1).toNat, rate, mapBits m] s
      let s := if mapBits m = 0 then raise src 0x1006 [i] s else s
      sendMapUpdate src i s

/-! ### Received native frames (R158) -/

/-- The record engine's work for a received frame: by the slot of its link, else the port's frame engine. -/
def plcSrc (r : PlcRx) (s : State) : Src :=
  match (linkEntry s r.srcAddr.toNat).plc? with
  | some _ => Src.slot (linkEntry s r.srcAddr.toNat).peer.slot.toNat r.org
  | none => Src.frame r.org

/-- What a descriptor does to the link of its hop sender: quality, confirmation and lowered loads (R107, R113, R134). -/
def plcDescribe (src : Src) (r : PlcRx) (s : State) : State :=
  let i := hopSender r
  let s := updateQuality src i r s
  match (linkEntry s i).plc? with
  | none => s
  | some p =>
    if !r.payloadOk || r.mode ≠ 0 then s
    else
      let s := if !r.robust && r.mapSet == p.mapSet && p.unconfirmed then modPlc src i (fun p => { p with unconfirmed := false }) s else s
      changeMap src i (lowerMap p.rate.toNat p.map (snrOfBlocks r.stripeMask.toNat r.snr)) p.rate.toNat s

/-- The rows of R158 ahead of acceptance: the slot of an accepted frame's sender. -/
def plcHandle (src : Src) (r : PlcRx) (s : State) : Option Nat × State :=
  let s := plcDescribe src r s
  if !r.payloadOk then (none, s)
  else if r.dest ≠ 0xFFE then (none, { s with plc.routeErrors := s.plc.routeErrors.inc })
  else
    let e := linkEntry s r.srcAddr.toNat
    if (e.plc?).isNone then (none, { s with plc.unknownSrc := s.plc.unknownSrc.inc })
    else
      let slot := e.peer.slot.toNat
      if (endpoint s slot).lastDsn = r.dsn ∧ r.retry then (none, { s with plc.duplicates := s.plc.duplicates.inc })
      else (some slot, routeCandidates src r (modEndpoint src slot (fun x => { x with lastDsn := r.dsn }) s))

/-- The EUI-64 of a slot through its identity way (R208, R213). -/
def euiOfSlot (s : State) (slot : Nat) : BitVec 64 :=
  ((tget s.cov.tables.ways (endpoint s slot).way.toNat).map (·.eui)).getD 0

/-- A native PPDU not addressed to the M20 is overheard (R158). -/
def execOverheardFrame (r : PlcRx) (s : State) : Answer :=
  whenProcessing s fun s =>
    if r.payloadOk && r.robust && hopReceiver r != 0xFFE then
      updateQuality (Src.frame r.org) (hopSender r) r { s with plc.overheard := s.plc.overheard.inc }
    else s

/-- An answer to a join (R139, R151): along the reverse of the request's route. (DEDUCED, log 38) -/
def joinAccept (src : Src) (r : PlcRx) (eui : BitVec 64) (status link : Nat) (s : State) : State :=
  let route := (r.route.map fun rt => (rt.entries.map (·.1.toNat)).reverse).getD []
  let (dsn, s) := if status = 0 then nextDsn src link s else (0, s)
  plcEnqueue src { queueId := 0, cls := 0, ftype := 3, link := 0xFFF, peer := if status = 0 then link else 0xFFF, dsn := dsn,
                   attempt := 1, robust := true, retry := false, ackReq := true, route := route, slot := anyStripe s,
                   queued := 0, sending := false,
                   payload := euiBytes eui ++ [BitVec.ofNat 8 status, 0] ++ le 2 link } s

/-- A refused join (R149). -/
def joinRefuse (src : Src) (r : PlcRx) (eui : BitVec 64) (status : Nat) (s : State) : State :=
  let s := { s with plc.joinRefused := s.plc.joinRefused.inc }
  let s := raise src 0x1011 [status, euiLow eui, eui.toNat / 2 ^ 32] s
  joinAccept src r eui status 0xFFF s

/-- JOIN_POLICY refuses an EUI-64: closed, or open only to STATIC endpoints (R142). -/
def joinBarred (s : State) (eui : BitVec 64) : Bool :=
  match cfg s 0x0102 0 3 1 0 with
  | 0 => false
  | 1 => !(match lookup s eui with | some slot => (endpoint s slot).static | none => false)
  | _ => true

/-- The link entry that a join makes (R149). -/
def joinLink (src : Src) (r : PlcRx) (caps : BitVec 8) (slot i : Nat) (s : State) : State :=
  putLink src i ⟨⟨BitVec.ofNat 20 slot, true, false, r.route.isNone, caps.getLsbD 0, false⟩, .plc PlcPart.initial⟩ s

/-- A join that has its link: counted, raised, its path noted, answered, and its peer sounded where it came unrouted
(R149, R151, R157). -/
def finishJoin (src : Src) (r : PlcRx) (eui : BitVec 64) (slot i : Nat) (reused : Bool) (s : State) : State :=
  let s := raise src 0x1010 [i, slot, bit reused] { s with plc.joins := s.plc.joins.inc }
  match r.route with
  | some rt =>
    joinAccept src r eui 0 i (match rt.entries.getLast? with
      | some l => reportNeighbour src l.1 (BitVec.ofNat 12 i) (nibbleAll l.2.toNat) true s
      | none => s)
  | none => beginSounding src i (joinAccept src r eui 0 i (updateQuality src i r s))

/-- A join of a slot (R149, R150). -/
def joinSlot (src : Src) (r : PlcRx) (eui : BitVec 64) (caps : BitVec 8) (slot : Nat) (s : State) : State :=
  match grantLink s slot false s.work.log.tick with
  | .reused i => finishJoin src r eui slot i true s
  | .fresh i => finishJoin src r eui slot i false (joinLink src r caps slot i s)
  | .reclaimed i old => finishJoin src r eui slot i false (joinLink src r caps slot i (reclaim src i old slot s))
  | .refused => joinRefuse src r eui 1 s

/-- A JOIN_REQUEST (R149 to R151, R157). -/
def execJoinRequest (r : PlcRx) (eui : BitVec 64) (cls : BitVec 8) (caps : BitVec 8) (s : State) : Answer :=
  whenProcessing s fun s =>
    if !r.payloadOk || r.dest != 0xFFE then s
    else
      let src := Src.onInput (euiEngine s eui) r.org
      if joinBarred s eui then joinRefuse src r eui 2 s
      else
        match learn src eui r.org.port s.work.log.tick (some cls) s with
        | (none, s) => s
        | (some slot, s) => joinSlot src r eui caps slot (modEndpoint src slot (fun x => { x with lastDsn := r.dsn }) s)

/-- A NEIGHBOUR_REPORT (R158, R159). -/
def execNeighbourReport (r : PlcRx) (u : List NeighbourEntry) (s : State) : Answer :=
  whenProcessing s fun s =>
    let src := plcSrc r s
    match plcHandle src r s with
    | (none, s) => s
    | (some slot, s) =>
      let s := (learn src (euiOfSlot s slot) r.org.port s.work.log.tick none s).2
      u.foldl (fun s n => reportNeighbour src r.srcAddr n.neighbour n.quality false s) s

/-- The exchange with a link ends with its response (R157). -/
def endSounding (i : Nat) (s : State) : State :=
  { s with plc.sounding := match s.plc.sounding with | some (l, t) => if l = i then none else some (l, t) | none => none,
           plc.lastMap := tput s.plc.lastMap i s.work.log.tick.toNat,
           plc.lastFail := tdel s.plc.lastFail i }

/-- A SOUNDING_RESPONSE with the peer's downlink report (R112, R118, R157). -/
def execSoundingResponse (r : PlcRx) (downlink : List Byte) (s : State) : Answer :=
  whenProcessing s fun s =>
    let src := plcSrc r s
    match plcHandle src r s with
    | (none, s) => s
    | (some slot, s) =>
      let i := r.srcAddr.toNat
      let s := (learn src (euiOfSlot s slot) r.org.port s.work.log.tick none s).2
      let s := endSounding i s
      match (linkEntry s i).plc? with
      | none => s
      | some p =>
        let (m, rate) := computeMap p.map (snrOfBlocks r.stripeMask.toNat r.snr) downlink
        let native (q : Nat) : Bool := testBit (modesOf s.cov.sys.records s.sys.region q) 0
        let s := modPlc src i (fun p =>
          { p with stepHold := false, weight := computeWeights native r.phaseGain, home := BitVec.ofNat 2 (strongestPhase r.phaseGain) }) s
        changeMap src i m rate s

/-- A LEAVE from a peer clears VALID (R151). -/
def execLeave (r : PlcRx) (s : State) : Answer :=
  whenProcessing s fun s =>
    let src := plcSrc r s
    match plcHandle src r s with
    | (none, s) => s
    | (some _, s) =>
      let e := linkEntry s r.srcAddr.toNat
      putLink src r.srcAddr.toNat { e with peer := { e.peer with valid := false } } s

/-! ### Attempts (R153 to R156) -/

/-- A failed attempt: the first hop's quality falls, then a retry, or the frame fails (R156). -/
def plcAttemptFailed (src : Src) (f : PlcTx) (onMaps : Bool) (stripe : Nat) (s : State) : State :=
  let first := match f.route with | r :: _ => r | [] => f.peer
  let s := modPlc src first (fun p => { p with directQ := setNibble p.directQ stripe (nibble p.directQ stripe - 2) }) s
  if f.attempt < cfg s 0x0102 0 6 1 4 then
    let next := { f with attempt := f.attempt + 1, retry := true, robust := true, sending := false }
    if f.link = 0xFFF then plcEnqueue src next s
    else if onMaps then
      match keepPath s first with
      | some st => plcEnqueue src { next with slot := st } s
      | none => plcFail src f.peer f.dsn 1 s
    else
      match choosePath s true f.peer (maxHops s) with
      | some (st, p) =>
        plcEnqueue src { next with slot := st, route := p.route, link := match p.route with | r :: _ => r | [] => f.peer } s
      | none => plcFail src f.peer f.dsn 1 s
  else
    plcFail src f.peer f.dsn 0 (modPlc src f.peer (fun p => { p with fails := BitVec.ofNat 8 (sat 8 (p.fails.toNat + 1)) }) s)

/-- A transmit report in the log is matched to its frame (R153, R154, R157). (DEDUCED, log 38) -/
def execPlcTransmitReport (t : PlcTxReport) (s : State) : Answer :=
  whenProcessing s fun s =>
    let src := Src.frame t.org
    match s.plc.waiting.find? (fun w => w.2.queueId == t.queueId && !t.launched) with
    | none => s
    | some w =>
      let f := w.2
      let fin (s : State) : State := { s with plc.waiting := s.plc.waiting.erase w, plc.attempts := s.plc.attempts.inc }
      let good (s : State) : State :=
        let s := { s with plc.delivered := s.plc.delivered.inc }
        let s := if f.ftype = 5 then { s with plc.sounding := some (f.peer, s.work.log.tick) } else s
        modPlc src f.peer (fun p => { p with fails := 0 }) s
      if t.withdrawn then plcAttemptFailed src f (!t.robust) t.stripe.toNat (fin s)
      else if !t.ackReq || t.acked then good (fin s)
      else if t.tick.toNat < s.work.log.tick.toNat then plcAttemptFailed src f (!t.robust) t.stripe.toNat (fin s)
      else s

/-- A frame not started within QUEUE_AGE ticks is withdrawn, which counts as a failed attempt (R155, R156).
(DEDUCED, log 38) -/
def execPlcQueueAgeWithdraw (org : Org) (queueId : BitVec 16) (s : State) : Answer :=
  whenProcessing s fun s =>
    match s.plc.queue.find? (fun f => f.queueId == queueId && !f.sending) with
    | none => s
    | some f =>
      if f.queued.toNat + cfg s 0x0102 0 0xC 2 256 < s.work.log.tick.toNat then
        plcAttemptFailed (Src.frame org) f (!f.robust) f.slot { s with plc.queue := s.plc.queue.erase f }
      else s

/-- No sounding response within 64 ticks of the request's report (R157). -/
def execSoundingTimeout (org : Org) (s : State) : Answer :=
  whenProcessing s fun s =>
    match s.plc.sounding with
    | some (l, t) =>
      if t.toNat + 64 < s.work.log.tick.toNat then
        raise (Src.frame org) 0x1014 [l]
          { s with plc.sounding := none, plc.lastFail := tput s.plc.lastFail l s.work.log.tick.toNat }
      else s
    | none => s

/-- A direct peer is due a sounding: no map computed within 16,384 ticks, or STEP_HOLD with no failed exchange within 256
ticks (R157). -/
def soundingIsDue (s : State) (i : Nat) : Bool :=
  let now := s.work.log.tick.toNat
  match (linkEntry s i).plc? with
  | none => false
  | some p =>
    (match tget s.plc.lastMap i with | some t => decide (t + 16384 ≤ now) | none => true) && (tget s.plc.lastFail i).isNone
      || p.stepHold && (match tget s.plc.lastFail i with | some t => decide (t + 256 ≤ now) | none => true)

/-- A direct peer is sounded when it falls due (R157). -/
def execSoundingDue (org : Org) (link : BitVec 12) (s : State) : Answer :=
  whenProcessing s fun s =>
    if soundingIsDue s link.toNat then beginSounding (Src.frame org) link.toNat s else s

/-- An IEEE 1901.2 reassembly not complete within 60 s of nominal ticks is dropped (R163). -/
def execPlcFragTimeout (org : Org) (eui : BitVec 64) (s : State) : Answer :=
  whenProcessing s fun s =>
    match s.plc.frags.find? (fun f => f.1 == eui && decide (f.2.2.toNat + 60 * ticksPerS s ≤ s.work.log.tick.toNat)) with
    | none => s
    | some f =>
      raise (Src.frame org) 0x1015 [euiLow eui, eui.toNat / 2 ^ 32]
        { s with plc.frags := s.plc.frags.erase f, plc.fragTimeouts := s.plc.fragTimeouts.inc }

/-! ### Launches and beacons (R147, R148) -/

/-- A launch is added: a 65th is refused, and an anchor earlier than tick T+2 is late (R147). -/
def plcAddLaunch (anchor : Anchor) (ftype link : Nat) (dsn : Byte) (ackReq : Bool) (payload : Bytes) (s : State) : State :=
  if 64 ≤ s.plc.launches.length then { s with plc.launchFull := s.plc.launchFull.inc }
  else
    { s with plc.launches := s.plc.launches ++ [⟨anchor, ftype, link, dsn, s.plc.nextQid, ackReq, payload⟩],
             plc.nextQid := s.plc.nextQid + 1 }

/-- The beacon payload for tick `b` (R141). (DEDUCED, log 38) -/
def beaconPayload (s : State) (b : Nat) : Bytes :=
  let recs := s.cov.sys.records
  le 6 b ++ le 4 s.pll.stripeNs ++ [BitVec.ofNat 8 (cfgOf recs 0x0102 0 2 1 0)]
    ++ [((match s.pll.lock with | .freeRun => 0 | .acquiring => 1 | .locked => 2) : Byte)]
    ++ le 2 (cfgOf recs 0x0102 0 4 2 0) ++ [0, BitVec.ofNat 8 (bit (cfgOf recs 0x0102 0 3 1 0 != 2))]
    ++ le 2 (cfgOf recs 0x0102 0 0xA 2 60) ++ zeros 2 ++ euiBytes (ownEui s)

/-- In the processing of log B-2, a beacon is queued for tick B (R148). -/
def execBeaconQueue (org : Org) (s : State) : Answer :=
  whenProcessing s fun s =>
    let b := s.work.log.tick.toNat + 2
    let period := cfg s 0x0102 0 0 2 256
    if period = 0 || b % period ≠ 0 || s.work.handled.contains (0x1000, b) then s
    else
      let st := cfg s 0x0102 0 2 1 0
      let _ := org
      plcAddLaunch (.stripe (BitVec.ofNat 48 b) st) 1 0xFFF 0 false (beaconPayload s b)
        { s with work.handled := (0x1000, b) :: s.work.handled }

end Sys2Proof.Machine
end

