-- ==== Sys2Proof/Machine/RadioPhy.lean ====
section
/-!
DEFINITION. The radio: channels, contexts, acknowledgements, chains, the dwell ledger and reports (chapter 5, R166 to
R194, R199).
-/
namespace Sys2Proof.Machine

open Sys2Proof

/-! ### Channels and modes (R166 to R172) -/

/-- The centre of a channel in kHz (R167). -/
def chanKhz (b900 : Bool) (c : Chan) : Nat :=
  match b900, c.wide with
  | false, false => if c.num ≤ 33 then 863125 + 200 * c.num else 870200 + 200 * (c.num - 34)
  | false, true => if c.num ≤ 16 then 863225 + 400 * c.num else 870400 + 400 * (c.num - 17)
  | true, false => 902200 + 200 * c.num
  | true, true => 902400 + 400 * c.num

/-- Half the spacing of a channel in kHz. -/
def halfKhz (c : Chan) : Nat := if c.wide then 200 else 100

/-- The highest channel number of a plan (R167). -/
def lastChan (b900 wide : Bool) : Nat :=
  match b900, wide with
  | false, false => 62 | false, true => 30 | true, false => 128 | true, true => 63

/-- The tuned centre F_LO in kHz (R166). -/
def fLo (b900 : Bool) : Nat := if b900 then 915000 else 869500

/-- The bin of a 200 kHz channel, or the lower bin of a 400 kHz channel (R170). -/
def binOf (b900 : Bool) (c : Chan) : Int :=
  let d : Int := (chanKhz b900 c : Int) - fLo b900
  96 + (if c.wide then d else d + 100).fdiv 200

/-- The residual that the context removes, in kHz (R170). -/
def residual (b900 : Bool) (c : Chan) : Int :=
  (chanKhz b900 c : Int) - (fLo b900 + (binOf b900 c - 96) * 200 + if c.wide then 100 else 0)

/-- The code of a channel in descriptors and entries (R186). -/
def chanCode (c : Chan) : Nat := c.num + 32768 * bit c.wide

/-- The channel of a code. -/
def chanOf (v : Nat) : Chan := ⟨testBit v 15, v % 32768⟩

/-- Data rate of a mode in bit/s (R171). -/
def modeRate (m : Nat) : Nat := [50000, 100000, 100000, 100000, 150000, 150000, 200000].getD m 50000

/-- Symbol rate of a mode in symbols/s (R171). -/
def modeSymbols (m : Nat) : Nat := [50000, 100000, 50000, 100000, 150000, 75000, 100000].getD m 50000

/-- A mode has 400 kHz spacing (R171). -/
def modeWide (m : Nat) : Bool := decide (3 ≤ m)

/-- Modes enabled. -/
def radioModes (recs : Tab Bytes) : Nat := cfgOf recs 0x0201 0 1 1 1 % 128

/-- The channels in use, the 200 kHz plan first (R168). -/
def channelsInUse (recs : Tab Bytes) (b900 : Bool) : List Chan :=
  let m := radioModes recs
  let first := cfgOf recs 0x0201 0 4 2 0
  let count := cfgOf recs 0x0201 0 6 2 (if b900 then 129 else 34)
  let narrow := (List.range count).map fun i => (⟨false, first + i⟩ : Chan)
  let lo := chanKhz b900 ⟨false, first⟩ - 100
  let hi := chanKhz b900 ⟨false, first + count - 1⟩ + 100
  let wide := ((List.range (lastChan b900 true + 1)).map fun i => (⟨true, i⟩ : Chan)).filter fun c =>
    decide (0 < count) && decide (lo ≤ chanKhz b900 c - 200) && decide (chanKhz b900 c + 200 ≤ hi)
  (if m % 8 = 0 then [] else narrow) ++ (if m / 8 = 0 then [] else wide)

/-- The profile in force: 1 US hopping, 2 EU duty cycle (R189). -/
def profileOf (recs : Tab Bytes) (b900 : Bool) : Nat :=
  match cfgOf recs 0x0201 0 0 1 0 with
  | 1 => 1
  | 2 => 2
  | _ => if b900 then 1 else 2

/-- The sub-bands of the EU profile: edges in kHz and limit in µs (R190). -/
def subBands : List (Nat × Nat × Nat) :=
  [(863000, 865000, 3600000), (865000, 868000, 36000000), (868000, 868600, 36000000), (868700, 869200, 3600000),
   (869400, 869650, 360000000), (869700, 870000, 36000000), (870000, 876000, 36000000)]

/-- The sub-band row a channel lies wholly inside (R190). -/
def subBandOf (b900 : Bool) (c : Chan) : Option Nat :=
  let f := chanKhz b900 c
  (List.range 7).find? fun i =>
    match subBands[i]? with
    | some (lo, hi, _) => decide (lo ≤ f - halfKhz c) && decide (f + halfKhz c ≤ hi)
    | none => false

/-- The row of the ledger that a channel charges, or none where it is receive-only (R189, R190). (DEDUCED, log 43) -/
def ledgerRow (profile : Nat) (b900 : Bool) (c : Chan) : Option Nat :=
  if profile = 1 then some (chanCode c) else subBandOf b900 c

/-- The limit of a ledger row in µs (R189, R190). -/
def ledgerLimit (profile row : Nat) : Nat :=
  if profile = 1 then 400000 else ((subBands[row]?).map (·.2.2)).getD 0

/-- Transmit-capable channels in use (R190, R191). -/
def txChannels (recs : Tab Bytes) (b900 : Bool) : Nat :=
  ((channelsInUse recs b900).filter fun c => (ledgerRow (profileOf recs b900) b900 c).isSome).length

/-- The radio may transmit: on, and under the US profile with 50 transmit-capable channels or more (R191). -/
def mayTransmit (recs : Tab Bytes) (region : BitVec 2) : Bool :=
  let b := strapBand region == 2
  radioOnOf recs region && (profileOf recs b != 1 || decide (50 ≤ txChannels recs b))

/-- The hardware may transmit in the tick in progress. -/
def hwMayTransmit (s : State) : Bool := capturing s && mayTransmit s.hw.records s.sys.region

/-! ### Airtime (R172) -/

/-- Octets ahead of the PSDU: preamble, SFD and PHR (R172). (PRESUMED, log 41) -/
def phyOctets : Nat := 12

/-- Airtime in µs of a PSDU of `n` octets, FCS included. (PRESUMED, log 41) -/
def airtimeUs (mode n : Nat) : Nat := ceilDiv ((phyOctets + n) * 8 * 1000000) (modeRate mode)

/-- The end of a frame in ns of PTP time, from the end of its SFD: the PHR, `n` PSDU octets and a 4-octet FCS.
(PRESUMED, log 41) -/
def frameEndNs (mode n : Nat) (sfd : Stamp) : Nat := stampNs sfd + (2 + n + 4) * 8 * 1000000000 / modeRate mode

/-- PSDU octets of an acknowledgement, FCS included: an Imm-Ack, an Enh-Ack, an Enh-Ack with its Time Correction IE.
(PRESUMED, log 41) -/
def ackOctets (enh sleeper : Bool) : Nat := if !enh then 7 else if sleeper then 21 else 17

/-! ### The dwell ledger (R189 to R194) -/

/-- The length of a bucket in µs. -/
def bucketUs (profile : Nat) : Nat := if profile = 1 then 100000 else 10000000

/-- Buckets in the window. -/
def windowBuckets (profile : Nat) : Nat := if profile = 1 then 201 else 361

/-- A charge of `us` µs that starts at `startNs`, split across the buckets in proportion (R193). -/
def splitCharge (profile row startNs us : Nat) : List Charge :=
  let b := bucketUs profile
  let a := startNs / 1000
  let z := a + us
  if us = 0 then []
  else (List.range ((z - 1) / b - a / b + 1)).map fun i =>
    let k := a / b + i
    ⟨row, k, min z ((k + 1) * b) - max a (k * b)⟩

/-- Charges added to a ledger; entries of one row and bucket are one. -/
def addCharges (l : List Charge) : List Charge → List Charge
  | [] => l
  | c :: cs =>
    match l.find? (fun x => x.index == c.index && x.bucket == c.bucket) with
    | some x => addCharges ((l.erase x) ++ [{ x with us := x.us + c.us }]) cs
    | none => addCharges (l ++ [c]) cs

/-- The window's charge of a row at an instant (R189). -/
def windowCharge (profile row nowNs : Nat) (l : List Charge) : Nat :=
  let k := nowNs / 1000 / bucketUs profile
  (l.filter fun c => c.index == row && decide (c.bucket ≤ k) && decide (k < c.bucket + windowBuckets profile)).foldl
    (fun a c => a + c.us) 0

/-- The charges the hardware admits against: the ledger as of seal X−2 and its own (R193). -/
def hwCharges (s : State) : List Charge := s.radio.ledgerHw ++ s.radio.ownPrev ++ s.radio.ownCur

/-- The hardware's profile. -/
def hwProfile (s : State) : Nat := profileOf s.hw.records (band900 s)

/-- The ledger admits an airtime on a channel: at most the limit for an acknowledgement, 95 % of it otherwise (R189). -/
def ledgerAdmits (s : State) (ack : Bool) (c : Chan) (us nowNs : Nat) : Bool :=
  match ledgerRow (hwProfile s) (band900 s) c with
  | none => false
  | some row =>
    let lim := ledgerLimit (hwProfile s) row
    let total := windowCharge (hwProfile s) row nowNs (hwCharges s) + us
    if ack then decide (total ≤ lim) else decide (100 * total ≤ 95 * lim)

/-- What the ledger leaves an ordinary transmission on a row, in µs. -/
def allowanceLeft (s : State) (row nowNs : Nat) : Nat :=
  ledgerLimit (hwProfile s) row * 95 / 100 - windowCharge (hwProfile s) row nowNs (hwCharges s)

/-- The hardware's own charge of a transmission. (DEDUCED, log 14) (DEDUCED, log 43) -/
def hwCharge (c : Chan) (startNs us : Nat) (s : State) : State :=
  match ledgerRow (hwProfile s) (band900 s) c with
  | none => s
  | some row => { s with radio.ownCur := addCharges s.radio.ownCur (splitCharge (hwProfile s) row startNs us) }

/-- A hold by the ledger: counted, and RADIO_LEDGER_HOLD raised with the tick's log (R189, R205). -/
def ledgerHold (c : Chan) (us nowNs : Nat) (s : State) : State :=
  let row := (ledgerRow (hwProfile s) (band900 s) c).getD (chanCode c)
  { s with radio.ledgerHolds := s.radio.ledgerHolds.inc,
           cap.log.events := s.cap.log.events ++
             [(0x2006, [BitVec.ofNat 32 row, BitVec.ofNat 32 us, BitVec.ofNat 32 (allowanceLeft s row nowNs)])] }

/-- Charges no window still covers fall out of a ledger. -/
def pruneLedger (profile nowNs : Nat) (l : List Charge) : List Charge :=
  l.filter fun c => decide (nowNs / 1000 / bucketUs profile < c.bucket + windowBuckets profile)

/-- The charges of an interval the unit cannot account for: every transmit-capable channel in full, every sub-band twice,
each capped at its limit (R194). They fall in the bucket of the interval's end. (DEDUCED, log 43) -/
def gapCharges (recs : Tab Bytes) (b900 : Bool) (us endNs : Nat) : List Charge :=
  let p := profileOf recs b900
  let k := endNs / 1000 / bucketUs p
  if p = 1 then (channelsInUse recs b900).map fun c => ⟨chanCode c, k, min us 400000⟩
  else (List.range 7).map fun i => ⟨i, k, min (2 * us) (ledgerLimit 2 i)⟩

/-! ### Chains (R177, R178) -/

/-- Two centres are less than 1.0 MHz apart. -/
def tooClose (b900 : Bool) (a b : Chan) : Bool :=
  let (x, y) := (chanKhz b900 a, chanKhz b900 b)
  decide (x < y + 1000) && decide (y < x + 1000)

/-- The transmission of a chain. -/
def chainTx (s : State) (one : Bool) : Option ChainTx := if one then s.radio.chain1 else s.radio.chain0

/-- A transmission on a channel would violate the spacing (R178). -/
def spacingBad (s : State) (c : Chan) : Bool :=
  [s.radio.chain0, s.radio.chain1].any fun t => t.any fun t => tooClose (band900 s) t.chan c

/-- The chain a transmission takes, by preference; none where neither is idle (R178). -/
def takeChain (s : State) (pref : Nat) : Option Bool :=
  let first := pref == 2
  if (chainTx s first).isNone then some first else if (chainTx s !first).isNone then some !first else none

/-- Contexts that a transmission on `c` leaves without a port are released: port A is switched away, port B's bins within
1 MHz are muted (R177). -/
def preemptContexts (c : Chan) (s : State) : State :=
  let b := band900 s
  s.radio.ctx.zipIdx.foldl (fun s x =>
    match x.1 with
    | none => s
    | some k =>
      let keepB := k.portB && !(decide (chanKhz b k.chan ≤ chanKhz b c + 1000) && decide (chanKhz b c ≤ chanKhz b k.chan + 1000))
      if keepB then { s with radio.ctx := s.radio.ctx.set x.2 (some { k with portA := false }) }
      else { s with radio.ctx := s.radio.ctx.set x.2 none, radio.rxPreempted := s.radio.rxPreempted.inc,
                    radio.tick.rxPreempted := s.radio.tick.rxPreempted + 1 }) s

/-! ### Contexts (R173 to R175) -/

/-- Contexts in use. -/
def busyContexts (s : State) : Nat := (s.radio.ctx.filter Option.isSome).length

/-- The count of busy contexts is sampled. -/
def sampleContexts (s : State) : State :=
  { s with radio.ctxMax := s.radio.ctxMax.sample (busyContexts s),
           radio.tick.ctxMax := max s.radio.tick.ctxMax (busyContexts s) }

/-- Armed windows open and close up to an instant: each that opens takes an armed context that no window and no frame
holds, or counts in ARM_OVERLAP (R175). (DEDUCED, log 42) -/
def armUntil (nowNs : Nat) (s : State) : State :=
  let opening := sortBy (fun a b => decide (a.openNs ≤ b.openNs)) (s.radio.armsHw.filter fun w => decide (w.openNs ≤ nowNs))
  let s := { s with radio.armsHw := s.radio.armsHw.filter fun w => !decide (w.openNs ≤ nowNs) }
  let free (t : Nat) (h : List (Option ArmWindow)) : List (Option ArmWindow) :=
    h.map fun x => if x.any (fun w => decide (w.closeNs < t)) then none else x
  let s := opening.foldl (fun s w =>
    let h := free w.openNs s.radio.held
    match (List.range 7).find? (fun i => (h.getD i none).isNone && (s.radio.ctx.getD i none).isNone) with
    | some i => { s with radio.held := h.set i (some w) }
    | none => { s with radio.held := h, radio.armOverlap := s.radio.armOverlap.inc,
                       radio.tick.armOverlap := s.radio.tick.armOverlap + 1 }) s
  { s with radio.held := free nowNs s.radio.held }

/-- A channel lies in the channel set of a sleeper in search (R174, R201). -/
def inSearchSet (s : State) (c : Chan) : Bool :=
  s.hw.links.any fun l =>
    match l.2.radio? with
    | some r => r.search && !r.lost && c.wide == modeWide r.schedMode.toNat && decide (r.setFirst.toNat ≤ c.num)
        && decide (c.num < r.setFirst.toNat + r.setCount.toNat)
    | none => false

/-- The context a detection takes (R174). -/
def allotContext (s : State) (c : Chan) (atNs : Nat) : Option (Nat × Option Nat × Bool) :=
  let idle (i : Nat) : Bool := (s.radio.ctx.getD i none).isNone
  let heldAt (i : Nat) : Option ArmWindow := s.radio.held.getD i none
  match (List.range 7).find? (fun i => idle i && (heldAt i).any fun w =>
      w.chan == c && decide (w.openNs ≤ atNs) && decide (atNs ≤ w.closeNs)) with
  | some i => some (i, (heldAt i).map (·.link), false)
  | none =>
    match ((List.range 24).map (· + 8)).find? idle with
    | some i => some (i, none, false)
    | none =>
      if idle 7 && inSearchSet s c then some (7, none, true)
      else ((List.range 7).find? fun i => idle i && (heldAt i).isNone).map fun i => (i, none, false)

/-- A detection within 32 symbols of one on the same channel and mode at the other port belongs to its context (R173). -/
def sameFrame (chan : Chan) (mode : Nat) (portB : Bool) (nowNs : Nat) (k : RadioCtx) : Bool :=
  k.chan == chan && k.mode == mode && !(if portB then k.portB else k.portA)
    && decide (nowNs ≤ k.atNs + 32 * 1000000000 / modeSymbols mode)

/-- A detection takes the context that is its due (R174). -/
def takeContext (chan : Chan) (mode : Nat) (portB : Bool) (nowNs : Nat) (s : State) : State :=
  match allotContext s chan nowNs with
  | some (i, armed, search) =>
    sampleContexts { s with radio.ctx := s.radio.ctx.set i (some ⟨chan, mode, !portB, portB, nowNs, armed, search⟩) }
  | none =>
    { s with radio.ctxExhausted := s.radio.ctxExhausted.inc, radio.tick.ctxExhausted := s.radio.tick.ctxExhausted + 1 }

/-- A detection that is heard is counted, and joins its frame's context or takes one (R173, R174, R188). -/
def detect (chan : Chan) (mode : Nat) (portB : Bool) (nowNs : Nat) (s : State) : State :=
  let s := armUntil nowNs s
  let s := { s with radio.tick.detections := s.radio.tick.detections + 1 }
  match (List.range 32).find? (fun i => (s.radio.ctx.getD i none).any (sameFrame chan mode portB nowNs)) with
  | some i =>
    { s with radio.ctx := s.radio.ctx.modify i fun k => k.map fun k =>
        if portB then { k with portB := true } else { k with portA := true } }
  | none => takeContext chan mode portB nowNs s

/-- A preamble detection on a channel, mode and port (R173, R174, R177). -/
def execRadioDetection (chan : Chan) (mode : Nat) (portB : Bool) (at_ : Stamp) (s : State) : Answer :=
  whenRunning s fun s =>
    let recs := s.hw.records
    let b := band900 s
    let sending := s.radio.chain0.isSome || s.radio.chain1.isSome
    let muted := [s.radio.chain0, s.radio.chain1].any fun t => t.any fun t =>
      decide (chanKhz b t.chan ≤ chanKhz b chan + 1000) && decide (chanKhz b chan ≤ chanKhz b t.chan + 1000)
    let heard := if portB then cfgOf recs 0x0201 0 3 1 1 == 1 && !muted else !sending
    if !radioOnOf recs s.sys.region || !testBit (radioModes recs) mode || chan.wide != modeWide mode
        || !(channelsInUse recs b).contains chan || !heard then s
    else detect chan mode portB (stampNs at_) s

/-- A context that finds no SFD or loses its timing is released (R175). -/
def execRadioSyncLost (ctx : Nat) (s : State) : Answer :=
  whenRunning s fun s =>
    if (s.radio.ctx.getD ctx none).isNone then s
    else { s with radio.ctx := s.radio.ctx.set ctx none, radio.syncLost := s.radio.syncLost.inc,
                  radio.tick.syncLost := s.radio.tick.syncLost + 1 }

/-! ### Duplicate filter, schedules and acknowledgement (R181 to R185, R200) -/

/-- Classes of the duplicate filter (R181). -/
inductive DupClass where
  | new | retransmission | replay
  deriving DecidableEq, Repr

/-- The class of a frame from a known neighbour (R181). -/
def dupClass (flt : DupFilter) (fc : Option (BitVec 32)) (dsn : Byte) (nowNs : Nat) : DupClass :=
  match fc with
  | some c =>
    if flt.fc < c then .new else if c = flt.fc ∧ dsn = flt.dsn then .retransmission else .replay
  | none => if dsn = flt.dsn ∧ nowNs ≤ flt.atNs + 256000000 then .retransmission else .new

/-- The wake index of an arrival and its offset in µs, for a sleeper with a schedule (R200): the anchor's 32-bit seconds
are read nearest to the arrival. -/
def wakeOf (r : RadioPart) (at_ : Stamp) : Option (Nat × Int) :=
  if r.periodMs = 0 ∨ r.sleeper = false then none
  else
    let ds : Int := ((at_.sec.truncate 32) - r.anchorS).toInt
    let d : Int := ds * 1000000000 + (at_.ns.toNat : Int) - r.anchorNs.toNat
    let p : Int := r.periodMs.toNat * 1000000
    let k := ((2 * d + p).fdiv (2 * p)).toNat
    some (k, (d - k * p).fdiv 1000)

/-- The link entry of a radio neighbour in the hardware. -/
def radioLinkHw (s : State) (eui : BitVec 64) : Option (Nat × RadioPart) :=
  s.hw.links.findSome? fun l => (l.2.radio?).bind fun r => if r.eui = eui then some (l.1, r) else none

/-- The PAN identifier: PAN_ID of PLC_LINK, or the low 16 bits of the EUI-64 at 0xFFFF (R142). -/
def panId (s : State) : Nat :=
  match cfgOf s.hw.records 0x0102 0 0xE 2 0xFFFF with
  | 0xFFFF => (ownEui s).toNat % 65536
  | v => v

/-- Bytes of the radio receive descriptor (R186). -/
def radioDescriptor (flags : Nat) (k : RadioCtx) (ctx : Nat) (f : RadioIn) (link ackUs : Nat) (o : Int) (n : Nat) : Bytes :=
  [1, BitVec.ofNat 8 flags] ++ le 2 (chanCode k.chan)
    ++ [BitVec.ofNat 8 k.mode, BitVec.ofNat 8 (ctx + 32 * bit k.armed.isSome + 64 * bit k.search), f.rssiA, f.rssiB]
    ++ le 4 f.sfdEnd.sec.toNat ++ le 4 f.sfdEnd.ns.toNat ++ le 2 f.freqOffset.toNat ++ le 2 link ++ le 2 ackUs ++ le 2 n
    ++ le 4 (int32 o)

/-- What the hardware makes of a frame with a good FCS (R181 to R184, R200). -/
structure RadioVerdict where
  known   : Option (Nat × RadioPart)   -- its sender's link entry
  cls     : DupClass
  offset  : Int                        -- offset from its wake, in µs
  sleeper : Bool
  box     : Option Mailbox             -- its sender's mailbox
  pending : Bool                       -- Frame Pending of an acknowledgement
  ackUs   : Nat
  endNs   : Nat
  room    : Bool                       -- the log or its queue takes the input
  asked   : Bool                       -- the frame asks for an acknowledgement that it is due
  sent    : Bool                       -- the acknowledgement leaves
  deriving DecidableEq, Repr

/-- The verdict on a frame in context `k` (R181 to R184, R200). -/
def radioVerdict (f : RadioIn) (k : RadioCtx) (s : State) : RadioVerdict :=
  let n := f.psdu.length
  let endNs := frameEndNs k.mode n f.sfdEnd
  let known := radioLinkHw s f.eui
  let flt := known.bind fun l => s.radio.filters.find? (·.link == l.1)
  let cls : DupClass := match flt with | some x => dupClass x f.fc f.dsn endNs | none => .new
  let wake := known.bind fun l => wakeOf l.2 f.sfdEnd
  let o : Int := match wake with | some w => w.2 | none => 0
  let sleeper := match known with | some l => l.2.sleeper | none => false
  let box := known.bind fun l => s.radio.mailboxes.find? (·.link == l.1)
  let satd := wake.isSome && (decide (2047 < o) || decide (o < -2047))
  let base : LogEntry := ⟨4, 1, s.time.ns, radioDescriptor 0 k f.ctx f 0 0 0 n ++ f.psdu, none⟩
  let room := s.cap.log.takes base || queueRoom s base
  let asked := (f.kind == .data || f.kind == .command) && f.ackReq && f.dest == some (ownEui s)
    && f.pan.toNat == panId s && cls != .replay && room && mayTransmit s.hw.records s.sys.region
  let ackUs := airtimeUs k.mode (ackOctets f.version2 sleeper)
  let able := (takeChain s 0).isSome && !spacingBad s k.chan && ledgerAdmits s true k.chan ackUs (endNs + 1000000)
  { known, cls, offset := o, sleeper, box, pending := f.version2 && sleeper && (box.isSome || satd), ackUs, endNs, room, asked,
    sent := asked && able }

/-- FLAGS of the receive descriptor (R186). -/
def radioFlags (f : RadioIn) (v : RadioVerdict) : Nat :=
  bit v.sent + 2 * bit (v.sent && f.version2) + 4 * bit (v.sent && v.pending) + 8 * bit (v.cls == .retransmission)
    + 16 * bit (v.cls == .replay) + 32 * bit v.known.isNone + 64 * bit (v.sent && v.pending && v.box.isSome)

/-- The input that a frame makes (R186). -/
def radioInput (f : RadioIn) (k : RadioCtx) (v : RadioVerdict) (s : State) : LogEntry :=
  let link := match v.known with | some l => l.1 | none => 0xFFF
  ⟨4, 1, s.time.ns,
    radioDescriptor (radioFlags f v) k f.ctx f link (if v.sent then v.ackUs else 0) v.offset f.psdu.length ++ f.psdu, none⟩

/-- The counters of a frame with a good FCS (R188, R204). -/
def countRadio (v : RadioVerdict) (s : State) : State :=
  let s := if v.asked && !v.sent then
      { s with radio.ackWithheld := s.radio.ackWithheld.inc, radio.tick.ackWithheld := s.radio.tick.ackWithheld + 1 }
    else s
  let s := if v.cls = .replay then { s with radio.hwReplay := s.radio.hwReplay.inc } else s
  if v.room then { s with radio.rxOk := s.radio.rxOk.inc } else s

/-- The duplicate filter takes a new acknowledged frame of a known neighbour (R181). (DEDUCED, log 45) -/
def filterTakes (f : RadioIn) (v : RadioVerdict) (s : State) : State :=
  match v.known with
  | some l =>
    if v.cls = .new then
      { s with radio.filters := s.radio.filters.map fun x =>
          if x.link = l.1 then ⟨x.link, f.dsn, f.fc.getD x.fc, v.endNs + 1000000⟩ else x }
    else s
  | none => s

/-- A mailbox is ready once Frame Pending told its sleeper to wait (R198). -/
def mailboxReady (k : RadioCtx) (v : RadioVerdict) (s : State) : State :=
  match v.box with
  | some m =>
    if v.pending then
      { s with radio.mailboxes := s.radio.mailboxes.map fun x =>
          if x.link = m.link then { x with ready := some (k.chan, k.mode) } else x }
    else s
  | none => s

/-- The hardware's acknowledgement leaves 1 ms after the frame (R182 to R184). -/
def radioAck (f : RadioIn) (k : RadioCtx) (v : RadioVerdict) (s : State) : State :=
  let s := { s with radio.acksSent := s.radio.acksSent.inc, radio.tick.txed := true,
                    radio.hwDup := if v.cls = .retransmission then s.radio.hwDup.inc else s.radio.hwDup }
  let s := mailboxReady k v (filterTakes f v s)
  let s := preemptContexts k.chan (hwCharge k.chan (v.endNs + 1000000) v.ackUs s)
  let o := v.offset
  let ie := if f.version2 && v.sleeper then le 2 (int32 (if o < -2047 then 2047 else if 2047 < o then -2047 else -o)) else []
  emit (.radio (bit ((takeChain s 0).getD false)) k.chan ([f.dsn, BitVec.ofNat 8 (bit v.pending)] ++ ie)) s

/-- A frame with a good FCS on a unit that captures: its counters, its input and its acknowledgement. -/
def takeRadioFrame (f : RadioIn) (k : RadioCtx) (eff : FaultEffect) (s : State) : State :=
  let v := radioVerdict f k s
  let s := countRadio v s
  let s := receiveInput 4 eff (radioInput f k v s) s
  if v.sent then radioAck f k v s else s

/-- A frame with a failing FCS, or one that injection corrupts, is counted (R175, R579). -/
def failRadioFrame (s : State) : State :=
  { s with radio.fcsFailed := s.radio.fcsFailed.inc, radio.tick.fcsFailed := s.radio.tick.fcsFailed + 1 }

/-- A frame that ends in a context, the context being free again. -/
def endRadioFrame (f : RadioIn) (k : RadioCtx) (s : State) : State :=
  if f.modeSwitch then
    { s with radio.msDropped := s.radio.msDropped.inc, radio.tick.msDropped := s.radio.tick.msDropped + 1 }
  else if !capturing s then (if f.fcsOk then s else failRadioFrame s)
  else
    let x := injectFault 4 true (!f.fcsOk) s
    match x.1 with
    | .corrupt _ _ => failRadioFrame x.2
    | .drop => x.2
    | eff => if f.fcsOk then takeRadioFrame f k eff x.2 else failRadioFrame x.2

/-- A frame ends in a context: a mode switch or a failed FCS drops it, else it makes one input and is acknowledged by the
hardware (R172, R175, R177, R181 to R184, R186, R200, R579). -/
def execRadioFrameReceive (f : RadioIn) (s : State) : Answer :=
  whenRunning s fun s =>
    match s.radio.ctx.getD f.ctx none with
    | none => s
    | some k => endRadioFrame f k { s with radio.ctx := s.radio.ctx.set f.ctx none }

/-! ### Transmission (R178, R185, R187, R189, R192, R198, R199) -/

/-- Bytes of a radio transmit report (R187). -/
def radioReport (t : ChainTx) (flags : Nat) (us : Nat) : Bytes :=
  [0x80, BitVec.ofNat 8 flags] ++ le 2 t.link ++ [t.dsn, BitVec.ofNat 8 t.attempt] ++ le 2 t.queueId.toNat ++ le 2 (chanCode t.chan)
    ++ [BitVec.ofNat 8 t.mode, BitVec.ofNat 8 (sat 8 t.holds)] ++ le 4 (t.startNs / 1000000000) ++ le 4 (t.startNs % 1000000000)
    ++ le 4 us ++ zeros 4

/-- A frame starts on a chain: its charge, the contexts it takes a port from, and the frame itself (R178, R189). -/
def startChain (one : Bool) (t : ChainTx) (payload : Bytes) (s : State) : State :=
  let (eff, s) := injectFault 4 false false s
  let payload := match eff with | .corrupt p m => corruptByte payload p m | _ => payload
  let s := { s with radio.tick.txed := true }
  let s := if one then { s with radio.chain1 := some t } else { s with radio.chain0 := some t }
  let s := preemptContexts t.chan (hwCharge t.chan t.startNs t.airtime s)
  if eff = .drop then s else emit (.radio (bit one) t.chan payload) s

/-- A queued frame changes in place. -/
def modTx (q : BitVec 16) (f : RadioTx → RadioTx) (s : State) : State :=
  { s with radio.queue := s.radio.queue.map fun x => if x.queueId = q then f x else x }

/-- The transmission that a queued frame makes. -/
def RadioTx.chainTx (f : RadioTx) (nowNs : Nat) : ChainTx :=
  { chan := f.chan, mode := f.mode, link := f.link, dsn := f.dsn, attempt := f.attempt, queueId := f.queueId,
    launched := false, mailbox := false, ackReq := true, holds := f.holds, startNs := nowNs,
    airtime := airtimeUs f.mode (f.payload.length + 4) }

/-- The ledger decides a frame whose channel is clear: it starts or is held (R189). -/
def offerTx (f : RadioTx) (nowNs : Nat) (s : State) : State :=
  let t := f.chainTx nowNs
  match takeChain s 0 with
  | none => s
  | some one =>
    if spacingBad s f.chan then s
    else if ledgerAdmits s false f.chan t.airtime nowNs then
      startChain one t f.payload (modTx f.queueId (fun x => { x with phase := .onAir }) s)
    else ledgerHold f.chan t.airtime nowNs (modTx f.queueId (fun x => { x with phase := .held, holds := x.holds + 1 }) s)

/-- Channel assessment of a queued frame: a busy channel defers it by 1 to 32 ms, and the fourth busy result ends the
attempt as WITHDRAWN with CCA_FAILED (R192). -/
def assessTx (f : RadioTx) (nowNs : Nat) (busy : Bool) (s : State) : State :=
  if !busy then offerTx f nowNs s
  else if 4 ≤ f.busy + 1 then
    bearerInput 4 (radioReport (f.chainTx nowNs) (1 + 8 + 64) 0)
      (modTx f.queueId (fun x => { x with phase := .onAir })
        { s with radio.ccaFailed := s.radio.ccaFailed.inc })
  else
    let (w, s) := drawWord s
    modTx f.queueId (fun x => { x with busy := x.busy + 1, phase := .deferred (1 + w.toNat % 32) }) s

/-- Whether a frame waits out a busy channel (R178). -/
def phaseDeferred : RadioTxPhase → Bool
  | .deferred _ => true
  | _ => false

/-- A queued frame of the hardware in a given place. -/
def txInPhase (s : State) (q : BitVec 16) (ok : RadioTxPhase → Bool) : Option RadioTx :=
  s.radio.queue.find? fun f => f.queueId == q && ok f.phase

/-- A queued transmission takes a chain, passes assessment and ledger, and starts (R178, R189, R191, R192). -/
def execRadioTxStart (queueId : BitVec 16) (at_ : Stamp) (busy : Bool) (s : State) : Answer :=
  whenCapturing s fun s =>
    match txInPhase s queueId (· == .queued) with
    | none => s
    | some f =>
      if !hwMayTransmit s || (takeChain s 0).isNone || spacingBad s f.chan then s else assessTx f (stampNs at_) busy s

/-- A deferred attempt is assessed again (R192). -/
def execCcaDeferExpiry (queueId : BitVec 16) (at_ : Stamp) (busy : Bool) (s : State) : Answer :=
  whenCapturing s fun s =>
    match txInPhase s queueId phaseDeferred with
    | none => s
    | some f => if !hwMayTransmit s then s else assessTx f (stampNs at_) busy s

/-- A held frame is offered to the ledger again (R189). -/
def execDwellLedgerRetry (queueId : BitVec 16) (at_ : Stamp) (s : State) : Answer :=
  whenCapturing s fun s =>
    match txInPhase s queueId (· == .held) with
    | none => s
    | some f => if !hwMayTransmit s then s else offerTx f (stampNs at_) s

/-- A context is free to wait for an acknowledgement: a general one, else an armed one (R185). (DEDUCED, log 45) -/
def ackContext (s : State) : Bool :=
  ((List.range 32).filter (· != 7)).any fun i => (s.radio.ctx.getD i none).isNone

/-- The acknowledgement window of a transmission closes, and its report enters the log (R185, R187, R198). -/
def execRadioAckWindowClose (chain acked framePending : Bool) (s : State) : Answer :=
  whenCapturing s fun s =>
    match chainTx s chain with
    | none => s
    | some t =>
      let got := acked && t.ackReq && ackContext s
      let s := if chain then { s with radio.chain1 := none } else { s with radio.chain0 := none }
      let s := if t.mailbox then
          { s with radio.mailboxes := if got then s.radio.mailboxes.filter (fun m => !(m.link == t.link && m.queueId == t.queueId))
                                      else s.radio.mailboxes.map fun m => if m.link = t.link then { m with ready := none } else m }
        else s
      let flags := bit t.ackReq + 2 * bit got + 4 * bit t.launched + 16 * bit t.mailbox + 32 * bit chain
        + 128 * bit (got && framePending)
      bearerInput 4 (radioReport t flags t.airtime) s

/-- A mailbox frame on a chain, its channel and mode those of the frame it follows (R185). -/
def mailboxTx (m : Mailbox) (c : Chan) (mode now : Nat) : ChainTx :=
  { chan := c, mode := mode, link := m.link, dsn := m.dsn, attempt := m.attempt, queueId := m.queueId, launched := false,
    mailbox := true, ackReq := true, holds := 0, startNs := now, airtime := airtimeUs mode (m.payload.length + 4) }

/-- A launch entry on a chain (R199). (DEDUCED, log 43) -/
def launchTx (l : RadioLaunchEntry) (now : Nat) : ChainTx :=
  { chan := l.chan, mode := l.mode, link := l.link, dsn := l.dsn, attempt := 1, queueId := l.queueId, launched := true,
    mailbox := false, ackReq := true, holds := 0, startNs := now, airtime := airtimeUs l.mode (l.payload.length + 4) }

/-- A mailbox frame follows the acknowledgement with Frame Pending to its sleeper (R198). -/
def execMailboxFrameSend (link : BitVec 12) (at_ : Stamp) (s : State) : Answer :=
  whenCapturing s fun s =>
    match s.radio.mailboxes.find? (fun m => m.link == link.toNat) with
    | none => s
    | some m =>
      match m.ready, takeChain s 0 with
      | some (c, mode), some one =>
        let us := airtimeUs mode (m.payload.length + 4)
        if !hwMayTransmit s || spacingBad s c || !ledgerAdmits s false c us (stampNs at_) then s
        else
          startChain one (mailboxTx m c mode (stampNs at_)) m.payload
            { s with radio.mailboxes := s.radio.mailboxes.map fun x =>
                if x.link = m.link then { x with attempt := min 4 (x.attempt + 1) } else x }
      | _, _ => s

/-- A radio launch reaches its anchor (R178, R199): sent without assessment on the preferred idle chain; dropped late where
its anchor has passed, no chain is idle or the spacing forbids it; withdrawn where the ledger does not allow it. -/
def execRadioLaunch (at_ : Stamp) (s : State) : Answer :=
  whenCapturing s fun s =>
    let now := stampNs at_
    match s.radio.launches.find? (fun l => decide (l.atNs ≤ now)) with
    | none => s
    | some l =>
      let s := { s with radio.launches := s.radio.launches.erase l }
      let late (s : State) : State := { s with radio.launchLate := s.radio.launchLate.inc }
      if l.atNs < now then late s
      else
        match takeChain s l.chain with
        | none => late s
        | some one =>
          let us := airtimeUs l.mode (l.payload.length + 4)
          let t := launchTx l now
          if spacingBad s l.chan || !hwMayTransmit s then late s
          else if ledgerAdmits s false l.chan us now then startChain one t l.payload s
          else bearerInput 4 (radioReport { t with holds := 1 } (1 + 4 + 8) 0) (ledgerHold l.chan us now s)

/-! ### The boundary (R188, R191, R193) -/

/-- The tick report of the radio for the ending tick (R188). -/
def radioTickReport (s : State) : Bytes :=
  let t := s.radio.tick
  [0x81, BitVec.ofNat 8 (bit t.txed), BitVec.ofNat 8 t.ctxMax, 0] ++ le 2 (sat 16 t.detections) ++ le 2 (sat 16 t.ctxExhausted)
    ++ le 2 (sat 16 t.fcsFailed)
    ++ ([t.syncLost, t.msDropped, t.rxPreempted, t.ackWithheld, t.armOverlap].map fun n => BitVec.ofNat 8 (sat 8 n)) ++ [0]

/-- A radio entry of the hardware keeps its filter, or loads it from its endpoint (R181). -/
def loadFilters (old new : Tab LinkEntry) (t : Tables) (fs : List DupFilter) : List DupFilter :=
  new.filterMap fun l =>
    (l.2.radio?).map fun r =>
      let kept := (((tget old l.1).bind LinkEntry.radio?).any fun q => q.eui == r.eui)
      match (if kept then fs.find? (·.link == l.1) else none) with
      | some f => f
      | none =>
        let e := tgetD t.endpoints l.2.peer.slot.toNat Endpoint.blank
        ⟨l.1, e.lastDsn, e.lastFc, 0⟩

end Sys2Proof.Machine
end

