-- ==== Sys2Proof/Machine/TimeOps.lean ====
section
/-!
DEFINITION. Time as processing reads it: the status word, UTC, calendar dates, and the meter time message
(R363 to R368, R385).
-/
namespace Sys2Proof.Machine

open Sys2Proof

/-- SYNCHRONISED of a status word (R367). -/
def synced (w : BitVec 32) : Bool := w.getLsbD 3

/-- PTP seconds as UTC seconds since 2020-01-01 (R366). -/
def toUtc (ps off : Nat) (leap61 : Bool) : Int :=
  let u : Int := (ps : Int) - off - epoch2020
  if leap61 ∧ u % 86400 = 0 then u - 1 else u

/-- PTP seconds as UTC under a log's status word (R368). -/
def logToUtc (l : InputLog) (ps : Nat) : Int := toUtc ps (field l.sync.toNat 8 8) (l.sync.getLsbD 5)

/-- The UTC second of a log's boundary stamp. -/
def logUtc (l : InputLog) : Int := logToUtc l l.start.sec.toNat

/-- Nominal length of a tick in ns (R14). -/
def nominalTickNs (s : State) : Nat := if nominal60 s then 8333333 else 10000000

/-- The PTP time at which tick `n` ticks after the log's own begins, extrapolated at nominal rate (R385). -/
def tickStartNs (s : State) (n : Nat) : Nat := stampNs s.work.log.start + n * 1000000000 / ticksPerS s

/-! ### Calendar -/

/-- Year, month and day of a day number since 2020-01-01. -/
def civil (days : Nat) : Nat × Nat × Nat :=
  let z := days + 737730
  let era := z / 146097
  let doe := z % 146097
  let yoe := (doe - doe / 1460 + doe / 36524 - doe / 146096) / 365
  let doy := doe - (365 * yoe + yoe / 4 - yoe / 100)
  let mp := (5 * doy + 2) / 153
  let d := doy - (153 * mp + 2) / 5 + 1
  let m := if mp < 10 then mp + 3 else mp - 9
  (yoe + era * 400 + (if m ≤ 2 then 1 else 0), m, d)

/-- The 12 bytes of a DLMS date-time with deviation 0 and clock status 0 (R385). -/
def dateTimeBytes (utc hundredths : Nat) : Bytes :=
  let days := utc / 86400
  let t := utc % 86400
  let (y, m, d) := civil days
  be 2 y ++ ([m, d, (days + 2) % 7 + 1, t / 3600, t / 60 % 60, t % 60, hundredths].map (BitVec.ofNat 8)) ++ [0, 0, 0]

/-- An APDU behind the 8-byte wrapper: client wPort by SECURITY, server wPort 1 (R244). (PRESUMED, log 48) -/
def wrapApdu (security : Nat) (apdu : Bytes) : Bytes :=
  be 2 1 ++ be 2 (if security = 0 then 0x10 else 1) ++ be 2 1 ++ be 2 apdu.length ++ apdu

/-- The SET-Request-Normal on Clock attribute 2 that names an instant of PTP time (R385). (PRESUMED, log 48) -/
def clockSet (l : InputLog) (ns : Nat) : Bytes :=
  [0xC1, 1, 0x81, 0, 8, 0, 0, 1, 0, 0, 0xFF, 2, 0, 9, 12]
    ++ dateTimeBytes (logToUtc l (ns / 1000000000)).toNat (ns % 1000000000 / 10000000)

end Sys2Proof.Machine
end

