-- ==== Sys2Proof/Machine/RadioLink.lean ====
section
/-!
DEFINITION. Radio neighbours in processing: joins, downlink, sleepers, reports, and the time messages to meters
(chapter 5, R193 to R203; R385, R386).
-/
namespace Sys2Proof.Machine

open Sys2Proof

/-! ### Downlink (R197 to R199) -/

/-- The next DSN of a radio peer (R197). -/
def nextRadioDsn (src : Src) (i : Nat) (s : State) : Byte × State :=
  match (linkEntry s i).radio? with
  | none => (0, s)
  | some r => (r.txDsn + 1, modRadio src i (fun r => { r with txDsn := r.txDsn + 1 }) s)

/-- The mode of downlink frames (R197). -/
def RadioPart.downMode (r : RadioPart) : Nat := if r.modeTx = 0xFF then r.rxMode.toNat else r.modeTx.toNat

/-- Frames of the transmit queue that have not ended on the air. -/
def radioQueued (s : State) : Nat := (s.radio.queue.filter fun f => f.phase != .onAir).length

/-- A frame of the transmit queue with a number of its own (R197). -/
def requeued (f : RadioTx) (s : State) : RadioTx :=
  { f with queueId := s.radio.nextQid, queued := s.work.log.tick, phase := .queued, busy := 0, holds := 0 }

/-- A frame joins the transmit queue, or finds it full and fails with cause 2 (R197). -/
def radioEnqueue (src : Src) (f : RadioTx) (s : State) : State :=
  if 256 ≤ radioQueued s then radioFail src f.link f.dsn 2 s
  else
    { s with radio.queue := s.radio.queue ++ [requeued f s], radio.nextQid := s.radio.nextQid + 1 }

/-- A frame waits for a sleeper's mailbox, or fills it (R198). -/
def toMailbox (src : Src) (i : Nat) (lost : Bool) (dsn : Byte) (payload : Bytes) (s : State) : State :=
  if lost then radioFail src i dsn 1 s
  else
    let m : Mailbox := ⟨i, dsn, s.radio.nextQid, 0, none, payload⟩
    let s := { s with radio.nextQid := s.radio.nextQid + 1 }
    if s.radio.mailboxes.any (·.link == i) || 512 ≤ s.radio.mailboxes.length then
      { s with radio.sleepQueue := s.radio.sleepQueue ++ [m] }
    else { s with radio.mailboxes := s.radio.mailboxes ++ [m] }

/-- A downlink frame to a radio neighbour (R197, R198). (DEDUCED, log 44) -/
def radioSend (src : Src) (i : Nat) (payload : Bytes) (s : State) : State :=
  match (linkEntry s i).radio? with
  | none => s
  | some r =>
    let (dsn, s) := nextRadioDsn src i s
    if r.sleeper && r.periodMs != 0 then toMailbox src i r.lost dsn payload s
    else
      radioEnqueue src { queueId := 0, link := i, chan := chanOf r.listenCh.toNat, mode := r.downMode, dsn := dsn, attempt := 1,
                         queued := 0, busy := 0, holds := 0, phase := .queued, payload := payload } s

/-- Mailboxes that have come free take the next frame that waits (R198). -/
def fillMailboxes (s : State) : State :=
  s.radio.sleepQueue.foldl (fun s m =>
    if s.radio.mailboxes.any (·.link == m.link) || 512 ≤ s.radio.mailboxes.length then s
    else { s with radio.mailboxes := s.radio.mailboxes ++ [m], radio.sleepQueue := s.radio.sleepQueue.erase m }) s

/-- A launch joins the radio's launch queue, or finds 64 in it (R199). -/
def radioAddLaunch (atNs : Nat) (c : Chan) (mode link : Nat) (dsn : Byte) (payload : Bytes) (s : State) : State :=
  if 64 ≤ s.radio.launches.length then { s with radio.launchFull := s.radio.launchFull.inc }
  else
    { s with radio.launches := s.radio.launches ++ [⟨atNs, c, mode, 0, link, dsn, s.radio.nextQid, payload⟩],
             radio.nextQid := s.radio.nextQid + 1 }

/-! ### Meter time messages (R385 to R387) -/

/-- The first open stripe of STRIPE_PLAN (R386). -/
def firstOpenStripe (s : State) : Nat := ((List.range 8).find? (planOpen s.cov.sys.records)).getD 0

/-- A launch at a serial port, or its queue of 64 is full (R380). -/
def serialAddLaunch (portB : Bool) (l : SerialLaunchEntry) (s : State) : State :=
  let q := if portB then s.time.serialB else s.time.serialA
  if 64 ≤ q.length then { s with time.serFull := s.time.serFull.inc }
  else if portB then { s with time.serialB := q ++ [l] } else { s with time.serialA := q ++ [l] }

/-- A time message to a sleeper in its listening window 60 ms after the acknowledgement, or its mailbox (R202). -/
def sleeperTime (src : Src) (i : Nat) (r : RadioPart) (ackEndNs : Option Nat) (payload : Nat → Bytes) (s : State) : State :=
  let us := airtimeUs r.schedMode.toNat ((payload 0).length + 4)
  match ackEndNs with
  | some e =>
    if (60000 + us) ≤ r.rxWindowMs.toNat * 1000 then
      let at0 := e + 60000000
      let (dsn, s) := nextRadioDsn src i s
      radioAddLaunch at0 (chanOf r.listenCh.toNat) r.rxMode.toNat i dsn (payload at0) s
    else radioSend src i (payload e) s
  | none => radioSend src i (payload (tickStartNs s 3)) s

/-- Airtime of preamble and SFD in ns (R385). -/
def preambleNs (mode : Nat) : Nat := 10 * 8 * 1000000000 / modeRate mode

/-- A meter time message is queued for an endpoint, at most once in a log and never while SYNCHRONISED is 0 (R386).
(DEDUCED, log 44) -/
def queueTimeMessage (src : Src) (slot security : Nat) (ackEndNs : Option Nat) (s : State) : State :=
  if !synced s.work.log.sync || s.time.msgs.any (fun m => m.slot == slot && m.tick == s.work.log.tick) then s
  else
    let port := (endpoint s slot).port.toNat
    let msg (extra ns : Nat) : Bytes := wrapApdu security (clockSet s.work.log (ns + extra))
    let note (b : Nat) (s : State) : State := { s with time.msgs := s.time.msgs ++ [⟨slot, b, s.work.log.tick⟩] }
    let start3 := tickStartNs s 3
    match portGroup port with
    | 1 =>
      match linkOfSlot s.cov.tables.links slot with
      | none => s
      | some i =>
        let st := firstOpenStripe s
        let (dsn, s) := nextDsn src i s
        let ns := start3 + st * (nominalTickNs s / 8)
        plcAddLaunch (.stripe (s.work.log.tick + 3) st) 0 i dsn true (msg 853330 ns) (note 1 s)
    | 2 =>
      match (linkOfSlot s.cov.tables.links slot).bind fun i => ((linkEntry s i).radio?).map fun r => (i, r) with
      | none => s
      | some (i, r) =>
        if r.sleeper && r.periodMs != 0 then
          sleeperTime src i r ackEndNs (msg (preambleNs r.schedMode.toNat)) (note 2 s)
        else
          let (dsn, s) := nextRadioDsn src i s
          radioAddLaunch start3 (chanOf r.listenCh.toNat) r.downMode i dsn (msg (preambleNs r.downMode) start3) (note 2 s)
    | 6 | 7 =>
      let at0 := ceilDiv (tickStartNs s 4) 1000000000 * 1000000000 + 10000000
      serialAddLaunch (port == 7) ⟨at0, slot, clockSet s.work.log at0⟩ (note 3 s)
    | _ => s

/-! ### Sleepers (R200 to R202) -/

/-- D, the drift of a sleeper in 0.1 ppm (R201). -/
def driftOf (s : State) (r : RadioPart) : Nat :=
  (if r.drift = 0 then cfg s 0x0201 0 8 2 400 else r.drift.toNat) + if synced s.work.log.sync then 0 else 200

/-- An instant given by the low 32 bits of its PTP seconds, read nearest to the log's own time. -/
def nearNs (s : State) (sec ns : BitVec 32) : Int :=
  let now := s.work.log.start.sec
  ((now.toNat : Int) + (sec - now.truncate 32).toInt) * 1000000000 + ns.toNat

/-- t_k of a sleeper in ns (R200). -/
def wakeNs (s : State) (r : RadioPart) (k : Nat) : Int := nearNs s r.anchorS r.anchorNs + (k * r.periodMs.toNat * 1000000 : Nat)

/-- c_k of a sleeper. -/
def wakeChan (r : RadioPart) (k : Nat) : Chan :=
  ⟨modeWide r.schedMode.toNat,
    r.setFirst.toNat + if r.setCount = 0 then 0 else (r.seed.toNat + k * r.hop.toNat) % r.setCount.toNat⟩

/-- The guard of wake `k` in µs (R201). -/
def guardUs (s : State) (r : RadioPart) (k : Nat) : Nat :=
  let dt := (wakeNs s r k - nearNs s r.syncS r.syncNs).toNat / 1000
  2000 + ceilDiv (dt * driftOf s r) 10000000

/-- GMAX in µs (R201). -/
def guardMax (r : RadioPart) : Nat := min (r.periodMs.toNat * 1000 / 8) 2000000

/-- The sleeper has a schedule. -/
def RadioPart.scheduled (r : RadioPart) : Bool := r.sleeper && r.periodMs != 0

/-- The wakes of a sleeper whose guard can open at or after `fromNs` and before `toNs`. (DEDUCED, log 44) -/
def wakesIn (s : State) (r : RadioPart) (fromNs toNs : Nat) : List Nat :=
  let p : Int := r.periodMs.toNat * 1000000
  let a := nearNs s r.anchorS r.anchorNs
  let lo := (((fromNs : Int) - a).fdiv p).toNat
  let hi := (((toNs : Int) + guardMax r * 1000 + 2000000 - a).fdiv p + 1).toNat
  (List.range (hi + 1 - lo)).map (· + lo)

/-- A sleeper enters search for a wake (R201). (DEDUCED, log 44) -/
def enterSearch (src : Src) (i k g endNs : Nat) (s : State) : State :=
  raise src 0x2003 [i, k, g]
    (modRadio src i (fun r => { r with search := true }) { s with radio.searches := s.radio.searches ++ [(i, k, endNs)] })

/-- The arm list or the search of one sleeper, for the windows that open in ticks T+2 to T+257 (R201). -/
def armSleeper (i : Nat) (r : RadioPart) (s : State) : State :=
  let src := Src.sweep (recordEngine (linkEntry s i).peer.slot.toNat)
  let lo := tickStartNs s 2
  let hi := tickStartNs s 258
  if !r.scheduled || r.lost then s
  else if r.search then
    if s.radio.searches.any (·.1 == i) then s
    else { s with radio.searches := s.radio.searches ++ [(i, r.wakeIndex.toNat, lo + 2 * r.periodMs.toNat * 1000000)] }
  else if r.syncS = 0 then
    let k := (wakesIn s r lo lo).headD 0
    enterSearch src i k 0 (lo + 2 * r.periodMs.toNat * 1000000) s
  else
    (wakesIn s r lo hi).foldl (fun s k =>
      let t := wakeNs s r k
      let g := guardUs s r k
      let opening : Int := t - g * 1000
      if k ≤ r.wakeIndex.toNat ∨ t ≤ nearNs s r.syncS r.syncNs then s
      else if guardMax r < g then
        if opening < tickStartNs s 3 ∧ !(s.radio.searches.any (·.1 == i)) then
          enterSearch src i k g (t + (2 * r.periodMs.toNat * 1000000 : Nat)).toNat s
        else s
      else if opening < lo ∨ (hi : Int) ≤ opening ∨ s.radio.arms.any (fun w => w.link == i && w.wake == k) then s
      else if 512 ≤ s.radio.arms.length then { s with radio.armOverlap := s.radio.armOverlap.inc }
      else
        let w : ArmWindow := ⟨i, k, wakeChan r k, opening.toNat, t.toNat, (t + g * 1000).toNat⟩
        { s with radio.arms := s.radio.arms ++ [w] }) s

/-- Windows and searches of every sleeper (R201). (DEDUCED, log 44) -/
def armSleepers (s : State) : State :=
  s.cov.tables.links.foldl (fun s l =>
    match (linkEntry s l.1).radio? with
    | some r => armSleeper l.1 r s
    | none => s) s

/-- An armed window closes without its sleeper's frame (R202). -/
def closeWindow (src : Src) (w : ArmWindow) (s : State) : State :=
  modRadio src w.link (fun r => { r with misses := BitVec.ofNat 16 (sat 16 (r.misses.toNat + 1)) })
    { s with radio.arms := s.radio.arms.erase w }

/-- Frames that wait for a sleeper fail when it becomes LOST (R198). -/
def failMailbox (src : Src) (i : Nat) (s : State) : State :=
  let gone := (s.radio.mailboxes ++ s.radio.sleepQueue).filter (·.link == i)
  gone.foldl (fun s m => radioFail src i m.dsn 1 s)
    { s with radio.mailboxes := s.radio.mailboxes.filter (·.link != i), radio.sleepQueue := s.radio.sleepQueue.filter (·.link != i) }

/-- A search closes without a frame (R202). -/
def closeSearch (src : Src) (x : Nat × Nat × Nat) (s : State) : State :=
  failMailbox src x.1
    (raise src 0x2004 [x.1, x.2.1]
      (modRadio src x.1 (fun r => { r with lost := true, search := false })
        { s with radio.searches := s.radio.searches.erase x }))

/-- An instant of tick T or earlier, T being the log's tick. -/
def endedBy (s : State) (ns : Nat) : Bool := decide (ns < tickStartNs s 1)

/-- An armed window that ended in the tick (R202). -/
def execSleeperWindowClose (org : Org) (link : BitVec 12) (wake : BitVec 32) (s : State) : Answer :=
  whenProcessing s fun s =>
    match s.radio.arms.find? (fun w => w.link == link.toNat && w.wake == wake.toNat && endedBy s w.closeNs) with
    | some w => closeWindow (Src.frame org) w s
    | none => s

/-- A search that ended in the tick (R202). -/
def execSleeperSearchClose (org : Org) (link : BitVec 12) (wake : BitVec 32) (s : State) : Answer :=
  whenProcessing s fun s =>
    match s.radio.searches.find? (fun x => x.1 == link.toNat && x.2.1 == wake.toNat && endedBy s x.2.2) with
    | some x => closeSearch (Src.frame org) x s
    | none => s

/-- Every window and search that ends in the tick closes (R202). -/
def closeSleepers (s : State) : State :=
  let eng (i : Nat) : Src := Src.sweep (recordEngine (linkEntry s i).peer.slot.toNat)
  let s := (s.radio.arms.filter fun w => endedBy s w.closeNs).foldl (fun s w => closeWindow (eng w.link) w s) s
  (s.radio.searches.filter fun x => endedBy s x.2.2).foldl (fun s x => closeSearch (eng x.1) x s) s

/-- A frame accepted from a sleeper synchronises it (R202). -/
def syncSleeper (src : Src) (i : Nat) (rx : RadioRx) (security : Nat) (s : State) : State :=
  match (linkEntry s i).radio? with
  | none => s
  | some r =>
    match wakeOf r rx.arrival with
    | none => s
    | some (k, o) =>
      let sat32 : Int := max (-(2 ^ 31)) (min o (2 ^ 31 - 1))
      let s := if r.search || r.lost then raise src 0x2005 [i, k, int32 sat32] s else s
      let s := modRadio src i (fun r =>
        { r with wakeIndex := BitVec.ofNat 32 k, syncS := rx.arrival.sec.truncate 32, syncNs := rx.arrival.ns,
                 lastOffset := BitVec.ofInt 32 sat32, misses := 0, search := false, lost := false }) s
      let s := { s with radio.arms := s.radio.arms.filter (fun w => !(w.link == i && decide (w.wake ≤ k))),
                        radio.searches := s.radio.searches.filter (fun x => x.1 != i) }
      if o < -2047 ∨ 2047 < o then
        let ackEnd := frameEndNs rx.mode rx.length rx.arrival + 1000000 + rx.ackUs * 1000
        queueTimeMessage src (linkEntry s i).peer.slot.toNat security (if rx.ackUs = 0 then none else some ackEnd) s
      else s

/-- An accepted radio frame: a join where its endpoint has no entry, then the fields its frame gives (R195, R196, R202). -/
def radioAccepted (src : Src) (x : BitVec 64) (slot security : Nat) (rx : RadioRx) (s : State) : State :=
  let have_ := (linkOfSlot s.cov.tables.links slot).filter fun i => ((linkEntry s i).radio?).isSome
  let (got, s) := match have_ with
    | some i => (some i, s)
    | none =>
      if joinBarred s x then (none, s)
      else
        match grantRadio src x slot s.work.log.tick s with
        | (some i, s) => (some i, raise src 0x2001 [i, slot, 0] s)
        | (none, s) => (none, s)
  match got with
  | none => s
  | some i =>
    let s := modRadio src i (fun r =>
      { r with sleeper := (endpoint s slot).sleeper, enhAck := rx.version2, portB := rx.portB,
               listenCh := BitVec.ofNat 16 (chanCode rx.chan), rxMode := BitVec.ofNat 8 rx.mode, rssi := rx.rssi }) s
    syncSleeper src i rx security s

/-! ### Reports, withdrawals, reassembly and the ledger (R180, R193, R197) -/

/-- A failed attempt is repeated with the same DSN, or the frame fails (R197). -/
def radioAttemptFailed (src : Src) (f : RadioTx) (s : State) : State :=
  let s := { s with radio.queue := s.radio.queue.erase f }
  if f.attempt < 4 then radioEnqueue src { f with attempt := f.attempt + 1 } s
  else
    radioFail src f.link f.dsn 0 (modRadio src f.link (fun r => { r with fails := BitVec.ofNat 8 (sat 8 (r.fails.toNat + 1)) }) s)

/-- A radio transmit report of the log (R187, R197, R198). (DEDUCED, log 45) -/
def execRadioTransmitReport (t : RadioTxReport) (s : State) : Answer :=
  whenProcessing s fun s =>
    let src := Src.frame t.org
    let s := { s with radio.attempts := s.radio.attempts.inc }
    let good (s : State) : State :=
      modRadio src t.link.toNat (fun r => { r with fails := 0 }) { s with radio.delivered := s.radio.delivered.inc }
    if t.launched then s
    else if t.mailbox then (if t.acked && !t.withdrawn then fillMailboxes (good s) else s)
    else
      match s.radio.queue.find? (fun f => f.queueId == t.queueId && f.phase == .onAir) with
      | none => s
      | some f =>
        if t.withdrawn || !t.acked then radioAttemptFailed src f s
        else good { s with radio.queue := s.radio.queue.erase f }

/-- A radio frame not started within 256 ticks is withdrawn (R155, R197). -/
def execRadioQueueAgeWithdraw (org : Org) (queueId : BitVec 16) (s : State) : Answer :=
  whenProcessing s fun s =>
    match s.radio.queue.find? (fun f => f.queueId == queueId && f.phase != .onAir) with
    | none => s
    | some f =>
      if f.queued.toNat + 256 < s.work.log.tick.toNat then radioAttemptFailed (Src.frame org) f s else s

/-- A fragment joins the reassemblies of a bearer, at most 32: the list after it, and whether the frame's datagram is
whole (R163, R180). -/
def takeFragment (tick : BitVec 48) (eui : BitVec 64) (f : Option Fragment) (l : List (BitVec 64 × Fragment × BitVec 48)) :
    Bool × List (BitVec 64 × Fragment × BitVec 48) :=
  match f with
  | none => (true, l)
  | some f =>
    let same (x : BitVec 64 × Fragment × BitVec 48) : Bool := x.1 == eui && x.2.1.tag == f.tag
    if 1280 < f.size then (false, l)
    else if l.any same then (f.complete, if f.complete then l.filter (fun x => !same x) else l)
    else if f.complete then (true, l)
    else if 32 ≤ l.length then (false, l)
    else (false, l ++ [(eui, f, tick)])

/-- A radio reassembly not complete within 60 s is dropped (R163, R180). -/
def execRadioFragTimeout (org : Org) (eui : BitVec 64) (s : State) : Answer :=
  whenProcessing s fun s =>
    match s.radio.frags.find? (fun f => f.1 == eui && decide (f.2.2.toNat + 60 * ticksPerS s ≤ s.work.log.tick.toNat)) with
    | none => s
    | some f =>
      raise (Src.frame org) 0x2008 [euiLow eui, eui.toNat / 2 ^ 32]
        { s with radio.frags := s.radio.frags.erase f, radio.fragTimeouts := s.radio.fragTimeouts.inc }

/-- An instant of an entry's 32-bit seconds and nanoseconds in ns. -/
def entryNs (s : State) (b : Bytes) (off : Nat) : Nat :=
  (nearNs s (BitVec.ofNat 32 (ofLe (slice b off 4))) (BitVec.ofNat 32 (ofLe (slice b (off + 4) 4)))).toNat

/-- The charges of one log entry: the airtime of a transmit report, or of the acknowledgement of a received frame (R193). -/
def entryCharges (s : State) (e : LogEntry) : List Charge :=
  let recs := s.cov.sys.records
  let b := e.body
  let p := profileOf recs (band900 s)
  let row (v : Nat) : Option Nat := ledgerRow p (band900 s) (chanOf v)
  let num (off len : Nat) : Nat := ofLe (slice b off len)
  if e.port.toNat ≠ 4 ∨ e.kind.toNat ≠ 1 then []
  else
    match num 0 1 with
    | 1 =>
      match row (num 2 2) with
      | some k =>
        let start := entryNs s b 8 + (2 + num 0x16 2 + 4) * 8 * 1000000000 / modeRate (num 4 1) + 1000000
        splitCharge p k start (num 0x14 2)
      | none => []
    | 0x80 =>
      match row (num 8 2) with
      | some k => splitCharge p k (entryNs s b 0xC) (num 0x14 4)
      | none => []
    | _ => []

/-- Processing charges the ledger from the log (R193). -/
def chargeFromLog (s : State) : State :=
  let l := s.work.log.entries.foldl (fun l e => addCharges l (entryCharges s e)) s.radio.ledger
  { s with radio.ledger := pruneLedger (profileOf s.cov.sys.records (band900 s)) (stampNs s.work.log.start) l }

end Sys2Proof.Machine
end

