-- ==== Sys2Proof/Machine/IngestOps.lean ====
section
/-!
DEFINITION. Ingest: plans and rules, authentication and replay, pending readings, the Weir, validation and the record
(chapter 7, R242 to R272).
-/
namespace Sys2Proof.Machine

open Sys2Proof

/-! ### Plans and rules (R258, R266, R268) -/

/-- A collection plan (R266). -/
structure Plan where
  id       : Nat
  classes  : Nat
  group    : Nat
  period   : Nat
  retain   : Nat
  security : Nat
  flags    : Nat
  postBase : Nat
  session  : Bytes
  regs     : List Nat
  deriving DecidableEq, Repr

/-- The plan of a COLLECTION record. -/
def Plan.ofBytes (v : Bytes) : Plan :=
  let n (o l : Nat) : Nat := ofLe (slice v o l)
  ⟨n 0 1, n 1 1, n 2 2, n 4 4, n 8 2, n 0xA 1, n 0xB 1, n 0xC 2, slice v 0xE 6,
    ((List.range 8).map fun i => n (0x18 + 2 * i) 2 % 4096).take (n 0x14 1)⟩

/-- The default plan (R268). (DEDUCED, log 46) -/
def Plan.dflt : Plan := ⟨0, 0x3F, 0xFFFF, 900, 40, 0, 2, 0xFFFF, zeros 6, [1, 2]⟩

/-- The plans in force. -/
def plans (recs : Tab Bytes) : List Plan :=
  match recsOfType recs 0x0403 with
  | [] => [Plan.dflt]
  | l => l.map fun r => Plan.ofBytes r.2

/-- The plan an endpoint follows (R267). (DEDUCED, log 46) -/
def planFor (recs : Tab Bytes) (e : Endpoint) : Option Plan :=
  (plans recs).find? fun p => testBit p.classes e.cls.toNat && (p.group == 0xFFFF || p.group == e.keyGroup.toNat)

/-- The plan of a slot. -/
def planOf (s : State) (slot : Nat) : Option Plan := planFor s.cov.sys.records (endpoint s slot)

/-- SECURITY of a slot's plan. -/
def securityOf (s : State) (slot : Nat) : Nat := ((planOf s slot).map (·.security)).getD 0

/-- A validation rule (R258). -/
structure Rule where
  code     : Nat
  cls      : Nat
  obis     : Bytes
  attr     : Nat
  kind     : Nat
  lo       : Int
  hi       : Int
  maxInc   : Int
  interval : Nat
  skew     : Nat
  reject   : Nat
  deriving DecidableEq, Repr

/-- The rule of a VALIDATION_RULE record. -/
def Rule.ofBytes (v : Bytes) : Rule :=
  let n (o l : Nat) : Nat := ofLe (slice v o l)
  let i (o : Nat) : Int := (BitVec.ofNat 64 (n o 8)).toInt
  ⟨n 0 2 % 4096, n 2 2, slice v 4 6, n 0xA 1, n 0xB 1, i 0xC, i 0x14, i 0x1C, n 0x24 4, n 0x28 2, n 0x2A 1⟩

/-- The two default rules (R258). (DEDUCED, log 46) -/
def Rule.dflt (code : Nat) (c : Byte) : Rule :=
  ⟨code, 3, [1, 0, c, 8, 0, 0xFF], 2, 1, 0, 0x7FFFFFFFFFFFFFFF, 0, 900, 300, 0⟩

/-- The rules in force. -/
def rules (recs : Tab Bytes) : List Rule :=
  match recsOfType recs 0x0402 with
  | [] => [Rule.dflt 1 1, Rule.dflt 2 2]
  | l => l.map fun r => Rule.ofBytes r.2

/-- The rule a value matches (R259). -/
def ruleFor (recs : Tab Bytes) (cls : Nat) (obis : Bytes) (attr : Nat) : Option Rule :=
  (rules recs).find? fun r => r.cls == cls && r.obis == obis && r.attr == attr

/-- The rule of a register code. -/
def ruleOf (recs : Tab Bytes) (code : Nat) : Option Rule := (rules recs).find? fun r => r.code == code

/-! ### Resolve, authenticate, replay, learn (R209, R211, R242, R249 to R252) -/

/-- Outcomes of the replay check (R251). -/
inductive Replay where
  | accepted | retransmission | replayed
  deriving DecidableEq, Repr

/-- The replay check of a frame against the stored counter and LAST_DSN (R251). Frames without a counter on powerline
have been checked under R158. -/
def replayCheck (u : Upstream) (f : BitVec 32) (lastDsn : Byte) : Replay :=
  match u.fc with
  | some c => if f < c then .accepted else if c = f ∧ u.dsn = lastDsn then .retransmission else .replayed
  | none => if u.org.port = 4 ∧ u.dsn = lastDsn ∧ u.hwDup = true then .retransmission else .accepted

/-- The stored counter that the check uses (R252). -/
def storedCounter (e : Endpoint) (port : Nat) : BitVec 32 :=
  if e.state = .free then 0
  else if portGroup port ≠ portGroup e.port.toNat ∧ e.static = false then 0 else e.lastFc

/-- What ingest answers for a frame: the slot whose application data are taken. -/
abbrev Ingested := Option Nat × State

/-- A frame is ingested once in its log: its outcome is kept by port and position. -/
def ingestDone (u : Upstream) (take_ : Bool) (slot : Option Nat) (s : State) : Ingested :=
  (if take_ then slot else none,
    { s with work.ingested := (u.org.port, u.org.pos, take_, false, slot) :: s.work.ingested })

/-- Ingest of one upstream frame: resolve, authenticate, replay check, learn (R242, R250 to R252, R217). `prev` is LAST_DSN
as of before the frame. -/
def ingestFrame (u : Upstream) (prev : Option Byte) (s : State) : Ingested :=
  match s.work.ingested.find? (fun x => x.1 == u.org.port && x.2.1 == u.org.pos) with
  | some x => (if x.2.2.1 then x.2.2.2.2 else none, s)
  | none =>
    let port := u.org.port
    let found := lookup s u.eui
    let e := match found with | some slot => endpoint s slot | none => Endpoint.blank
    let src := Src.onInput (euiEngine s u.eui) u.org
    let slotP := (found.filter fun k => !s.work.fresh.contains k).getD 0xFFFFFFFF
    let serial := port == 6 || port == 7
    if (u.radio.map (·.mesh)).getD false then
      ingestDone u false found { s with radio.meshDropped := s.radio.meshDropped.inc }
    else if serial && !(e.static && e.port.toNat == port) then
      ingestDone u false found { s with ingest.unknownSource := s.ingest.unknownSource.inc }
    else if found.isSome && !e.parityOk then
      ingestDone u false found { raise (Src.frame u.org) 0x300C [slotP] s with tstat.parityErrors := s.tstat.parityErrors.inc }
    else if found.isSome && e.state == .barred then
      ingestDone u false found { s with tstat.barredDrops := s.tstat.barredDrops.inc }
    else
      let s := if u.secured then { s with keys.derivations := s.keys.derivations.inc } else s
      let asLearned := if found.isSome then e else
        { Endpoint.blank with cls := policyClass s port none, keyGroup := BitVec.ofNat 12 (cfg s 0x0303 0 4 2 0) }
      let group := asLearned.keyGroup
      let keyed := (groupKey s group).isSome
      let s := match u.secured, groupKey s group with | true, some k => useSlot src k.1 s | _, _ => s
      if u.secured && !(u.tagOk && keyed) then
        ingestDone u false found { raise src 0x4002 [slotP, port] s with ingest.authFailed := s.ingest.authFailed.inc }
      else if !u.secured && ((planFor s.cov.sys.records asLearned).map (fun p => p.security != 0)).getD false then
        ingestDone u false found { s with ingest.unsecured := s.ingest.unsecured.inc }
      else
        let f := storedCounter e port
        match replayCheck u f (prev.getD e.lastDsn) with
        | .retransmission => ingestDone u false found { s with ingest.retransmits := s.ingest.retransmits.inc }
        | .replayed =>
          ingestDone u false found
            { raise src 0x4001 [slotP, (u.fc.map BitVec.toNat).getD 0, f.toNat] s with ingest.replays := s.ingest.replays.inc }
        | .accepted =>
          let (kept, s) := learn src u.eui port s.work.log.tick none s
          match lookup s u.eui with
          | none => ingestDone u false none s
          | some slot =>
            let s := modEndpoint src slot (fun x =>
              { x with lastFc := u.fc.getD x.lastFc,
                       lastDsn := if u.fc.isSome || portGroup port != 1 then u.dsn else x.lastDsn }) s
            match kept with
            | none => ingestDone u false (some slot) s
            | some _ =>
              match u.radio with
              | none => ingestDone u true (some slot) s
              | some rx =>
                let (whole, fr) := takeFragment s.work.log.tick u.eui rx.frag s.radio.frags
                ingestDone u whole (some slot) (radioAccepted src u.eui slot (securityOf s slot) rx { s with radio.frags := fr })

/-! ### Pending readings (R247, R248, R253, R257, R259, R269, R270) -/

/-- BEARER of a port (R263). -/
def bearerOf (port : Nat) : Nat :=
  if port = 0 then 0 else if port ≤ 3 then 1 else if port = 4 then 2 else if port ≤ 7 then 3 else 4

/-- Pending readings a bearer queue holds (R253). -/
def queueLimit (bearer : Nat) : Nat := match bearer with | 1 => 6144 | 2 => 6144 | 3 => 2048 | _ => 18432

/-- The queue of a bearer. -/
def Ingest.queue (x : Ingest) (bearer : Nat) : List Reading :=
  match bearer with | 1 => x.plcQ | 2 => x.radioQ | 3 => x.serialQ | _ => x.tribQ

/-- Write the queue of a bearer. -/
def Ingest.setQueue (x : Ingest) (bearer : Nat) (q : List Reading) : Ingest :=
  match bearer with
  | 1 => { x with plcQ := q } | 2 => { x with radioQ := q } | 3 => { x with serialQ := q } | _ => { x with tribQ := q }

/-- A pending reading joins its bearer's queue, or is dropped where the queue is full (R253, R257). -/
def queueReading (src : Src) (bearer : Nat) (r : Reading) (s : State) : State :=
  let q := s.ingest.queue bearer
  if queueLimit bearer ≤ q.length then
    { raise src 0x4004 [bearer, r.slot, r.code] s with ingest.weirOverflow := s.ingest.weirOverflow.inc }
  else { s with ingest := s.ingest.setQueue bearer (q ++ [r]) }

/-- A DLMS date-time in UTC seconds since 2020, and whether its deviation was missing (R248). (PRESUMED, log 48) -/
def utcOfDateTime (d : DateTime) : Option (Int × Bool) :=
  if d.complete then
    match d.deviation with
    | some m => some (d.seconds + m * 60, false)
    | none => some (d.seconds, true)
  else none

/-- The first usable date-time of a list. -/
def firstTime (l : List (Option DateTime)) : Option (Int × Bool) :=
  l.findSome? fun d => d.bind utcOfDateTime

/-- The Clock, or the value of a KIND 3 rule, in a body (R248, R259). (DEDUCED, log 112) -/
def bodyClock (recs : Tab Bytes) (vs : List DlmsValue) : Option DateTime :=
  vs.findSome? fun v =>
    match v.value with
    | .dateTime d =>
      if (v.cls = 8 ∧ v.attr = 2) ∨ ((ruleFor recs v.cls (be 6 v.obis.toNat) v.attr).map (·.kind)) = some 3 then some d else none
    | _ => none

/-- METER_STATUS of a body: the value of a KIND 2 rule (R259). -/
def bodyStatus (recs : Tab Bytes) (vs : List DlmsValue) : Nat :=
  (vs.findSome? fun v =>
    match v.value with
    | .int i => if ((ruleFor recs v.cls (be 6 v.obis.toNat) v.attr).map (·.kind)) = some 2 then some (i % 256).toNat else none
    | _ => none).getD 0

/-- An APDU value that is not taken (R247). -/
def typeReject (s : State) : State := { s with ingest.typeRejected := s.ingest.typeRejected.inc }

/-- The reading that a value gives, or none. -/
def valueReading (slot : Nat) (plan : Plan) (u : Upstream) (time : Option DateTime) (vs : List DlmsValue) (apdu : Bytes)
    (v : DlmsValue) (s : State) : State :=
  let recs := s.cov.sys.records
  let src := Src.slot slot u.org
  let log := s.work.log
  let obis := be 6 v.obis.toNat
  let cap := (logUtc log).toNat
  let (ts, mine, tz) : Nat × Bool × Bool :=
    match firstTime [if v.cls = 4 then v.capture else none, time, bodyClock recs vs] with
    | some (t, tz) => ((BitVec.ofInt 32 t).toNat, false, tz)
    | none => (cap, true, false)
  let bearer := bearerOf u.org.port
  let status := bodyStatus recs vs + 256 * bearer + 2048 * bit u.secured + 8192 * bit mine
  let base : Reading :=
    { kind := .direct, org := u.org, slot := slot, code := 0, value := 0, ts := ts, tick := log.tick, captureTs := cap,
      unsync := !synced log.sync, status := BitVec.ofNat 16 status, flags := BitVec.ofNat 16 (256 * bit tz), payload := none,
      signature := none, childSeq := 0, child := 0 }
  if testBit plan.flags 2 && v.cls == 1 && v.attr == 2 && obis == plan.session then
    match v.value with
    | .octets b =>
      if b.length < 64 ∨ 1024 < b.length then typeReject s
      else
        let pay := if v.signed ∧ apdu.length ≤ 2048 then apdu else []
        queueReading src bearer
          { base with kind := .session, code := 0xF00, value := (BitVec.ofNat 64 (ofLe ((sha256 pay).take 8))).toInt,
                      payload := some pay, signature := if v.signed then v.signature else none } s
    | _ => typeReject s
  else if v.cls = 8 ∧ v.attr = 2 then
    match v.value with
    | .dateTime _ => s
    | _ => typeReject s
  else if !((v.cls == 1 || v.cls == 3 || v.cls == 4) && v.attr == 2) then typeReject s
  else
    match v.value, ruleFor recs v.cls obis v.attr with
    | .dateTime _, some r => if r.kind = 3 then s else typeReject s
    | .int i, some r =>
      if i < -(2 ^ 63) ∨ 2 ^ 63 ≤ i then typeReject s
      else if r.kind = 2 ∨ r.kind = 3 then s
      else
        let pay := if testBit plan.flags 0 && decide (apdu.length ≤ 1024) then some apdu else none
        queueReading src bearer { base with code := r.code, value := i, payload := pay } s
    | .int i, none =>
      if i < -(2 ^ 63) ∨ 2 ^ 63 ≤ i then typeReject s else { s with ingest.noRegister := s.ingest.noRegister.inc }
    | _, _ => typeReject s

/-- The readings of a body, in order (R246 to R248). -/
def takeValues (slot : Nat) (plan : Plan) (u : Upstream) (time : Option DateTime) (vs : List DlmsValue) (apdu : Bytes)
    (s : State) : State :=
  vs.foldl (fun s v => valueReading slot plan u time vs apdu v s) s

/-! ### Records (R260 to R265, R272) -/

/-- The first 28 bytes of a record. -/
def Record.body (r : Record) : Bytes :=
  le 4 r.slotCode.toNat ++ le 8 r.value.toNat ++ le 4 r.time.toNat ++ le 4 r.tick.toNat ++ le 2 r.status.toNat
    ++ le 2 r.flags.toNat ++ le 4 r.seq.toNat

/-- The 32 bytes of a record (R262). -/
def Record.bytes (r : Record) : Bytes := r.body ++ le 4 (crc32 r.body).toNat

/-- The leaf hash of a record (R272). -/
def Record.leaf (r : Record) : Bytes :=
  match r.payload with
  | some p => sha256 ([0] ++ r.bytes ++ sha256 p)
  | none => sha256 ([0] ++ r.bytes)

/-- The leaf hash of an event record (R272). -/
def eventLeaf (b : Bytes) : Bytes := sha256 ([2] ++ b)

/-- One level of the tree. -/
def treeLevel : List Bytes → List Bytes
  | a :: b :: t => sha256 ([1] ++ a ++ b) :: treeLevel t
  | l => l

/-- The levels from the padded leaves up, `n` of them. -/
def treeUp : Nat → List Bytes → List Bytes
  | 0, l => l
  | n + 1, l => treeUp n (treeLevel l)

/-- d = ⌈log2 n⌉. -/
def depthOf (n : Nat) : Nat := if n ≤ 1 then 0 else Nat.log2 (n - 1) + 1

/-- The leaves with their pads (R272). -/
def paddedLeaves (l : List Bytes) : List Bytes := l ++ List.replicate (2 ^ depthOf l.length - l.length) (sha256 [3])

/-- MERKLE_ROOT of a list of leaf hashes; 32 zero bytes for none (R32, R272). -/
def merkleRoot (l : List Bytes) : Bytes :=
  if l.isEmpty then zeros 32 else (treeUp (depthOf l.length) (paddedLeaves l)).headD (zeros 32)

/-- The sibling hashes of leaf `i`, level 0 first (R273). -/
def siblings : Nat → List Bytes → Nat → List Bytes
  | 0, _, _ => []
  | n + 1, l, i => l.getD (if i % 2 = 1 then i - 1 else i + 1) (zeros 32) :: siblings n (treeLevel l) (i / 2)

/-- A pair of slot and register code as a number (R282). -/
def pairOf (slot code : Nat) : Nat := slot * 4096 + code

/-- The set of a pair in the history cache (R256). -/
def cacheSet (pair : Nat) : Nat := (pair / 4096 + 7 * (pair % 4096)) % 4096

/-- The pair has a way. -/
def cacheHit (s : State) (pair : Nat) : Bool := (tgetD s.ingest.cache (cacheSet pair) []).contains pair

/-- A pair becomes the most recent of its set, replacing the least recent way, which is written back where it differs from
its grain (R256, R339). -/
def cacheTouch (pair : Nat) (s : State) : State :=
  let k := cacheSet pair
  let l := pair :: (tgetD s.ingest.cache k []).filter (· != pair)
  let s := { s with ingest.cache := tput s.ingest.cache k (l.take 4) }
  (l.drop 4).foldl (fun s p =>
    match tget s.store.dirtyPairs p with
    | some t => { s with store.writebacks := s.store.writebacks ++ [(p / 4096, t)] }
    | none => s) s

/-- The flags of the failed checks of a reading, and whether one of them rejects (R260, R261). -/
def validate (r : Rule) (h : Option Record) (x : Reading) : Nat × Bool :=
  let low := decide (x.value < r.lo)
  let high := decide (r.hi < x.value)
  let mine := x.status.getLsbD 13
  let skew := decide (0 < r.skew) && !mine && !x.unsync && decide (r.skew < ((x.ts : Int) - x.captureTs).natAbs)
  let (mono, step, order, none_) := match h with
    | none => (false, false, false, true)
    | some h =>
      if x.ts ≤ h.time.toNat then (false, false, true, false)
      else
        let hv := h.value.toInt
        let k := max 1 (ceilDiv (x.ts - h.time.toNat) r.interval)
        (r.kind = 1 && decide (x.value < hv),
          r.kind = 1 && decide (0 < r.maxInc) && decide (r.maxInc * k < x.value - hv), false, false)
  (bit low + 2 * bit high + 4 * bit mono + 8 * bit step + 16 * bit skew + 32 * bit order + 64 * bit none_,
    (testBit r.reject 0 && (low || high)) || (testBit r.reject 1 && mono) || (testBit r.reject 2 && step)
      || (testBit r.reject 3 && skew))

/-- The place of a reading's build: readings parked earlier come first on their engine (R46). -/
def buildSrc (x : Reading) (parked : Bool) : Src :=
  match x.kind with
  | .childSeal => Src.frame x.org
  | _ => { Src.slot x.slot x.org with ord := if parked then 0 else 1 }

/-- A record joins the tick's leaves with the next SEQUENCE (R265). -/
def addRecord (src : Src) (x : Reading) (prev : Option Record) (flags : Nat) (r : Record) (s : State) : State :=
  let n := s.cov.ledger.nextSeq + 1
  let s := { s with work.leaves := s.work.leaves ++ [r], work.built := s.work.built ++ [⟨src.engine, x, prev, flags⟩],
                    cov.ledger.nextSeq := n }
  change src 4 2 0 (le 4 n.toNat ++ zeros 4) s

/-- The history of a pair becomes a record (R261). -/
def putHistory (src : Src) (pair : Nat) (r : Record) (s : State) : State :=
  let r := { r with payload := none }
  cacheTouch pair (change src 4 1 pair r.bytes
    { s with cov.ledger.histories := tput s.cov.ledger.histories pair r,
             store.dirtyPairs := tput s.store.dirtyPairs pair s.work.log.tick })

/-- The record of a reading with given flags and status. -/
def recordOf (s : State) (x : Reading) (slotBits : Nat) (flags status : Nat) : Record :=
  { slotCode := BitVec.ofNat 32 (slotBits % 2 ^ 20 + x.code * 2 ^ 20), value := BitVec.ofInt 64 x.value,
    time := BitVec.ofNat 32 x.ts, tick := x.tick.truncate 32,
    status := BitVec.ofNat 16 (status + 32768 * bit x.payload.isSome), flags := BitVec.ofNat 16 flags,
    seq := s.cov.ledger.nextSeq, payload := x.payload }

/-- Build a direct reading (R259 to R261). -/
def buildDirect (src : Src) (x : Reading) (s : State) : State :=
  match ruleOf s.cov.sys.records x.code with
  | none => { s with ingest.noRegister := s.ingest.noRegister.inc }
  | some r =>
    let pair := pairOf x.slot x.code
    let h := tget s.cov.ledger.histories pair
    let s := if cacheHit s pair then cacheTouch pair s else s
    if h.any (fun h => h.time.toNat == x.ts && h.value.toInt == x.value) then
      { s with ingest.duplicates := s.ingest.duplicates.inc }
    else
      let (fl, rejects) := validate r h x
      if rejects then
        { raise src 0x4003 [x.slot, x.code, fl] s with ingest.valRejected := s.ingest.valRejected.inc }
      else
        let flags := fl + x.flags.toNat
        let rec_ := recordOf s x x.slot flags x.status.toNat
        let s := addRecord src x h flags rec_ s
        let s := if flags ≠ 0 then { s with ingest.valFlagged := s.ingest.valFlagged.inc } else s
        let s := if h.all (fun h => decide (h.time.toNat < x.ts)) then putHistory src pair rec_ s else s
        if testBit fl 4 && !x.status.getLsbD 13 then queueTimeMessage src x.slot (securityOf s x.slot) none s else s

/-- The part of a general-signing APDU that its signature covers: from the transaction-id to the content, the 64-byte
signature and its length left out (R269). (PRESUMED, log 49) -/
def signedPart (apdu : Bytes) : Bytes := (apdu.drop 1).take (apdu.length - 66)

/-- Build a session reading: its APDU is verified with the post key (R269, R270). (PRESUMED, log 49) -/
def buildSession (src : Src) (x : Reading) (s : State) : State :=
  let base := ((planOf s x.slot).map (·.postBase)).getD 0xFFFF
  let key := base + (endpoint s x.slot).keyGroup.toNat
  let pub := if base = 0xFFFF ∨ !usable s 3 key then none else slotValue s key
  let (good, s) := match pub with
    | none => (false, { s with ingest.sigNoKey := s.ingest.sigNoKey.inc })
    | some k =>
      let s := useSlot src key s
      let p := pointOf k
      let ok := match x.signature with
        | some (a, b) => ecdsaVerify p.1 p.2 (sha256 (signedPart (x.payload.getD []))) a b
        | none => false
      if ok then (true, s) else (false, raise src 0x4005 [x.slot, key] s)
  let flags := x.flags.toNat + 128 * bit (!good)
  let s := if flags ≠ 0 then { s with ingest.valFlagged := s.ingest.valFlagged.inc } else s
  addRecord src x none flags (recordOf s x x.slot flags (x.status.toNat + 4096 * bit good)) s

/-- LAST_SEQ of a child advances (R277, R278). -/
def advanceLastSeq (src : Src) (child seq : Nat) (s : State) : State :=
  match tget s.cov.ledger.children child with
  | none => s
  | some c =>
    let q := BitVec.ofNat 32 seq
    change src 4 3 child (le 8 c.ledger.toNat ++ le 4 q.toNat ++ zeros 4)
      { s with cov.ledger.children := tput s.cov.ledger.children child { c with lastSeq := some q } }

/-- The slot of a Tributary entry whose endpoint learning dropped. -/
def droppedSlot : Nat := 2 ^ 20

/-- Build a Tributary reading (R264, R278). -/
def buildTributary (src : Src) (x : Reading) (s : State) : State :=
  let s := advanceLastSeq src x.child x.childSeq s
  if x.slot = droppedSlot then s
  else
    addRecord src x none 0 { recordOf s x x.slot (x.flags.toNat % 32768 + 32768)
      ((x.status.toNat - field x.status.toNat 8 3 * 256 - 32768 * bit (testBit x.status.toNat 15)) + 1024) with seq := s.cov.ledger.nextSeq } s

/-- Build a child seal's record (R278). -/
def buildChildSeal (src : Src) (x : Reading) (s : State) : State :=
  addRecord src x none 0 (recordOf s x x.child x.flags.toNat x.status.toNat) s

/-- Build a meter state: it always becomes a record and replaces the history of its pair (R503). -/
def buildMeterState (src : Src) (x : Reading) (s : State) : State :=
  let pair := pairOf x.slot x.code
  let r := recordOf s x x.slot 0 x.status.toNat
  putHistory src pair r (addRecord src x (tget s.cov.ledger.histories pair) 0 r s)

/-- Build a reading (R254). -/
def buildReading (parked : Bool) (x : Reading) (s : State) : State :=
  let src := buildSrc x parked
  match x.kind with
  | .direct => buildDirect src x s
  | .session => buildSession src x s
  | .tributary => buildTributary src x s
  | .childSeal => buildChildSeal src x s
  | .meterState => buildMeterState src x s

/-! ### The admission pass (R254 to R257) -/

/-- The pass in progress: capacity left, readings parked in it, session readings admitted, queues stopped. -/
structure Pass where
  cap      : Nat
  parked   : List Reading
  sessions : Nat
  stopped  : List Nat
  deriving DecidableEq, Repr

/-- A direct reading that may not be built now (R255). (DEDUCED, log 96) -/
def mustPark (s : State) (p : Pass) (x : Reading) : Bool :=
  x.kind == .direct &&
    (!cacheHit s (pairOf x.slot x.code)
      || (s.ingest.parked1 ++ p.parked).any fun y => y.slot == x.slot && y.code == x.code)

/-- Take up to `n` readings from the head of a queue (R254). -/
def takeQueue (bearer : Nat) : Nat → Pass → State → Pass × State
  | 0, p, s => (p, s)
  | n + 1, p, s =>
    match s.ingest.queue bearer with
    | [] => (p, s)
    | x :: rest =>
      let stop := ({ p with stopped := bearer :: p.stopped }, s)
      if p.stopped.contains bearer then (p, s)
      else if mustPark s p x then
        if 512 ≤ p.parked.length then stop
        else
          let pair := pairOf x.slot x.code
          let s := { s with ingest := s.ingest.setQueue bearer rest }
          let s := if cacheHit s pair || s.ingest.fetches.contains pair then s
            else { s with ingest.fetches := s.ingest.fetches ++ [pair], store.fetches := s.store.fetches.inc }
          takeQueue bearer n { p with parked := p.parked ++ [x] } s
      else if p.cap = 0 ∨ (x.kind = .session ∧ 4 ≤ p.sessions) then stop
      else
        let s := buildReading false x { s with ingest := s.ingest.setQueue bearer rest }
        takeQueue bearer n { p with cap := p.cap - 1, sessions := p.sessions + bit (x.kind == .session) } s

/-- The readings built and parked by the Weir in one processing (R254, R255). In last gasp nothing is admitted and what
waits is discarded (R257). -/
def admitOffers (s : State) : State :=
  if s.work.admitted then s
  else
    let due := s.ingest.parked2
    let s := due.foldl (fun s x =>
      let pair := pairOf x.slot x.code
      if x.kind == .direct && !cacheHit s pair then cacheTouch pair s else s) s
    let s := due.foldl (fun s x => buildReading true x s) s
    if s.work.lastGasp then
      let queued := s.ingest.plcQ.length + s.ingest.radioQ.length + s.ingest.serialQ.length + s.ingest.tribQ.length
      let parked := s.ingest.parked1.length
      let s := if queued + parked = 0 then s else raise (Src.sweep 16) 0x4006 [queued, parked] s
      { s with work.admitted := true, ingest.plcQ := [], ingest.radioQ := [], ingest.serialQ := [], ingest.tribQ := [],
               ingest.parked1 := [], ingest.parked2 := [], ingest.builtMax := s.ingest.builtMax.sample due.length }
    else
      let done_ (q : Nat) : Bool := due.any fun x => pairOf x.slot x.code == q
      let s := { s with ingest.fetched := s.ingest.fetched.filter (fun q => !done_ q),
                        ingest.fetches := s.ingest.fetches.filter (fun q => !done_ q) }
      let p0 : Pass := ⟨2048 - due.length, [], 0, []⟩
      let (p, s) := [1, 2, 3, 4].foldl (fun (a : Pass × State) b => takeQueue b 512 a.1 a.2) (p0, s)
      let (p, s) := [1, 2, 3, 4].foldl (fun (a : Pass × State) b => takeQueue b (a.2.ingest.queue b).length a.1 a.2) (p, s)
      { s with work.admitted := true, ingest.parked2 := s.ingest.parked1, ingest.parked1 := p.parked,
               ingest.builtMax := s.ingest.builtMax.sample (2048 - p.cap),
               ingest.parkedMax := s.ingest.parkedMax.sample p.parked.length }

end Sys2Proof.Machine
end

