-- ==== Sys2Proof/Machine/SealOps.lean ====
section
/-!
DEFINITION. The seal body, its hash and signature, and the state-change digest (R29 to R33, R611).
-/
namespace Sys2Proof.Machine

open Sys2Proof

/-- The code of a lock state in the seal (R29). -/
def LockState.code : LockState → Nat
  | .freeRun => 0 | .acquiring => 1 | .locked => 2

/-- The 144 bytes of a seal body (R29). -/
def Seal.bytes (x : Seal) : Bytes :=
  [1, x.flags, x.lock, 0] ++ le 6 x.tick.toNat ++ zeros 2 ++ le 6 x.start.sec.toNat ++ le 4 x.start.ns.toNat ++ zeros 2
    ++ le 4 x.readLeaves.toNat ++ le 4 x.eventLeaves.toNat ++ fit 32 x.merkleRoot ++ fit 32 x.stateDigest ++ fit 32 x.prevHash
    ++ le 4 x.epoch.toNat ++ zeros 4 ++ le 8 x.ledgerId.toNat

/-- The signature as 64 bytes: r, then s, little-endian (R38). -/
def sigBytes (p : Nat × Nat) : Bytes := le 32 p.1 ++ le 32 p.2

/-- A seal with its signature, 144 or 208 bytes (R38). -/
def Seal.full (x : Seal) : Bytes := x.bytes ++ (match x.sig with | some p => sigBytes p | none => [])

/-- SIGNED is set. -/
def Seal.signed (x : Seal) : Bool := x.flags.getLsbD 0

/-- The bytes of a state-change entry (R33). -/
def Change.bytes (c : Change) : Bytes :=
  [BitVec.ofNat 8 c.block, BitVec.ofNat 8 c.kind] ++ le 2 c.value.length ++ le 4 c.index ++ c.value

/-- The identity of the object a change belongs to: its removed bit apart for a route (R611). -/
def Change.object (c : Change) : Nat × Nat × Nat :=
  (c.block, c.kind, if c.block = 3 ∧ c.kind = 4 then c.index - 256 * bit (testBit c.index 8) else c.index)

/-- One entry for each object, at the place of its last change in the order of R46 (R611). The list comes latest first.
(DEDUCED, log 7) (DEDUCED, log 16) -/
def finalChanges (latestFirst : List Change) : List Change :=
  let sorted := sortBy (fun a b => a.src.le b.src) latestFirst.reverse
  (sorted.reverse.foldl (fun (acc : List (Nat × Nat × Nat) × List Change) c =>
    if acc.1.contains c.object then acc else (c.object :: acc.1, c :: acc.2)) ([], [])).2

/-- The state-change digest (R33). -/
def stateDigest (latestFirst : List Change) : Bytes := sha256 ((finalChanges latestFirst).flatMap Change.bytes)

/-- The closed seal of a tick: from those not yet durable, or from the store (R39, R40, R469). -/
def sealAt (s : State) (t : Nat) : Option Seal :=
  (s.seals.find? fun x => x.tick.toNat == t).orElse fun _ => (tget s.store.seals t).map (·.body)

/-- The latest closed seal. -/
def latestSeal (s : State) : Option Seal := s.sys.prevSeal.bind fun p => sealAt s p.1.toNat

/-- The state as of a seal, where the block still holds it. -/
def stateAsOf (s : State) (t : BitVec 48) : Option Covered := (s.snaps.find? (·.1 == t)).map (·.2)

end Sys2Proof.Machine
end

