-- ==== Sys2Proof/Machine/Ingest.lean ====
section
/-!
DEFINITION. Ingest commands: frames and APDUs, collection reads, the serial poller, datagrams, Tributary, and the table
sweeps (chapters 6 and 7).
-/
namespace Sys2Proof.Machine

open Sys2Proof

/-! ### Frames (R158, R163, R242) -/

/-- A native DATA frame (R107, R134, R158): the rows of R158, then ingest. -/
def execData (r : PlcRx) (u : Upstream) (s : State) : Answer :=
  whenProcessing s fun s =>
    let src := plcSrc r s
    let prev := (endpoint s (linkEntry s r.srcAddr.toNat).peer.slot.toNat).lastDsn
    match plcHandle src r s with
    | (none, s) => s
    | (some slot, s) => (ingestFrame { u with eui := euiOfSlot s slot, dsn := r.dsn } (some prev) s).2

/-- The link entry of an IEEE 1901.2 peer: its own, or a new one for an accepted frame (R163). (DEDUCED, log 39) -/
def ieeeLink (src : Src) (slot : Nat) (s : State) : Option Nat × State :=
  match (linkOfSlot s.cov.tables.links slot).filter fun i => ((linkEntry s i).plc?).isSome with
  | some i => (some i, s)
  | none =>
    let fresh (i : Nat) (s : State) : Option Nat × State :=
      (some i, putLink src i ⟨⟨BitVec.ofNat 20 slot, true, false, true, false, true⟩,
        .plc { PlcPart.initial with unconfirmed := false }⟩ s)
    match grantLink s slot false s.work.log.tick with
    | .reused i => (some i, s)
    | .fresh i => fresh i s
    | .reclaimed i old => fresh i (reclaim src i old slot s)
    | .refused => (none, s)

/-- The map bytes of a tone map response: tone groups in bytes 0 to 2, modulation in byte 3 (R163). -/
def toneMap (tones modulation : Nat) : List (BitVec 4) :=
  ((le 3 tones ++ le 1 modulation).flatMap fun b => ([BitVec.ofNat 4 b.toNat, BitVec.ofNat 4 (b.toNat / 16)] : List (BitVec 4))) ++ List.replicate 408 0

/-- What an accepted IEEE 1901.2 frame does with its link (R163). -/
def ieeeKind (src : Src) (kind : MacKind) (i : Nat) (s : State) : State :=
  match kind with
  | .toneMapResponse tones m => modPlc src i (fun p => { p with map := toneMap tones.toNat m.toNat }) s
  | .toneMapRequest => plcSend src 0 0 i true 1 ((linkEntry s i).bytes.take 4) s
  | _ => s

/-- An accepted IEEE 1901.2 frame of a slot: sequence number, reassembly, link and home phase (R163). (DEDUCED, log 39) -/
def ieeeAccepted (src : Src) (phase : BitVec 2) (eui : BitVec 64) (seq : Byte) (kind : MacKind) (frag : Option Fragment)
    (slot : Nat) (s : State) : State :=
  let s := modEndpoint src slot (fun e => { e with lastDsn := seq }) s
  match ieeeLink src slot { s with plc.frags := (takeFragment s.work.log.tick eui frag s.plc.frags).2 } with
  | (none, s) => s
  | (some i, s) => ieeeKind src kind i (modPlc src i (fun p => { p with home := phase }) s)

/-- A beacon request is answered by a beacon in the queue (R163). -/
def ieeeBeacon (org : Org) (seq : Byte) (s : State) : State :=
  plcEnqueue (Src.frame org)
    { queueId := 0, cls := 0, ftype := 1, link := 0xFFF, peer := 0xFFF, dsn := seq, attempt := 1, robust := true,
      retry := false, ackReq := false, route := [], slot := anyStripe s, queued := 0, sending := false,
      payload := beaconPayload s (s.work.log.tick.toNat + 2) } s

/-- Any other frame: one that repeats the endpoint's last number with RETRY is a duplicate; ingest accepts or drops the rest.
(PRESUMED, log 40) -/
def ieeeFrame (org : Org) (phase : BitVec 2) (eui : BitVec 64) (seq : Byte) (retry secured : Bool) (kind : MacKind)
    (frag : Option Fragment) (u : Upstream) (s : State) : State :=
  let src := Src.onInput (euiEngine s eui) org
  let prev := (lookup s eui).map fun k => (endpoint s k).lastDsn
  if retry && prev == some seq then { s with plc.duplicates := s.plc.duplicates.inc }
  else
    match ingestFrame { u with org := org, eui := eui, dsn := seq, retry := retry, secured := secured } prev s with
    | (none, s) => s
    | (some slot, s) => ieeeAccepted src phase eui seq kind frag slot s

/-- An IEEE 1901.2 MAC frame within the supported subset (R163). -/
def execIeee1901MacFrame (org : Org) (phase : BitVec 2) (eui : BitVec 64) (seq : Byte) (retry secured : Bool)
    (kind : MacKind) (frag : Option Fragment) (u : Upstream) (s : State) : Answer :=
  whenProcessing s fun s =>
    match kind with
    | .meshFrame => { s with plc.meshDropped := s.plc.meshDropped.inc }
    | .beaconRequest => ieeeBeacon org seq s
    | _ => ieeeFrame org phase eui seq retry secured kind frag u s

/-! ### APDUs (R245 to R248, R267) -/

/-- A slot's outstanding read is answered (R267), and its serial poll with it (R249). -/
def readAnswered (slot : Nat) (s : State) : State :=
  { s with ingest.reads := s.ingest.reads.filter (fun r => r.1 != slot),
           ingest.serialA := s.ingest.serialA.filter (fun p => p.slot != slot),
           ingest.serialB := s.ingest.serialB.filter (fun p => p.slot != slot) }

/-- Mark a log entry's application data as taken; none where they have been. -/
def takeOnce (u : Upstream) (s : State) : Option State :=
  let k := (0x2000 + u.org.port, u.org.pos)
  if s.work.handled.contains k then none else some { s with work.handled := k :: s.work.handled }

/-- A data notification (R248, R253, R267). (DEDUCED, log 112) -/
def execDataNotification (u : Upstream) (time : Option DateTime) (values : List DlmsValue) (apdu : List Byte) (s : State) :
    Answer :=
  whenProcessing s fun s =>
    match ingestFrame u none s with
    | (none, s) => s
    | (some slot, s) =>
      match takeOnce u s with
      | none => s
      | some s =>
        match planOf s slot with
        | some p =>
          if testBit p.flags 1 then takeValues slot p u time values apdu s
          else { s with ingest.noPlan := s.ingest.noPlan.inc }
        | none => { s with ingest.noPlan := s.ingest.noPlan.inc }

/-- A GET response to a collection read (R247, R248, R267). A refused public association counts in ASSOC_REFUSED.
(DEDUCED, log 112) -/
def execGetResponse (u : Upstream) (refused : Bool) (values : List DlmsValue) (apdu : List Byte) (s : State) : Answer :=
  whenProcessing s fun s =>
    match ingestFrame u none s with
    | (none, s) => s
    | (some slot, s) =>
      match takeOnce u s with
      | none => s
      | some s =>
        let s := readAnswered slot s
        if refused then { s with ingest.assocRefused := s.ingest.assocRefused.inc }
        else
          match planOf s slot with
          | some p => takeValues slot p u none values apdu s
          | none => s

/-! ### Collection reads (R249, R257, R266, R267) -/

/-- o(s), the offset of a slot in its period (R267). -/
def readOffset (slot period : Nat) : Nat := slot * 2654435761 % 2 ^ 32 % period

/-- A value k × PERIOD_S + o lies after the tick-start before and not after this one (R267). -/
def readDue (slot period prevNs nowNs : Nat) : Bool :=
  let o := readOffset slot period
  let upTo (n : Nat) : Nat := if n < o * 1000000000 then 0 else (n / 1000000000 - o) / period + 1
  decide (upTo prevNs < upTo nowNs)

/-- The descriptors of a read: the plan's registers, and the Clock where a KIND 3 rule exists (R267). -/
def readDescriptors (recs : Tab Bytes) (p : Plan) : List Bytes :=
  (p.regs.filterMap fun c => (ruleOf recs c).map fun r => be 2 r.cls ++ r.obis ++ [BitVec.ofNat 8 r.attr])
    ++ (if (rules recs).any (·.kind == 3) then [[0, 8, 0, 0, 1, 0, 0, 0xFF, 2]] else [])

/-- The GET request of a read (R246, R267). (PRESUMED, log 48) -/
def readRequest (ds : List Bytes) : Bytes :=
  match ds with
  | [d] => [0xC0, 1, 0x81] ++ d ++ [0]
  | _ => [0xC0, 3, 0x81, BitVec.ofNat 8 ds.length] ++ ds.flatMap fun d => d ++ [0]

/-- The poller of a serial port takes a request: sent at once where no other is in progress (R249). -/
def serialPoll (portB : Bool) (slot : Nat) (req : Bytes) (s : State) : State :=
  let q := if portB then s.ingest.serialB else s.ingest.serialA
  let s := if q.isEmpty then serialOut portB req s else s
  let q := q ++ [⟨slot, 0, req⟩]
  if portB then { s with ingest.serialB := q } else { s with ingest.serialA := q }

/-- An APDU to an endpoint on its bearer (R244, R249). -/
def sendApdu (src : Src) (slot security : Nat) (apdu : Bytes) (s : State) : State :=
  let port := (endpoint s slot).port.toNat
  match portGroup port, linkOfSlot s.cov.tables.links slot with
  | 1, some i => plcDatagram src i (wrapApdu security apdu) s
  | 2, some i => radioSend src i (wrapApdu security apdu) s
  | 6, _ => serialPoll false slot apdu s
  | 7, _ => serialPoll true slot apdu s
  | _, _ => s

/-- An endpoint's read falls due (R257, R267). -/
def execCollectionReadDue (slot : BitVec 20) (s : State) : Answer :=
  whenProcessing s fun s =>
    let sl := slot.toNat
    let e := endpoint s sl
    match planOf s sl with
    | none => s
    | some p =>
      let now := (logUtc s.work.log).toNat * 1000000000 + s.work.log.start.ns.toNat
      let due := 0 < p.period && readDue sl p.period (now - nominalTickNs s) now
      if !(due || s.ingest.deferred.contains sl) || !(e.state == .active || e.state == .silent) then s
      else
        let b := bearerOf e.port.toNat
        let s := { s with ingest.deferred := s.ingest.deferred.filter (· != sl) }
        if queueLimit b * 3 < (s.ingest.queue b).length * 4 then { s with ingest.deferred := s.ingest.deferred ++ [sl] }
        else
          let ds := readDescriptors s.cov.sys.records p
          if ds.isEmpty || b == 4 || b == 0 then s
          else
            sendApdu (Src.sweep (recordEngine sl)) sl p.security (readRequest ds)
              { s with ingest.reads := s.ingest.reads.filter (fun r => r.1 != sl) ++ [(sl, s.work.log.tick)] }

/-- A read with no reply in a log within 256 ticks of its request fails (R267). -/
def execCollectionReadTimeout (slot : BitVec 20) (s : State) : Answer :=
  whenProcessing s fun s =>
    match s.ingest.reads.find? (fun r => r.1 == slot.toNat) with
    | none => s
    | some r =>
      if r.2.toNat + 256 ≤ s.work.log.tick.toNat then
        { readAnswered slot.toNat s with ingest.readFailed := s.ingest.readFailed.inc }
      else s

/-- A serial request without a reply is repeated at most twice; a third silence fails the read (R249). -/
def execSerialReplyTimeout (portB : Bool) (s : State) : Answer :=
  whenCapturing s fun s =>
    let q := if portB then s.ingest.serialB else s.ingest.serialA
    let put (q : List SerialPoll) (s : State) : State :=
      if portB then { s with ingest.serialB := q } else { s with ingest.serialA := q }
    match q with
    | [] => s
    | p :: rest =>
      if p.repeats < 2 then put ({ p with repeats := p.repeats + 1 } :: rest) (serialOut portB p.request s)
      else
        let s := put rest { s with ingest.readFailed := s.ingest.readFailed.inc,
                                   ingest.reads := s.ingest.reads.filter (fun r => r.1 != p.slot) }
        match rest with
        | n :: _ => serialOut portB n.request s
        | [] => s

/-- A fetch for a parked reading completes (R255, R339): an unreadable grain leaves every history of the slot absent.
(DEDUCED, log 50) -/
def execHistoryFetch (slot : BitVec 20) (code : BitVec 12) (readable : Bool) (s : State) : Answer :=
  whenRunning s fun s =>
    let pair := pairOf slot.toNat code.toNat
    if !s.ingest.fetches.contains pair then s
    else
      let s := { s with ingest.fetches := s.ingest.fetches.filter (· != pair), ingest.fetched := s.ingest.fetched ++ [pair] }
      if readable then s
      else
        let lga := 0x10000 + slot.toNat
        raiseU 0x6005 [tgetD s.store.map lga 0xFFFFFFFF, 2, lga]
          { s with store.uncorrectable := s.store.uncorrectable.inc,
                   cov.ledger.histories := s.cov.ledger.histories.filter fun h => h.1 / 4096 != slot.toNat }

/-! ### Datagrams (R229 to R231, R281) -/

/-- A datagram to a child as a DOWN message (R281). -/
def sendDown (n : Nat) (datagram : Bytes) (s : State) : State :=
  ethernetOut (child s n).ethPort.toNat (.tributary (some n) ([0x54, 0x52, 2, 3] ++ datagram)) s

/-- A datagram to an endpoint on its PORT (R229 step 4). -/
def sendDatagram (src : Src) (slot : Nat) (datagram : Bytes) (s : State) : State :=
  let port := (endpoint s slot).port.toNat
  match portGroup port, linkOfSlot s.cov.tables.links slot with
  | 1, some i => plcDatagram src i datagram s
  | 2, some i => radioSend src i datagram s
  | 6, _ => serialPoll false slot datagram s
  | 7, _ => serialPoll true slot datagram s
  | _, _ => if 8 ≤ port then sendDown (port - 7) datagram s else s

/-- A datagram takes the Spillway (R231). -/
def spillway (src : Src) (x : BitVec 64) (datagram : Bytes) (s : State) : State :=
  if cfg s 0x0303 0 6 2 64 ≤ s.tstat.floods then { s with tstat.spillDropped := s.tstat.spillDropped.inc }
  else
    let kids := s.cov.tables.children.filter fun c => c.2.state != .free
    let s := kids.foldl (fun s c => sendDown c.1 datagram s) s
    raise src 0x3008 [euiLow x, x.toNat / 2 ^ 32, kids.length]
      { s with tstat.floods := s.tstat.floods + 1, tstat.spillFloods := s.tstat.spillFloods.inc }

/-- The EUI-64 of an interface identifier: bit 1 of the first octet inverted (R229). -/
def euiOfAddress (a : BitVec 128) : BitVec 64 := a.truncate 64 ^^^ 0x0200000000000000#64

/-- A datagram not addressed to the M20 is resolved (R229). -/
def routeDatagram (src : Src) (dest : BitVec 128) (datagram : Bytes) (s : State) : State :=
  let noRoute (s : State) : State := { s with tstat.noRoute := s.tstat.noRoute.inc }
  match longestMatch (allRoutes s) (dest.toNat / 2 ^ 64) with
  | none => noRoute s
  | some r =>
    match r.action with
    | .discard => noRoute s
    | .toChild a =>
      match childOfAddr s a with
      | some n => sendDown n datagram s
      | none => noRoute s
    | .toLocal =>
      let x := euiOfAddress dest
      match lookup s x with
      | some slot =>
        if !(endpoint s slot).parityOk then
          { raise src 0x300C [slot] s with tstat.parityErrors := s.tstat.parityErrors.inc }
        else if (endpoint s slot).state = .barred then s
        else sendDatagram src slot datagram s
      | none =>
        if s.cov.tables.spills.any (fun e => e.2.eui == x) then spillway src x datagram s else noRoute s

/-- A datagram from a head-end port (R229 to R231). -/
def execHeadEndDatagram (org : Org) (dest : BitVec 128) (datagram : List Byte) (s : State) : Answer :=
  whenProcessing s fun s => routeDatagram (Src.c0 org) dest datagram s

/-- A datagram from the Tributary parent, taken as if it had arrived on a head-end port (R281). -/
def execDown (org : Org) (dest : BitVec 128) (datagram : List Byte) (s : State) : Answer :=
  whenProcessing s fun s => routeDatagram (Src.c0 org) dest datagram s

/-- The aging sweep of a log, once (R224). -/
def sweepOnce (s : State) : State :=
  if s.work.swept then s else agingSweep s.work.log.tick { s with work.swept := true }

/-- The children's aging of a log, once (R227). -/
def childSweepOnce (s : State) : State :=
  if s.work.childSwept then s else childSweep s.work.log.tick { s with work.childSwept := true }

/-- The aging sweep (R224). -/
def execEndpointAgingSweep (s : State) : Answer := whenProcessing s sweepOnce

/-- Children's aging (R227). -/
def execChildAging (s : State) : Answer := whenProcessing s childSweepOnce

/-! ### Tributary, as parent (R227, R274 to R278) -/

/-- The answer to a batch (R276). -/
def batchAck (b : BatchIn) (n : Nat) (status : Nat) (s : State) : State :=
  let d := s.store.durable
  let held := match d with
    | some t => (stateAsOf s t).bind fun c => tget c.ledger.children n
    | none => none
  let mark := match held.bind (·.lastSeq) with | some q => q.toNat | none => 0xFFFFFFFF
  let ledger := match held with | some c => c.ledger | none => b.ledger
  ethernetOut b.ethPort.toNat (.tributary (some n) ([0x54, 0x52, 2, 2] ++ le 4 b.batchSeq.toNat ++ [BitVec.ofNat 8 status, 0]
    ++ le 6 ((d.map BitVec.toNat).getD 0xFFFFFFFFFFFF) ++ le 4 mark ++ le 8 ledger.toNat)) s

/-- The child entry a batch comes from, refreshed or created (R227). -/
def batchChild (src : Src) (b : BatchIn) (s : State) : Option Nat × State :=
  let heard := heardOf s.work.log.tick
  match childOfAddr s b.addr with
  | some n => (some n, putChild src n { child s n with ethPort := b.ethPort, lastHeard := heard, state := .active, eui := b.eui } s)
  | none =>
    match (if cfg s 0x0303 0 0xA 1 0 = 1 then none else freeChild s) with
    | some n =>
      (some n, raise src 0x3009 [n, b.ethPort.toNat, b.addr.toNat % 2 ^ 32]
        (putChild src n ⟨b.addr, b.eui, b.ethPort, .active, false, heard⟩ s))
    | none =>
      (none, raise src 0x300A [b.ethPort.toNat, b.addr.toNat % 2 ^ 32] { s with tstat.childRefused := s.tstat.childRefused.inc })

/-- One new entry of a batch: learned on the child's port, then queued (R278). -/
def batchEntry (src : Src) (b : BatchIn) (n : Nat) (e : BatchEntry) (s : State) : State :=
  let (slot, s) := match learn (Src.onInput (euiEngine s e.eui) b.org) e.eui (7 + n) s.work.log.tick none s with
    | (some k, s) => (k, s)
    | (none, s) => (droppedSlot, { s with ingest.tribDuplicates := s.ingest.tribDuplicates.inc })
  let x : Reading :=
    { kind := .tributary, org := b.org, slot := slot, code := e.code.toNat, value := e.value.toInt, ts := e.meterTime.toNat,
      tick := s.work.log.tick, captureTs := 0, unsync := false, status := e.status, flags := e.flags,
      payload := if e.status.getLsbD 15 && 2 ≤ b.version then some e.payload else none, signature := none,
      childSeq := e.sequence.toNat, child := n }
  queueReading src 4 x { s with ingest.queuedSeq := tput s.ingest.queuedSeq n e.sequence }

/-- The trailer of a batch, one reading of code 0xF01 (R278). -/
def batchTrailer (src : Src) (b : BatchIn) (n : Nat) (s : State) : State :=
  match b.trailer with
  | none => s
  | some (t, body) =>
    if b.version < 2 then s
    else
      queueReading src 4
        { kind := .childSeal, org := b.org, slot := n, code := 0xF01, value := t.toNat, ts := (logUtc s.work.log).toNat,
          tick := s.work.log.tick, captureTs := 0, unsync := false, status := 1024 + 8192, flags := 0, payload := some body,
          signature := none, childSeq := 0, child := n } s

/-- The child ledger record a batch is held against: that of the child, or a new one where its LEDGER_ID is another (R277). -/
def batchLedger (src : Src) (b : BatchIn) (n : Nat) (s : State) : State :=
  let fresh (s : State) : State :=
    change src 4 3 n (le 8 b.ledger.toNat ++ le 4 0xFFFFFFFF ++ zeros 4)
      { s with cov.ledger.children := tput s.cov.ledger.children n ⟨b.ledger, none⟩ }
  match tget s.cov.ledger.children n with
  | some c =>
    if c.ledger = b.ledger then s
    else
      fresh (raise src 0x4009 [n, c.ledger.toNat % 2 ^ 32, b.ledger.toNat % 2 ^ 32]
        { s with ingest.queuedSeq := tdel s.ingest.queuedSeq n })
  | none => fresh s

/-- The highest SEQUENCE queued or recorded from a child (R277). -/
def batchHigh (n : Nat) (s : State) : Option Nat :=
  match tget s.ingest.queuedSeq n, (tget s.cov.ledger.children n).bind (·.lastSeq) with
  | some q, some l => some (max q.toNat l.toNat)
  | some q, none => some q.toNat
  | none, some l => some l.toNat
  | none, none => none

/-- The entries of a batch above the highest SEQUENCE (R277). -/
def batchNew (b : BatchIn) (high : Option Nat) : List BatchEntry :=
  b.entries.filter fun e => match high with | some h => decide (h < e.sequence.toNat) | none => true

/-- A batch that is taken, or turned away BUSY where its readings do not fit (R276 to R278). -/
def batchTake (src : Src) (b : BatchIn) (n : Nat) (s : State) : State :=
  let high := batchHigh n s
  let fresh := batchNew b high
  let extra := bit (b.trailer.isSome && 2 ≤ b.version)
  if queueLimit 4 < s.ingest.tribQ.length + fresh.length + extra then
    batchAck b n 1 (raise src 0x400A [n, fresh.length] { s with ingest.tribBusy := s.ingest.tribBusy.inc })
  else
    let s := { s with ingest.tribDuplicates := s.ingest.tribDuplicates.add (b.entries.length - fresh.length),
                      ingest.batches := s.ingest.batches.inc }
    let s := match high, fresh with
      | some h, e :: _ => if h + 1 < e.sequence.toNat then raise src 0x4007 [n, h + 1, e.sequence.toNat] s else s
      | _, _ => s
    batchAck b n 0 (batchTrailer src b n (fresh.foldl (fun s e => batchEntry src b n e s) s))

/-- The layout of a batch agrees with itself (R274, R275). -/
def batchSound (b : BatchIn) : Bool :=
  b.consistent && b.entries.zipIdx.all fun e => e.1.sequence == b.firstSeq + BitVec.ofNat 32 e.2

/-- The unit takes batches on a port (R73, R274). -/
def takesBatches (s : State) (port : BitVec 2) : Bool :=
  ethRole s.cov.sys.records port.toNat == 1 && testBit (cfg s 0x0003 0 0x11 1 1) 1

/-- A BATCH (R227, R274 to R278, R280). -/
def takeBatch (b : BatchIn) (s : State) : State :=
  let src := Src.frame b.org
  if !takesBatches s b.ethPort then s
  else
    match batchChild src b s with
    | (none, s) => batchAck b 0 4 s
    | (some n, s) =>
      if b.version ≠ 1 ∧ b.version ≠ 2 then batchAck b n 2 (raise src 0x4008 [n, b.version, 2] s)
      else if !batchSound b then batchAck b n 3 { s with ingest.tribMalformed := s.ingest.tribMalformed.inc }
      else batchTake src b n (batchLedger src b n s)

/-- A BATCH command. -/
def execBatch (b : BatchIn) (s : State) : Answer := whenProcessing s (takeBatch b)

/-! ### Tributary, as child (R279, R280) -/

/-- An event of something seen outside processing that is a leaf of the seal of the tick in progress. -/
def noteEvent (code : Nat) (ps : List Nat) (s : State) : State :=
  { s with cap.log.events := s.cap.log.events ++ [(BitVec.ofNat 16 code, ps.map (BitVec.ofNat 32))] }

/-- The unit sends its ledger to a parent (R279). -/
def sendsUp (s : State) : Bool :=
  capturing s && s.bey.parentUp && cfg s 0x0003 0 0x18 16 0 != 0 && !s.ingest.trib.stopped

/-- An ACK from the parent (R279, R280). -/
def execTributaryAck (version status : Nat) (watermark : BitVec 32) (ledger : BitVec 64) (s : State) : Answer :=
  whenCapturing s fun s =>
    let t := s.ingest.trib
    if version < 1 then
      noteEvent 0x4008 [0, version, 2] { s with ingest.trib := { t with stopped := true, version := version } }
    else
      let t := { t with version := min version 2, stopped := false }
      let t := if status = 1 then { t with pauseTo := some (s.cap.tick + 16) } else t
      let mark := if watermark = 0xFFFFFFFF ∨ some ledger ≠ s.store.ledgerId then none else some watermark
      let t := if mark = none ∨ t.watermark = mark then t
        else { t with watermark := mark, lastTick := s.cap.tick,
                      sent := if t.sent.toNat ≤ watermark.toNat then watermark + 1 else t.sent }
      { s with ingest.trib := t }

/-- The records a batch takes from the store: those from SEQUENCE `q` on, within the window, up to the end of a signed seal
(R275, R279). -/
def batchRecords (s : State) (v1 : Bool) (hi : Nat) : Nat → Nat → Nat → List StoredRecord
  | 0, _, _ => []
  | n + 1, q, room =>
    match tget s.store.records q with
    | none => []
    | some r =>
      let size := if v1 then 40 else 48 + ((r.record.payload.getD []).length + 3) / 4 * 4
      if hi ≤ q ∨ room < size then []
      else
        let last := match tget s.store.records (q + 1) with | some r2 => r2.tick != r.tick | none => true
        let signed := ((tget s.store.seals r.tick.toNat).bind (·.body.sig)).isSome
        if last && signed then [r] else r :: batchRecords s v1 hi n (q + 1) (room - size)

/-- The bytes of an entry of a batch (R275). -/
def batchEntryBytes (s : State) (v1 : Bool) (r : StoredRecord) : Bytes :=
  let x := euiBytes (euiOfSlot s (r.record.slotCode.toNat % 2 ^ 20)) ++ r.record.bytes
  if v1 then x
  else
    let p := r.record.payload.getD []
    x ++ le 2 p.length ++ zeros 6 ++ padTo 4 p

/-- The first SEQUENCE the next batch may take (R279). -/
def batchStart (s : State) : Nat :=
  max s.ingest.trib.sent.toNat (match s.store.records with | r :: _ => r.1 | [] => 0)

/-- The records of the next batch (R275, R279). -/
def nextBatch (s : State) : List StoredRecord :=
  let first := match s.store.records with | r :: _ => r.1 | [] => 0
  let low := match s.ingest.trib.watermark with | some w => w.toNat + 1 | none => first
  batchRecords s (s.ingest.trib.version == 1) (low + 16384) 403 (batchStart s) (16384 - 48 - 208)

/-- The bytes of a BATCH of the records `all`, `r` their first (R275). -/
def batchBytes (s : State) (r : StoredRecord) (all : List StoredRecord) : Bytes :=
  let t := s.ingest.trib
  let v1 := t.version == 1
  let last := all.getLastD r
  let ends := match tget s.store.records (last.record.seq.toNat + 1) with | some r2 => r2.tick != last.tick | none => true
  let seal_ := (tget s.store.seals last.tick.toNat).bind fun x => if ends && x.body.sig.isSome then some x.body else none
  let trailer := if v1 then [] else (seal_.map Seal.full).getD []
  let head := [0x54, 0x52, if v1 then 1 else 2, 1] ++ euiBytes (ownEui s) ++ le 8 ((s.store.ledgerId.map BitVec.toNat).getD 0)
    ++ le 4 t.batchSeq.toNat ++ le 4 r.record.seq.toNat ++ le 2 all.length ++ [BitVec.ofNat 8 (bit !trailer.isEmpty), 0]
    ++ le 6 (if trailer.isEmpty then 0 else last.tick.toNat) ++ zeros 10
  head ++ all.flatMap (batchEntryBytes s v1) ++ trailer

/-- A batch is sent where records wait and the window has room (R275, R279, R280). -/
def sendBatch (s : State) : State :=
  match nextBatch s with
  | [] => s
  | r :: rs =>
    ethernetOut (headPort s) (.tributary none (batchBytes s r (r :: rs)))
      { s with ingest.trib := { s.ingest.trib with sent := BitVec.ofNat 32 (batchStart s + (rs.length + 1)),
                                                   batchSeq := s.ingest.trib.batchSeq + 1 } }

/-- A child sends its records (R279): not during a BUSY pause, not on a mirror. -/
def execTributarySend (s : State) : Answer :=
  done s (if sendsUp s && s.ingest.trib.pauseTo.isNone then sendBatch s else s)

/-- With no advance for 256 ticks while records are outstanding, the child sends again from the watermark (R279). -/
def execTributaryResend (s : State) : Answer :=
  whenCapturing s fun s =>
    let t := s.ingest.trib
    let low := match t.watermark with | some w => w + 1 | none => 0
    if low.toNat < t.sent.toNat ∧ t.lastTick.toNat + 256 ≤ s.cap.tick.toNat then
      { s with ingest.trib := { t with sent := low, lastTick := s.cap.tick } }
    else s

/-- Sending resumes 16 ticks after a BUSY answer (R279). -/
def execTributaryBusyPauseEnd (s : State) : Answer :=
  whenCapturing s fun s =>
    match s.ingest.trib.pauseTo with
    | some t => if t.toNat ≤ s.cap.tick.toNat then { s with ingest.trib.pauseTo := none } else s
    | none => s

end Sys2Proof.Machine
end

