-- ==== Sys2Proof/Machine/Metrology.lean ====
section
/-!
DEFINITION. Feeder metrology: the channels and the tick's report, the per-tick quantities and energies, balance periods,
and phase identification (chapter 8).
-/
namespace Sys2Proof.Machine

open Sys2Proof

/-! ### Channels (R286 to R294) -/

/-- The settings of a channel (R292). -/
structure ChanCfg where
  source    : Nat
  response  : Nat
  invert    : Bool
  delay     : Nat
  ratio     : Nat
  fullScale : Nat
  gain      : Int
  offset    : Int
  deriving DecidableEq, Repr

/-- The settings of channel `c` under given records (R292). -/
def chanCfg (recs : Tab Bytes) (c : Nat) : ChanCfg :=
  let n (o l d : Nat) : Nat := cfgOf recs 0x0501 c o l d
  { source := n 0 1 (bit (decide (c < 4))), response := n 1 1 10, invert := testBit (n 2 1 0) 0, delay := n 3 1 0,
    ratio := n 4 4 1024, fullScale := n 8 4 (if c < 4 then 500000 else 1000000),
    gain := (BitVec.ofNat 16 (n 0xC 2 0)).toInt, offset := (BitVec.ofNat 16 (n 0xE 2 0)).toInt }

/-- The response ROM: sinc order, D_post, the multiple of M in the group delay, span (R288). -/
def responseRom : List (Nat × Nat × Nat × Nat) :=
  [(3, 1, 0, 3), (4, 1, 0, 4), (5, 1, 0, 5), (3, 1, 7, 17), (4, 1, 7, 18), (5, 1, 7, 19), (3, 2, 15, 17), (4, 2, 15, 17),
   (5, 2, 15, 18), (3, 4, 37, 20), (4, 4, 37, 20), (5, 4, 37, 20), (4, 8, 57, 15), (5, 8, 57, 15), (4, 16, 97, 13),
   (5, 16, 97, 13)]

/-- Group delay in half modulator cycles (R288). (DESIGN CHOICE, log 109) -/
def ChanCfg.delayHalf (x : ChanCfg) : Nat :=
  let r := responseRom.getD x.response (3, 1, 0, 3)
  let m := x.ratio / r.2.1
  r.1 * (m - 1) + 2 * r.2.2.1 * m

/-- Span of the response in outputs (R288). -/
def ChanCfg.span (x : ChanCfg) : Nat := (responseRom.getD x.response (3, 1, 0, 3)).2.2.2

/-- A change of these settings restarts the channel (R290). -/
def restarts (a b : ChanCfg) : Bool :=
  a.source != b.source || a.ratio != b.ratio || a.response != b.response || a.delay != b.delay

/-- The channels that a change of records restarts. (DEDUCED, log 52) -/
def restartMask (old new : Tab Bytes) : Nat :=
  (List.range 32).foldl (fun m c => m + bit (restarts (chanCfg old c) (chanCfg new c)) * 2 ^ c) 0

/-- The channels of a mask restart: their next outputs, as many as the span, are unsettled (R290). -/
def restartChannels (recs : Tab Bytes) (mask : Nat) (settle : List Nat) : List Nat :=
  (List.range 32).map fun c => if testBit mask c then (chanCfg recs c).span else settle.getD c 0

/-- A step of the time base realigns every frame (R290). -/
def metroTimeStep (s : State) : State :=
  { s with metro.timeStep := true, metro.settle := restartChannels s.hw.records 0xFFFFFFFF s.metro.settle }

/-- The current channel of line conductor `k` (R286). -/
def currentChan (k : Nat) : Nat := 4 + 4 * (k / 3) + k % 3

/-- The pair of a line conductor is valid (R297). -/
def pairValid (recs : Tab Bytes) (k : Nat) : Bool :=
  let v := chanCfg recs (k % 3)
  let i := chanCfg recs (currentChan k)
  v.source == 1 && i.source == 1 && v.ratio == i.ratio && v.response == i.response && decide (v.ratio ≤ 2048)

/-- The valid pairs as a mask. -/
def pairMask (recs : Tab Bytes) : Nat := (List.range 21).foldl (fun m k => m + bit (pairValid recs k) * 2 ^ k) 0

/-! ### Kernels (R296) -/

/-- π in units of 2^-128. (PRESUMED, log 53) -/
def piFixed : Int := 1069028584064966747859680373161870783300

/-- The rest of a cosine or sine series in units of 2^-128: `t` the next term, `k` the larger divisor of the one after
it, `x2` the square of the argument. (PRESUMED, log 53) -/
def trigSeries : Nat → Int → Int → Int → Int
  | 0, _, _, _ => 0
  | n + 1, k, t, x2 => t + trigSeries n (k + 2) (-(t * x2) / (2 ^ 128 * (k * (k - 1)))) x2

/-- cos of an angle from 0 to π, both in units of 2^-128. -/
def cosFixed (x : Int) : Int := trigSeries 32 2 (2 ^ 128) (x * x / 2 ^ 128)

/-- sin of an angle from 0 to π, both in units of 2^-128. -/
def sinFixed (x : Int) : Int := trigSeries 32 3 x (x * x / 2 ^ 128)

/-- The angle of kernel index `j`. -/
def kernelAngle (j : Nat) : Int := piFixed * (2 * j + 1) / 8192

/-- 32,767 times a fixed-point value, rounded. (PRESUMED, log 53) -/
def round15 (v : Int) : Int := (32767 * v + 2 ^ 127) / 2 ^ 128

/-- cs and sn of kernel index `j` (R296). (PRESUMED, log 53) -/
def kernels (j : Nat) : Int × Int := (round15 (cosFixed (kernelAngle j)), round15 (sinFixed (kernelAngle j)))

/-! ### The report of a tick (R289, R291, R293, R295, R296) -/

/-- A formed output: the cycle at which its frame ends, its code, UNSETTLED and OVERRANGE. -/
structure FormedOutput where
  frameEnd  : Nat
  x         : Int
  unsettled : Bool
  ovr       : Bool
  deriving DecidableEq, Repr

/-- Twice the modulator cycle of an output's instant (R289). -/
def instantHalf (g : ChanCfg) (frameEnd : Nat) : Int := 2 * (frameEnd : Int) - g.delayHalf

/-- The output belongs to the tick from `t0` to `t1` ns (R289): half a cycle lasts 15,625 / 128 ns (R287). -/
def inTick (g : ChanCfg) (t0 t1 : Nat) (frameEnd : Nat) : Bool :=
  let h := instantHalf g frameEnd * 15625
  decide ((t0 : Int) * 128 ≤ h) && decide (h < (t1 : Int) * 128)

/-- The output code of a filter result, and whether it reaches full scale (R291, R293). -/
def formCode (g : ChanCfg) (r : Int) : Int × Bool :=
  let m : Int := 2 ^ 23 - 1
  let v := (r - g.offset) * (65536 + g.gain) / 65536
  let x := if m < v then m else if v < -m then -m else v
  (if g.invert then -x else x, decide (m ≤ x) || decide (x ≤ -m))

/-- The outputs of a channel formed in order, with the unsettled ones still to come (R290, R291, R293). -/
def formOutputs (g : ChanCfg) : Nat → List ChanOutput → List FormedOutput × Nat
  | n, [] => ([], n)
  | n, o :: os =>
    let (x, full) := formCode g o.result
    let (rest, left) := formOutputs g (n - 1) os
    (⟨o.frameEnd, x, decide (0 < n), full || o.overload⟩ :: rest, left)

/-- The kernel index of an output (R296): λ8 in ns. -/
def kernelIndex (g : ChanCfg) (t0 lambda8 frameEnd : Nat) : Nat :=
  min 4095 ((32 * (instantHalf g frameEnd * 15625 - 128 * (t0 : Int))) / (lambda8 : Int)).toNat

/-- The sums of one channel (R295, R296). (DEDUCED, log 56) -/
def chanSum (g : ChanCfg) (t0 lambda8 : Nat) (neg : Bool) (os : List FormedOutput) : ChanSum :=
  os.foldl (fun a o =>
    if o.unsettled then { a with u := a.u + 1 }
    else
      let (c, n) := kernels (kernelIndex g t0 lambda8 o.frameEnd)
      let (c, n) := if neg then (-c, -n) else (c, n)
      { a with n := a.n + 1, sum := a.sum + o.x, sumsq := a.sumsq + (o.x * o.x).toNat, re := a.re + o.x * c,
               im := a.im + o.x * n })
    ⟨0, 0, 0, 0, 0, 0⟩

/-- SUMVI of a line conductor (R295). -/
def sumVi (vs is_ : List FormedOutput) : Int :=
  vs.foldl (fun a v =>
    if v.unsettled then a
    else match is_.find? (fun i => i.frameEnd == v.frameEnd && !i.unsettled) with
      | some i => a + v.x * i.x
      | none => a) 0

/-- The report of the ending tick, and what is left to settle (R295). A channel with SOURCE 0 delivers nothing (R293). -/
def metroReport (recs : Tab Bytes) (m : Metro) (t0 t1 lambda8 : Nat) (outs : List (List ChanOutput)) :
    MetroReport × List Nat :=
  let formed := (List.range 32).map fun c =>
    let g := chanCfg recs c
    if g.source = 0 then ([], m.settle.getD c 0)
    else
      let (os, left) := formOutputs g (m.settle.getD c 0) (outs.getD c [])
      (os.filter (fun o => inTick g t0 t1 o.frameEnd), left)
  let os (c : Nat) : List FormedOutput := (formed.getD c ([], 0)).1
  let mask (p : FormedOutput → Bool) : Nat := (List.range 32).foldl (fun a c => a + bit ((os c).any p) * 2 ^ c) 0
  ({ negStart := m.negStart, timeStep := m.timeStep, overrange := BitVec.ofNat 32 (mask (·.ovr)),
     unsettled := BitVec.ofNat 32 (mask (·.unsettled)),
     chans := (List.range 32).map fun c => chanSum (chanCfg recs c) t0 lambda8 m.negStart (os c),
     products := (List.range 21).map fun k => if pairValid recs k then sumVi (os (k % 3)) (os (currentChan k)) else 0 },
   formed.map (·.2))

/-- 8 bytes of a signed number. -/
def le8i (v : Int) : Bytes := le 8 (BitVec.ofInt 64 v).toNat

/-- The signed number of 8 bytes. -/
def ofLe8i (b : Bytes) : Int := (BitVec.ofNat 64 (ofLe b)).toInt

/-- The 1,464 bytes of a report (R295). -/
def MetroReport.bytes (r : MetroReport) : Bytes :=
  [0x50, BitVec.ofNat 8 (bit r.negStart + 2 * bit r.timeStep), 0, 0] ++ le 4 r.overrange.toNat ++ le 4 r.unsettled.toNat
    ++ zeros 4
    ++ r.chans.flatMap (fun c => le 2 c.n ++ le 2 c.u ++ zeros 4 ++ le8i c.sum ++ le 8 c.sumsq ++ le8i c.re ++ le8i c.im)
    ++ r.products.flatMap le8i

/-- The report of an entry's body (R295). -/
def MetroReport.ofBytes (b : Bytes) : MetroReport :=
  let n (o l : Nat) : Nat := ofLe (slice b o l)
  { negStart := testBit (n 1 1) 0, timeStep := testBit (n 1 1) 1, overrange := BitVec.ofNat 32 (n 4 4),
    unsettled := BitVec.ofNat 32 (n 8 4),
    chans := (List.range 32).map fun c =>
      let o := 0x10 + 40 * c
      ⟨n o 2, n (o + 2) 2, ofLe8i (slice b (o + 8) 8), n (o + 0x10) 8, ofLe8i (slice b (o + 0x18) 8), ofLe8i (slice b (o + 0x20) 8)⟩
    products := (List.range 21).map fun k => ofLe8i (slice b (0x510 + 8 * k) 8) }

/-! ### Per-tick quantities (R297, R298) -/

/-- The integer square root by bits from bit `k - 1` down, `r` found so far. -/
def isqrtBits : Nat → Nat → Nat → Nat
  | 0, _, r => r
  | k + 1, n, r => isqrtBits k n (if (r + 2 ^ k) * (r + 2 ^ k) ≤ n then r + 2 ^ k else r)

/-- isqrt of R298: the integer square root, rounded down. -/
def isqrt (n : Nat) : Nat := isqrtBits (Nat.log2 n / 2 + 1) n 0

/-- How many odd half-steps (2m + 1)π/65,536 lie at or below the angle of (x, y) in the first quarter, found by
halving. -/
def quarterSteps (x y : Int) : Nat → Nat → Nat
  | 0, r => r
  | k + 1, r =>
    let m : Int := r + 2 ^ k - 1
    let a := piFixed * (2 * m + 1) / 65536
    quarterSteps x y k (if 0 ≤ y * cosFixed a - x * sinFixed a then r + 2 ^ k else r)

/-- The angle of (x, y) in units of 1/65,536 turn, rounded to nearest; 0 for the origin (R298). Whole-number coordinates
never meet a half. -/
def angleOf (x y : Int) : Nat :=
  if x = 0 ∧ y = 0 then 0
  else
    let (q, a, b) : Nat × Int × Int :=
      if 0 < x ∧ 0 ≤ y then (0, x, y) else if x ≤ 0 ∧ 0 < y then (1, y, -x) else if x < 0 ∧ y ≤ 0 then (2, -x, -y)
      else (3, -y, x)
    (q * 16384 + min 16384 (quarterSteps a b 15 0)) % 65536

/-- The quantities of a channel from this tick's sums and the retained ones (R298). -/
def chanQty (g : ChanCfg) (a b : ChanSum) (phasor : Bool) : ChanQty :=
  if a.n = 0 then { rms := 0, mean := 0, fund := 0, angle := 0, noPhasor := true, noData := true }
  else
    let rms := g.fullScale * isqrt (a.sumsq * 65536 / a.n) / 2 ^ 31
    let mean := Int.tdiv (g.fullScale * a.sum) (a.n * 2 ^ 23 : Nat)
    let ok := phasor && b.n != 0 && decide (g.ratio ≤ 2048)
    let re := a.re + b.re
    let im := a.im + b.im
    if ok then
      { rms := rms, mean := mean, fund := g.fullScale * isqrt (2 * (re * re + im * im)).toNat / ((a.n + b.n) * 32767 * 2 ^ 23),
        angle := angleOf re (-im), noPhasor := false, noData := false }
    else { rms := rms, mean := mean, fund := 0, angle := 0, noPhasor := true, noData := false }

/-- The outputs summed in a product: the channels of a valid pair have equal output instants (R289). (DEDUCED, log 52) -/
def pairCount (r : MetroReport) (k : Nat) : Nat :=
  let n (c : Nat) : Nat := (r.chans.getD c ⟨0, 0, 0, 0, 0, 0⟩).n
  min (n (k % 3)) (n (currentChan k))

/-- The quantities of a line conductor (R298). -/
def condQty (recs : Tab Bytes) (a b : MetroReport) (qs : List ChanQty) (k : Nat) : CondQty :=
  if !pairValid recs k then { p := 0, q := 0, invalid := true }
  else
    let zero : ChanSum := ⟨0, 0, 0, 0, 0, 0⟩
    let v := k % 3
    let i := currentChan k
    let fs : Int := ((chanCfg recs v).fullScale * (chanCfg recs i).fullScale : Nat)
    let n := pairCount a k
    let p := if n = 0 then 0 else Int.tdiv (Int.tdiv (fs * a.products.getD k 0) (n * 2 ^ 46 : Nat)) 1000
    let hidden (c : Nat) : Bool := ((qs[c]?).map (·.noPhasor)).getD true
    let re (c : Nat) : Int := (a.chans.getD c zero).re + (b.chans.getD c zero).re
    let im (c : Nat) : Int := (a.chans.getD c zero).im + (b.chans.getD c zero).im
    let n2 (c : Nat) : Nat := (a.chans.getD c zero).n + (b.chans.getD c zero).n
    let q := if hidden v || hidden i then 0
      else Int.tdiv (Int.tdiv (2 * fs * (re v * im i - im v * re i)) (n2 v * n2 i * 32767 * 32767 * 2 ^ 46 : Nat)) 1000
    { p := p, q := q, invalid := false }

/-! ### State objects (R299, R307, R309, R310, R314) -/

/-- The place of stage 5 in the arbitration order: engine E0, no input of the log. (DEDUCED, log 51) -/
def metroSrc : Src := Src.sweep 16

/-- The 64 bytes of an energy object (R314). -/
def Energy.bytes (e : Energy) : Bytes :=
  [e.actImp, e.actExp, e.reaPos, e.reaNeg, e.fImp, e.fExp, e.fPos, e.fNeg].flatMap fun x => le 8 x.toNat

/-- Energies never written. -/
def Energy.zero : Energy := ⟨0, 0, 0, 0, 0, 0, 0, 0⟩

/-- The suspects of a period or result (R307). -/
def suspectBytes (l : List (Nat × Nat)) : Bytes := fit 32 (l.flatMap fun x => le 4 (x.1 % 2 ^ 20 + x.2 * 2 ^ 20))

/-- The 96 bytes of a period (R307). -/
def Period.bytes (p : Period) : Bytes :=
  le 4 p.periodEnd ++ zeros 4 ++ le8i p.netMj ++ le 8 p.i2tLine ++ le 8 p.i2tNeutral ++ le8i p.meterMilli ++ le 8 p.coverS
    ++ le 8 p.metered ++ le 1 p.suspectCount ++ zeros 7 ++ suspectBytes p.suspects

/-- The 96 bytes of a balance result (R307). -/
def Balance.bytes (b : Balance) : Bytes :=
  le 4 b.periodEnd ++ le 2 b.flags.toNat ++ le 2 b.covMeters ++ le 2 b.covTime ++ le 2 b.meters ++ zeros 4
    ++ le8i b.feederMwh ++ le8i b.meterMwh ++ le8i b.lossMwh ++ le8i b.residual ++ le8i b.lateMilli ++ le 1 b.suspectCount
    ++ zeros 7 ++ suspectBytes b.suspects

/-- A result never written. -/
def Balance.blank : Balance := ⟨0, 0, 0, 0, 0, 0, 0, 0, 0, 0, 0, []⟩

/-- The 576 bytes of an identification entry (R310). -/
def Ident.bytes (e : Ident) : Bytes :=
  le 4 (e.slot % 2 ^ 20 + 2 ^ 20) ++ le 2 e.n ++ le 2 e.phases.toNat ++ zeros 8
    ++ fit 48 (e.y.flatMap fun p => le8i p.1 ++ le8i p.2)
    ++ fit 504 (e.cands.flatMap fun c => le8i c.x ++ le8i c.xx ++ le8i c.xy) ++ zeros 8

/-- The 200 bytes of a minute bin (R309). -/
def MinuteBin.bytes (b : MinuteBin) : Bytes :=
  le 4 b.minute ++ le 4 b.ticks ++ fit 24 (b.v.flatMap (le 8)) ++ fit 168 (b.i.flatMap (le 8))

/-- Write the energies of a conductor. -/
def putEnergy (k : Nat) (e : Energy) (s : State) : State :=
  if s.cov.metro.energy.getD k Energy.zero = e then s
  else change metroSrc 5 1 k e.bytes { s with cov.metro.energy := s.cov.metro.energy.set k e }

/-- Write a period of a feeder at its ring position, or clear the position. (DEDUCED, log 54) -/
def putPeriod (src : Src) (f pos : Nat) (p : Option Period) (s : State) : State :=
  let key := f * 256 + pos
  if tget s.cov.metro.periods key = p then s
  else match p with
    | some p => change src 5 2 key p.bytes { s with cov.metro.periods := tput s.cov.metro.periods key p }
    | none => change src 5 2 key (zeros 96) { s with cov.metro.periods := tdel s.cov.metro.periods key }

/-- Write the balance result of a feeder. -/
def putBalance (f : Nat) (b : Balance) (s : State) : State :=
  if tgetD s.cov.metro.balances f Balance.blank = b then s
  else change metroSrc 5 3 f b.bytes { s with cov.metro.balances := tput s.cov.metro.balances f b }

/-- Write or free an identification entry. (DEDUCED, log 54) -/
def putIdent (i : Nat) (e : Option Ident) (s : State) : State :=
  if tget s.cov.metro.idents i = e then s
  else match e with
    | some e => change metroSrc 5 4 i e.bytes { s with cov.metro.idents := tput s.cov.metro.idents i e }
    | none => change metroSrc 5 4 i (zeros 0x240) { s with cov.metro.idents := tdel s.cov.metro.idents i }

/-- Write a minute bin. -/
def putBin (pos : Nat) (b : MinuteBin) (s : State) : State :=
  if tget s.cov.metro.bins pos = some b then s
  else change metroSrc 5 7 pos b.bytes { s with cov.metro.bins := tput s.cov.metro.bins pos b }

/-! ### Feeders and periods (R300 to R302, R307) -/

/-- The FEEDER settings (R300). -/
structure FeederCfg where
  balance  : Bool
  learn    : Bool
  scale    : Int
  imp      : Nat
  exp      : Nat
  volt     : Nat
  voltScale : Int
  period   : Nat
  lag      : Nat
  rLine    : Nat
  rNeutral : Nat
  fixedMw  : Nat
  threshWh : Nat
  threshPm : Nat
  minCov   : Nat
  deriving DecidableEq, Repr

/-- The settings of feeder `f`; without a record it is neither balanced nor learned (R300). -/
def feederCfg (recs : Tab Bytes) (f : Nat) : FeederCfg :=
  let n (o l d : Nat) : Nat := cfgOf recs 0x0502 f o l d
  let i8 (o : Nat) : Int := (BitVec.ofNat 8 (n o 1 0)).toInt
  { balance := testBit (n 0 1 0) 0, learn := testBit (n 0 1 0) 1, scale := i8 1, imp := n 2 2 1 % 4096,
    exp := n 4 2 2 % 4096, volt := n 6 2 0 % 4096, voltScale := i8 8, period := n 0xC 4 900, lag := n 0x10 4 1800,
    rLine := n 0x14 4 0, rNeutral := n 0x18 4 0, fixedMw := n 0x1C 4 0, threshWh := n 0x20 4 1000,
    threshPm := n 0x24 2 20, minCov := n 0x26 2 950 }

/-- The settings of a feeder in the state. -/
def feeder (s : State) (f : Nat) : FeederCfg := feederCfg s.cov.sys.records f

/-- A value times a power of ten, a negative exponent dividing toward zero (R304, R310). -/
def scale10 (v x : Int) : Int := if x < 0 then Int.tdiv v (10 ^ x.natAbs) else v * 10 ^ x.natAbs

/-- The period of a feeder that ends at `e`, where its object is held. (DEDUCED, log 54) -/
def heldPeriod (s : State) (f period e : Nat) : Option Period :=
  (tget s.cov.metro.periods (f * 256 + e / period % 8)).filter fun p => p.periodEnd == e

/-- A period without contributions. -/
def Period.fresh (e : Nat) : Period := ⟨e, 0, 0, 0, 0, 0, 0, 0, []⟩

/-- A period that ends at `e` may be held: it begins at or after the time that a change of settings left (R307). -/
def periodAllowed (s : State) (f period e : Nat) : Bool := decide (tgetD s.metro.skipTo f 0 ≤ e - period)

/-- The period is open: from its start until it is evaluated (R301). -/
def periodOpen (s : State) (f : Nat) (c : FeederCfg) (now e : Nat) : Bool :=
  (heldPeriod s f c.period e).isSome
    || (decide (now < e + c.lag) && decide (e - c.period ≤ now) && periodAllowed s f c.period e)

/-- Write a period changed by `g`. -/
def modPeriod (f period e : Nat) (g : Period → Period) (s : State) : State :=
  putPeriod metroSrc f (e / period % 8) (some (g ((heldPeriod s f period e).getD (Period.fresh e)))) s

/-- A change of balance settings clears the feeder's periods without evaluation (R307). -/
def feederResets (src : Src) (old new : Tab Bytes) (s : State) : State :=
  [1, 2, 3, 4, 5, 6, 7].foldl (fun s f =>
    let a := feederCfg old f
    let b := feederCfg new f
    if a.period = b.period ∧ a.lag = b.lag ∧ a.imp = b.imp ∧ a.exp = b.exp ∧ a.scale = b.scale ∧ a.balance = b.balance then s
    else
      let s := (List.range 8).foldl (fun s pos => putPeriod src f pos none s) s
      raise src 0x5015 [f] { s with metro.skipDue := s.metro.skipDue.filter (· != f) ++ [f] }) s

/-- METRO_PAIR_INVALID for the pairs of balanced feeders that became invalid; at a start, for those that are (R317).
(DEDUCED, log 56) -/
def pairEvents (src : Src) (atStart : Bool) (s : State) : State :=
  let recs := s.cov.sys.records
  let s := (List.range 21).foldl (fun s k =>
    if (feederCfg recs (k / 3 + 1)).balance && !pairValid recs k && (atStart || s.metro.pairs.getLsbD k) then
      raise src 0x5002 [k] s
    else s) s
  { s with metro.pairs := BitVec.ofNat 32 (pairMask recs) }

/-! ### Stage 5, steps 1 and 2 (R298, R299, R302, R309, R313) -/

/-- The report in a log (R295). (DEDUCED, log 52) -/
def reportOf (l : InputLog) : Option MetroReport :=
  (l.entries.find? fun e => e.kind == 3).map fun e => MetroReport.ofBytes e.body

/-- Length of the tick before a log's own in units of 200 ns, from the tick-start entry (R20). -/
def prevLength (l : InputLog) : Nat :=
  match l.entries with
  | e :: _ => ofLe (slice e.body 8 4)
  | [] => 0

/-- UTC seconds of the start of the tick before a log's own. -/
def prevStartUtc (l : InputLog) : Nat := (logToUtc l ((stampNs l.start - prevLength l * 200) / 1000000000)).toNat

/-- UTC seconds of a log's own tick-start. -/
def startUtc (l : InputLog) : Nat := (logUtc l).toNat

/-- An accumulator and its fraction take |x| over `len` units of 200 ns (R299). -/
def accumulate (acc frac : BitVec 64) (x len : Nat) : BitVec 64 × BitVec 64 :=
  let f := frac.toNat + x * len
  (acc + BitVec.ofNat 64 (f / 5000000), BitVec.ofNat 64 (f % 5000000))

/-- The energies of one conductor after a tick (R299). -/
def addEnergy (e : Energy) (c : CondQty) (phasor : Bool) (len : Nat) : Energy :=
  let e := if 0 < c.p then let (a, f) := accumulate e.actImp e.fImp c.p.natAbs len; { e with actImp := a, fImp := f }
    else if c.p < 0 then let (a, f) := accumulate e.actExp e.fExp c.p.natAbs len; { e with actExp := a, fExp := f }
    else e
  if !phasor then e
  else if 0 < c.q then let (a, f) := accumulate e.reaPos e.fPos c.q.natAbs len; { e with reaPos := a, fPos := f }
  else if c.q < 0 then let (a, f) := accumulate e.reaNeg e.fNeg c.q.natAbs len; { e with reaNeg := a, fNeg := f }
  else e

/-- NET_MJ of a feeder: import less export over its line conductors. -/
def netMj (l : List Energy) (f : Nat) : Int :=
  [0, 1, 2].foldl (fun a p =>
    let e := l.getD (3 * (f - 1) + p) Energy.zero
    a + e.actImp.toNat - e.actExp.toNat) 0

/-- The sums of a tick into the open period of a balanced feeder (R302). -/
def periodTick (r : MetroReport) (recs : Tab Bytes) (before : List Energy) (qs : List ChanQty) (t len f : Nat) (s : State) :
    State :=
  let c := feeder s f
  if !c.balance || c.period = 0 then s
  else
    let e := (t / c.period + 1) * c.period
    if !periodAllowed s f c.period e then s
    else
      let i2t (n : Nat) : Nat :=
        match qs[4 + 4 * (f - 1) + n]? with
        | some q => if q.noData then 0 else q.rms * q.rms * len / 5000000
        | none => 0
      let full := [0, 1, 2].all fun p =>
        let k := 3 * (f - 1) + p
        pairValid recs k && decide (0 < pairCount r k)
      let net := netMj s.cov.metro.energy f - netMj before f
      modPeriod f c.period e (fun p =>
        { p with netMj := p.netMj + net, i2tLine := p.i2tLine + i2t 0 + i2t 1 + i2t 2, i2tNeutral := p.i2tNeutral + i2t 3,
                 metered := p.metered + if full then len else 0 }) s

/-- A reported tick enters the minute bin of its start (R309). -/
def binTick (qs : List ChanQty) (t : Nat) (s : State) : State :=
  let m := t / 60
  let pos := m % 120
  let b := ((tget s.cov.metro.bins pos).filter (·.minute == m)).getD ⟨m, 0, List.replicate 3 0, List.replicate 21 0⟩
  let rms (c : Nat) : Nat := ((qs[c]?).map (·.rms)).getD 0
  putBin pos { b with ticks := b.ticks + 1, v := b.v.zipIdx.map (fun x => x.1 + rms x.2),
                      i := b.i.zipIdx.map (fun x => x.1 + rms (currentChan x.2)) } s

/-- Steps 1 and 2 of stage 5: the report of the tick before (R298, R299, R302, R309, R317). (DEDUCED, log 51) -/
def takeReport (s : State) : State :=
  let log := s.work.log
  let now := startUtc log + bit (decide (0 < log.start.ns.toNat))
  let s : State := s.metro.skipDue.foldl (fun (s : State) f => { s with metro.skipTo := tput s.metro.skipTo f now }) s
  let s : State := { s with metro.skipDue := [] }
  let recs := s.metro.recs
  let mask := restartMask s.metro.recsOld recs
  let locked := log.startLock == .locked
  let s : State := match reportOf log with
    | none => s
    | some r =>
      let tick := log.tick - 1
      let prev : Option MetroReport := (s.metro.retained.filter (fun (x : BitVec 48 × MetroReport) => x.1 + 1 == tick)).map (fun x => x.2)
      let mask := if prev.isNone then 0xFFFFFFFF else mask
      let zero : ChanSum := ⟨0, 0, 0, 0, 0, 0⟩
      let old : MetroReport := prev.getD ⟨false, false, 0, 0, [], []⟩
      let base := locked && s.metro.retainedLocked && !r.timeStep && !old.timeStep
      let qs : List ChanQty := (List.range 32).map fun c =>
        chanQty (chanCfg recs c) (r.chans.getD c zero) (old.chans.getD c zero)
          (base && !testBit mask c && !s.metro.restartPrev.getLsbD c)
      let cs : List CondQty := (List.range 21).map fun k => condQty recs r old qs k
      let len := prevLength log
      let before := s.cov.metro.energy
      let hidden (c : Nat) : Bool := ((qs[c]?).map (·.noPhasor)).getD true
      let s := (List.range 21).foldl (fun s k =>
        match cs[k]? with
        | none => s
        | some c =>
          if c.invalid || pairCount r k == 0 then s
          else putEnergy k (addEnergy (s.cov.metro.energy.getD k Energy.zero) c (!(hidden (k % 3) || hidden (currentChan k))) len) s) s
      let t := prevStartUtc log
      let s := [1, 2, 3, 4, 5, 6, 7].foldl (fun s f => periodTick r recs before qs t len f s) s
      let s := binTick qs t s
      let s := (List.range 32).foldl (fun s c =>
        if r.overrange.getLsbD c then raise metroSrc 0x5001 [c, tick.toNat % 2 ^ 32] s else s) s
      { s with metro.quantities := qs, metro.conductors := cs, metro.unsettled := r.unsettled, metro.lastOver := r.overrange,
               metro.overrange := { s.metro.overrange with later := s.metro.overrange.later ||| r.overrange },
               metro.retained := some (tick, r), metro.retainedLocked := locked, metro.restartPrev := BitVec.ofNat 32 mask }
  { s with metro.recsOld := recs, metro.recs := s.cov.sys.records.filter (fun x => x.1 / 65536 == 0x0501) }

/-! ### Stage 5, step 3: meter shares and suspects (R303, R306) -/

/-- The share of each period that an interval overlaps: period end, overlap, milli-units, the last taking what is left
(R303). -/
def meterShares (h t period : Nat) (delta : Int) : List (Nat × Nat × Int) :=
  let first := (h / period + 1) * period
  let n := if h < t then (t - 1 - (first - period)) / period + 1 else 0
  let l := (List.range n).map fun i =>
    let e := first + i * period
    let o := min e t - max (e - period) h
    (e, o, delta * 1000 * o / ((t - h : Nat) : Int))
  match l.reverse with
  | [] => []
  | z :: rest => rest.reverse ++ [(z.1, z.2.1, delta * 1000 - (rest.map (·.2.2)).foldl (· + ·) 0)]

/-- The reason that makes a record a suspect: the first row that applies (R306). -/
def suspectReason (period h t : Nat) (delta : Int) (flags : Nat) : Option Nat :=
  if delta = 0 ∧ h + period ≤ t then some 1
  else if h + 2 * period < t then some 2
  else if delta < 0 ∨ testBit flags 2 then some 3
  else if testBit flags 3 then some 4
  else if testBit flags 0 ∨ testBit flags 1 then some 5
  else if testBit flags 5 ∨ testBit flags 4 then some 6
  else if testBit flags 7 then some 7
  else none

/-- A suspect is listed in a period: at most 8, a slot once (R306). (DEDUCED, log 54) -/
def addSuspect (slot reason : Nat) (p : Period) : Period :=
  if p.suspects.any (fun x => x.1 == slot) then p
  else if p.suspects.length < 8 then { p with suspects := p.suspects ++ [(slot, reason)] }
  else { p with suspectCount := min 255 (p.suspectCount + 1) }

/-- The shares and the suspect of one record (R303, R306). (DEDUCED, log 54) -/
def meterShare (b : Built) (s : State) : State :=
  let x := b.reading
  let e := endpoint s x.slot
  let f := e.feeder.toNat
  let c := feeder s f
  match b.prev with
  | none => s
  | some h =>
    if x.kind ≠ .direct ∨ f = 0 ∨ c.balance = false ∨ c.period = 0 ∨ 2 ≤ e.cls.toNat ∨ (x.code ≠ c.imp ∧ x.code ≠ c.exp) then s
    else
      let delta := x.value - h.value.toInt
      let ht := h.time.toNat
      let now := startUtc s.work.log
      let shares := meterShares ht x.ts c.period delta
      let s := if delta < 0 then s
        else shares.foldl (fun s z =>
          if periodOpen s f c now z.1 then
            modPeriod f c.period z.1 (fun p =>
              if x.code = c.imp then { p with meterMilli := p.meterMilli + z.2.2, coverS := p.coverS + z.2.1 }
              else { p with meterMilli := p.meterMilli - z.2.2 }) s
          else
            let bal := tgetD s.cov.metro.balances f Balance.blank
            putBalance f { bal with lateMilli := bal.lateMilli + z.2.2 }
              { s with metro.lateShares := s.metro.lateShares.inc }) s
      match suspectReason c.period ht x.ts delta b.flags with
      | none => s
      | some why =>
        shares.foldl (fun s z =>
          if periodOpen s f c now z.1 then modPeriod f c.period z.1 (addSuspect x.slot why) s else s) s

/-! ### Stage 5, step 4: phase identification (R308 to R311) -/

/-- The phases an endpoint is eligible for, as bits (R308). -/
def eligible (s : State) (slot : Nat) : Nat :=
  let home := match linkOfSlot s.cov.tables.links slot with
    | some i => (((linkEntry s i).plc?).map (·.home.toNat)).getD 0
    | none => 0
  let p := if home ≠ 0 then home else (endpoint s slot).phase.toNat
  if p = 0 then 7 else 2 ^ (p - 1)

/-- The candidates: phases of learned feeders whose line current channels have SOURCE 1 (R308). -/
def candidate (recs : Tab Bytes) (c : Nat) : Bool :=
  (feederCfg recs (c / 3 + 1)).learn
    && [0, 1, 2].all fun n => (chanCfg recs (4 + 4 * (c / 3) + n)).source == 1

/-- An endpoint is a learner (R308). -/
def learner (s : State) (slot : Nat) : Bool :=
  let e := endpoint s slot
  e.feeder == 0 && e.state == .active && decide (e.cls.toNat < 2) && !(s.cov.metro.failed.any fun x => x.2 == slot)

/-- A bin is valid: its minute has ended and holds enough ticks (R309). -/
def minuteBinOf (s : State) (now m : Nat) : Option MinuteBin :=
  (tget s.cov.metro.bins (m % 120)).filter fun b =>
    b.minute == m && decide ((m + 1) * 60 ≤ now) && decide ((if nominal60 s then 6480 else 5400) ≤ b.ticks)

/-- A sample enters an entry (R310): y by phase, x by candidate. -/
def Ident.add (e : Ident) (recs : Tab Bytes) (y x : Nat → Int) : Ident :=
  let on (p : Nat) : Bool := e.phases.getLsbD p
  { e with n := e.n + 1,
           y := e.y.zipIdx.map (fun z => if on z.2 then (z.1.1 + y z.2, z.1.2 + y z.2 * y z.2) else z.1),
           cands := e.cands.zipIdx.map fun z =>
             if on (z.2 % 3) && candidate recs z.2 then
               ⟨z.1.x + x z.2, z.1.xx + x z.2 * x z.2, z.1.xy + x z.2 * y (z.2 % 3)⟩
             else z.1 }

/-- r of every candidate with nonzero variances (R311). -/
def Ident.scores (e : Ident) : List (Nat × Int) :=
  let n : Int := e.n
  (e.cands.zipIdx).filterMap fun z =>
    let y := e.y.getD (z.2 % 3) (0, 0)
    let vx := n * z.1.xx - z.1.x * z.1.x
    let vy := n * y.2 - y.1 * y.1
    if vx = 0 ∨ vy = 0 then none
    else some (z.2, 1024 * (n * z.1.xy - z.1.x * y.1) / (isqrt (vx * vy).toNat : Int))

/-- The best score, the lower candidate winning a tie. -/
def bestScore (l : List (Nat × Int)) : Option (Nat × Int) :=
  l.foldl (fun a x => match a with | none => some x | some b => if b.2 < x.2 then some x else a) none

/-- What a sample with N at least 96 decides (R311). (DESIGN CHOICE, log 55) -/
def identDecide (i slot : Nat) (e : Ident) (s : State) : State :=
  let l := e.scores
  let best := bestScore l
  let second := match best with
    | some b => ((bestScore (l.filter (·.1 != b.1))).map (·.2)).getD (-1024)
    | none => -1024
  let assign := match best with | some b => decide (819 ≤ b.2) && decide (154 ≤ b.2 - second) | none => false
  match best, assign with
  | some b, true =>
    let s := modEndpoint metroSrc slot (fun x =>
      { x with feeder := BitVec.ofNat 3 (b.1 / 3 + 1), phase := BitVec.ofNat 2 (b.1 % 3 + 1) }) s
    raise metroSrc 0x5020 [slot, b.1 / 3 + 1, b.1 % 3 + 1, int32 b.2]
      { putIdent i none s with metro.assigned := s.metro.assigned.inc }
  | _, _ =>
    if e.n < 672 then s
    else
      let pos := s.cov.metro.failedNext.toNat
      let next := (pos + 1) % 1024
      let s := change metroSrc 5 6 pos (le 4 (slot + 2 ^ 20)) { s with cov.metro.failed := tput s.cov.metro.failed pos slot }
      let s := change metroSrc 5 5 0 (le 2 next ++ zeros 2) { s with cov.metro.failedNext := BitVec.ofNat 16 next }
      let s := { putIdent i none s with metro.failed := s.metro.failed.inc }
      match best with
      | some b => raise metroSrc 0x5021 [slot, b.1, int32 b.2, int32 second] s
      | none =>
        let (w, s) := drawWord s
        raise metroSrc 0x5021 [slot, w.toNat, int32 (-1024), int32 second] s

/-- The sample that a record makes (R310, R311). -/
def identSample (b : Built) (s : State) : State :=
  let recs := s.cov.sys.records
  let x := b.reading
  match [1, 2, 3, 4, 5, 6, 7].find? (fun f => (feederCfg recs f).learn), ruleOf recs x.code with
  | some f, some r =>
    let c := feederCfg recs f
    if x.kind ≠ .direct ∨ c.volt = 0 ∨ x.code ≠ c.volt ∨ learner s x.slot = false ∨ r.interval % 60 ≠ 0 ∨ 3600 < r.interval then s
    else
      let m0 := (x.ts - r.interval) / 60
      let bins := (List.range (x.ts / 60 - m0)).map fun i => minuteBinOf s (startUtc s.work.log) (m0 + i)
      if bins.any Option.isNone then s
      else
        let bins : List MinuteBin := bins.filterMap id
        let mean (f : MinuteBin → Nat) : Int := ((bins.map fun m => f m / m.ticks).foldl (· + ·) 0 / bins.length : Nat)
        let vm := scale10 (x.value * 1000) c.voltScale
        let y (p : Nat) : Int := mean (fun m => m.v.getD p 0) - vm
        let xs (k : Nat) : Int := mean fun m => m.i.getD k 0
        let place : Option (Nat × Ident) := match s.cov.metro.idents.find? (fun e => e.2.slot == x.slot) with
          | some e => some e
          | none =>
            let i := lowestGap (s.cov.metro.idents.map (fun z => z.1)) 0
            if i < 128 then
              some (i, ⟨x.slot, 0, BitVec.ofNat 3 (eligible s x.slot), List.replicate 3 (0, 0), List.replicate 21 ⟨0, 0, 0⟩⟩)
            else none
        match place with
        | none => s
        | some (i, e) =>
          let e := e.add recs y xs
          let s := putIdent i (some e) s
          if e.n < 96 then s else identDecide i x.slot e s
  | _, _ => s

/-! ### Stage 5, step 5: evaluation (R304, R305) -/

/-- A signed energy of `v` mWh as an event parameter in Wh, saturated to 32 bits (R317). -/
def whParam (v : Int) : Nat :=
  let w := Int.tdiv v 1000
  int32 (if 2 ^ 31 - 1 < w then 2 ^ 31 - 1 else if w < -(2 ^ 31) then -(2 ^ 31) else w)

/-- The balance result of a period (R304, R305). -/
def balanceOf (s : State) (f : Nat) (c : FeederCfg) (p : Period) : Balance :=
  let fe := Int.tdiv p.netMj 3600
  let me := scale10 p.meterMilli c.scale
  let loss : Int := ((c.rLine * p.i2tLine + c.rNeutral * p.i2tNeutral) / 3600000000000 + c.fixedMw * c.period / 3600 : Nat)
  let res := fe - me - loss
  let meters := (s.cov.tables.endpoints.filter fun e =>
    e.2.feeder.toNat == f && (e.2.state == .active || e.2.state == .silent) && decide (e.2.cls.toNat < 2)).length
  let covM := if meters = 0 then 1000 else min 1000 (1000 * p.coverS / (meters * c.period))
  let covT := min 1000 (p.metered / (c.period * 5000))
  let bad := decide (covM < c.minCov) || decide (covT < c.minCov)
  let loud := decide ((c.threshPm : Int) * fe.natAbs < 1000 * res.natAbs)
  let isLoss := !bad && loud && decide (1000 * (c.threshWh : Int) < res)
  let isOver := !bad && loud && decide (res < -(1000 * (c.threshWh : Int)))
  { periodEnd := p.periodEnd, flags := BitVec.ofNat 16 (1 + 2 * bit isLoss + 4 * bit isOver + 8 * bit bad),
    covMeters := covM, covTime := covT, meters := min 65535 meters, feederMwh := fe, meterMwh := me, lossMwh := loss,
    residual := res, lateMilli := 0, suspectCount := p.suspectCount, suspects := p.suspects }

/-- A period is evaluated (R304, R305). -/
def evaluate (f e : Nat) (s : State) : State :=
  let c := feeder s f
  let p := (heldPeriod s f c.period e).getD (Period.fresh e)
  let b := balanceOf s f c p
  let s := putPeriod metroSrc f (e / c.period % 8) none (putBalance f b s)
  let s := raise metroSrc 0x5010 [f + 256 * b.flags.toNat, e, whParam b.residual, whParam b.feederMwh] s
  if b.flags.getLsbD 3 then raise metroSrc 0x5014 [f, e, b.covMeters, b.covTime] s
  else if b.flags.getLsbD 1 then
    b.suspects.foldl (fun s x => raise metroSrc 0x5012 [f + 256 * x.2, x.1, e] s)
      (raise metroSrc 0x5011 [f + 256 * b.suspects.length, e, whParam b.residual, c.threshWh] s)
  else if b.flags.getLsbD 2 then raise metroSrc 0x5013 [f, e, whParam b.residual, whParam b.feederMwh] s
  else s

/-- The period ends of a feeder that fall due in this processing, earliest first: periods held, and the one whose end plus
LAG_S the tick reaches (R304). -/
def dueEnds (s : State) (f : Nat) : List Nat :=
  let c := feeder s f
  if !c.balance || c.period = 0 then []
  else
    let now := startUtc s.work.log
    let held := (s.cov.metro.periods.filter fun p => p.1 / 256 == f && decide (p.2.periodEnd + c.lag ≤ now)).map (·.2.periodEnd)
    let e := (now - c.lag) / c.period * c.period
    let reached := decide (c.lag ≤ now) && decide (prevStartUtc s.work.log < e + c.lag) && decide (c.period ≤ e)
      && periodAllowed s f c.period e && (tgetD s.cov.metro.balances f Balance.blank).periodEnd != e
    sortBy (fun a b => decide (a ≤ b)) (if reached && !held.contains e then held ++ [e] else held)

/-- Steps 1 to 4 of stage 5, once in a processing: stage 4 has ended then (R28, R313). -/
def meterOnce (s : State) : State :=
  if s.work.meterDone then s
  else
    let s := takeReport (admitOffers s)
    let s := s.work.built.foldl (fun s b => meterShare b s) s
    let s := s.work.built.foldl (fun s b => identSample b s) s
    { s with work.meterDone := true }

/-- The evaluations that are due, feeder 1 first (R313). -/
def evaluateDue (s : State) : State :=
  [1, 2, 3, 4, 5, 6, 7].foldl (fun s f => (dueEnds s f).foldl (fun s e => evaluate f e s) s) s

/-- A balance period is evaluated (R304). -/
def execBalanceEvaluation (f : Nat) (s : State) : Answer :=
  whenProcessing s fun s =>
    let s := meterOnce s
    match dueEnds s f with
    | e :: _ => evaluate f e s
    | [] => s

end Sys2Proof.Machine
end

