-- ==== Sys2Proof/Machine/Store.lean ====
section
/-!
DEFINITION. The flash store: blocks, pages and the map, the placement of records, tick packages, checkpoints, expiry,
collection, failures, formats and recovery (chapter 9).
-/
namespace Sys2Proof.Machine

open Sys2Proof

/-! ### Blocks, pages and the map (R322 to R330) -/

/-- STREAM of the hot stream (R323). -/
def hotStream : Nat := 0x10

/-- STREAM of the copy block (R323). -/
def copyStream : Nat := 0x11

/-- A block that no program has touched. -/
def Block.fresh : Block :=
  { state := .free, erases := 0, stream := 0, openSeq := 0, expiryDay := 0, closedDay := 0, closedTick := 0, refresh := false,
    grains := [] }

/-- A block by number. -/
def Store.block (st : Store) (n : Nat) : Block := tgetD st.blocks n Block.fresh

/-- Write a block. -/
def Store.setBlock (st : Store) (n : Nat) (b : Block) : Store := { st with blocks := tput st.blocks n b }

/-- Grains of a block. -/
def Store.perBlock (st : Store) : Nat := st.pages * st.perPage

/-- The PGA of the `i`-th grain programmed in a block (R327). -/
def Store.pga (st : Store) (n i : Nat) : Nat := n * 4096 + i / st.perPage * 4 + i % st.perPage

/-- The block of a PGA. -/
def blockOfPga (p : Nat) : Nat := p / 4096

/-- Blocks in all. -/
def Store.total (st : Store) : Nat := st.lunSet.length * st.perLun

/-- Free blocks (R361). -/
def Store.free (st : Store) : Nat := st.total - (st.blocks.filter fun b => b.2.state != .free).length

/-- The blocks of the reserved regions: anchor, recorder and vault mirror (R342, R359). -/
def Store.reservedBlocks (st : Store) : List Nat :=
  ((st.blocks.filter fun b => b.2.stream == 0x14 && b.2.state == .closed).map (·.1)) ++ st.recorderBlocks ++ st.vaultBlocks

/-- Usable blocks, reserved regions excluded (R361). -/
def Store.usable (st : Store) : Nat :=
  st.total - (st.blocks.filter fun b => b.2.state == .bad || b.2.state == .retired).length - st.reservedBlocks.length

/-- The reserve (R345). -/
def Store.reserve (st : Store) (permille : Nat) : Nat := ceilDiv (st.usable * permille) 1000

/-- The free block of a LUN with the fewest erases, the lowest number on a tie (R330). -/
def Store.freeIn (st : Store) (lun : Nat) : Option Nat :=
  let mine := st.blocks.filter fun b => b.1 / 8192 == lun
  let gap := lowestGap (mine.map fun b => b.1 % 8192) 0
  let never := if gap < st.perLun then some (lun * 8192 + gap, 0) else none
  let listed := (mine.filter fun b => b.2.state == .free).map fun b => (b.1, b.2.erases)
  let better (a b : Nat × Nat) : Bool := decide (b.2 < a.2 ∨ (b.2 = a.2 ∧ b.1 < a.1))
  ((listed.foldl (fun (a : Option (Nat × Nat)) b =>
    match a with | none => some b | some x => if better x b then some b else some x) never)).map (·.1)

/-- The LUNs in round-robin order from the next one. -/
def Store.lunOrder (st : Store) : List Nat := st.lunSet.drop st.nextLun ++ st.lunSet.take st.nextLun

/-- A stream takes a free block (R330). (DESIGN CHOICE, log 59) -/
def Store.takeBlock (st : Store) (stream day : Nat) : Option (Nat × Store) :=
  (st.lunOrder.findSome? fun l => (st.freeIn l).map fun b => (l, b)).map fun x =>
    (x.2, { st.setBlock x.2 { st.block x.2 with state := .opened, stream := stream, openSeq := st.pageSeq, expiryDay := day,
                                                grains := [] } with
            nextLun := (st.lunSet.idxOf x.1 + 1) % st.lunSet.length })

/-- The open block of a stream. -/
def Store.openOf (st : Store) (stream : Nat) : Option Nat :=
  if stream = hotStream then st.hot else if stream = copyStream then st.copyBlock
  else (tget st.classes stream).bind (·.block)

/-- Write the open block of a stream. -/
def Store.setOpen (st : Store) (stream : Nat) (b : Option Nat) : Store :=
  if stream = hotStream then { st with hot := b } else if stream = copyStream then { st with copyBlock := b }
  else match tget st.classes stream with
    | some c => { st with classes := tput st.classes stream { c with block := b } }
    | none => st

/-- Close a block: it is not programmed again until erased. `now` is the day and the tick. -/
def Store.close (st : Store) (n : Nat) (now : Nat × Nat) : Store :=
  let b := st.block n
  let st := st.setBlock n { b with state := .closed, closedDay := now.1, closedTick := now.2 }
  if st.openOf b.stream = some n then st.setOpen b.stream none else st

/-- A map page is used: it comes to the front of its frames, read where it misses (R328). The pages that leave dirty come
with the answer. -/
def Store.touchPage (st : Store) (m : Nat) (dirty : Bool) : List Nat × Store :=
  let hit := st.frames.contains m
  let frames := m :: st.frames.filter (· != m)
  let gone := frames.drop (if st.lent then 256 else 1280)
  let d := if dirty then m :: st.dirty.filter (· != m) else st.dirty
  (gone.filter fun g => d.contains g,
   { st with frames := frames.take (if st.lent then 256 else 1280), dirty := d.filter (fun x => !gone.contains x),
             mapMisses := if hit then st.mapMisses else st.mapMisses.inc })

/-- A mapped kind (R324). -/
def mappedKind (k : Nat) : Bool := decide (1 ≤ k) && decide (k ≤ 5)

/-- The map takes a programmed grain; a copy only where the map still holds its source (R329). -/
def Store.mapGrain (st : Store) (pga : Nat) (g : GrainTag) : List Nat × Store :=
  if g.kind = 0x10 then ([], { st with directory := tput st.directory g.lga pga })
  else if !mappedKind g.kind then ([], st)
  else if g.copy ∧ tget st.map g.lga ≠ some g.aux then ([], st)
  else ({ st with map := tput st.map g.lga pga }).touchPage (g.lga / 1024) true

/-- The next page of coarse mode goes to a log block (R355). -/
def Store.logBlock (st : Store) : Option (Nat × Store) :=
  match st.logBlocks.getLast? with
  | some b => if (st.block b).grains.length < st.perBlock then some (b, st)
    else if st.logBlocks.length < 8 then (st.takeBlock 0x15 0).map fun x => (x.1, { x.2 with logBlocks := x.2.logBlocks ++ [x.1] })
    else none
  | none => (st.takeBlock 0x15 0).map fun x => (x.1, { x.2 with logBlocks := x.2.logBlocks ++ [x.1] })

/-- A block that a stream can program: its open one, or a new one. -/
def Store.forProgram (st : Store) (stream day : Nat) : Option (Nat × Store) :=
  if st.mode != .fine then st.logBlock
  else match st.openOf stream with
    | some b => some (b, st)
    | none => (st.takeBlock stream day).map fun x => (x.1, x.2.setOpen stream (some x.1))

/-- The map takes the grains of a page programmed at grain `at_` of block `n`; the map pages that leave the cache dirty come
with the answer. -/
def Store.mapAll (st : Store) (n at_ : Nat) (gs : List GrainTag) : List Nat × Store :=
  gs.zipIdx.foldl (fun (a : List Nat × Store) g =>
    let x := a.2.mapGrain (st.pga n (at_ + g.2)) g.1
    (a.1 ++ x.1, x.2)) ([], st)

/-- The grains of a page, padded and with its page number, join a block (R322, R323). (DESIGN CHOICE, log 57) -/
def Store.fillPage (st : Store) (stream day n : Nat) (gs : List GrainTag) : Store :=
  let b := st.block n
  let full := gs ++ List.replicate (st.perPage - gs.length) ⟨0, 0x3F, false, 0, 0, 0⟩
  { st.setBlock n { b with grains := b.grains ++ full.map (fun g => { g with seq := st.pageSeq }),
                           expiryDay := if stream < 16 then max b.expiryDay day else b.expiryDay } with
    pageSeq := st.pageSeq + 1 }

/-- One page is programmed: its grains, padded, with the next page number (R322, R323). The map pages that leave the
cache dirty come with the answer. -/
def Store.page (st : Store) (stream day : Nat) (now : Nat × Nat) (gs : List GrainTag) : Option (List Nat × Store) :=
  (st.forProgram stream day).map fun x =>
    let n := x.1
    let at_ := (x.2.block n).grains.length
    let y := (x.2.fillPage stream day n gs).mapAll n at_ gs
    (y.1, if at_ + y.2.perPage < y.2.perBlock || y.2.mode != .fine then y.2 else y.2.close n now)

/-- Chunks of at most `k`, for a list no longer than `n` chunks. -/
def chunks {α : Type} (k : Nat) : Nat → List α → List (List α)
  | 0, _ => []
  | _, [] => []
  | n + 1, l => l.take k :: chunks k n (l.drop k)

/-- Map pages that left the cache dirty go to the hot stream (R328). -/
def Store.writeMapPages (now : Nat × Nat) (out : List Nat) (st : Store) : Store :=
  out.foldl (fun st m =>
    match st.page hotStream 0 now [⟨m, 0x10, false, 0, now.2, 0⟩] with
    | some x => { x.2 with written := x.2.written.inc }
    | none => st) st

/-- Pages are programmed one after another; map pages that leave the cache dirty go to the hot stream (R328). -/
def Store.pages_ (stream day : Nat) (now : Nat × Nat) : List (List GrainTag) → Store → Option Store
  | [], st => some st
  | p :: ps, st =>
    match st.page stream day now p with
    | none => none
    | some x => Store.pages_ stream day now ps (Store.writeMapPages now x.1 x.2)

/-- New content is programmed (R348). (DESIGN CHOICE, log 57) -/
def Store.program (st : Store) (stream day : Nat) (now : Nat × Nat) (gs : List GrainTag) : Option Store :=
  (Store.pages_ stream day now (chunks st.perPage gs.length gs) st).map fun st => { st with written := st.written.add gs.length }

/-- Grains are moved (R346, R348). -/
def Store.programCopy (st : Store) (stream day : Nat) (now : Nat × Nat) (gs : List GrainTag) : Option Store :=
  (Store.pages_ stream day now (chunks st.perPage gs.length gs) st).map fun st => { st with copied := st.copied.add gs.length }

/-- A grain of new content. -/
def newGrain (kind lga tick : Nat) : GrainTag := ⟨lga, kind, false, tick % 2 ^ 32, tick, 0⟩

/-- The day in UTC of the time base, and the tick in progress. -/
def storeNow (s : State) : Nat × Nat :=
  ((toUtc s.time.sec.toNat s.time.utcOffset.toNat s.time.leapOn).toNat / 86400, s.cap.tick.toNat)

/-- Journal entries are written to the hot stream (R346). -/
def Store.journalize (st : Store) (now : Nat × Nat) (es : List StoreEntry) : Option Store :=
  (st.program hotStream 0 now ((chunks 256 es.length es).map fun c => newGrain 0x22 c.length now.2)).map fun st =>
    { st with journal := st.journal ++ es }

/-- Erase a block: it is free. (DESIGN CHOICE, log 59) -/
def Store.erase (st : Store) (n : Nat) : Store :=
  let b := st.block n
  st.setBlock n { Block.fresh with erases := b.erases + 1 }

/-! ### Placement (R331 to R336) -/

/-- The expiry day of a record: METER_TIME and RETAIN_DAYS of its endpoint's plan, rounded up (R268, R331).
(DEDUCED, log 60) -/
def expiryDay (s : State) (r : Record) : Nat :=
  let retain := ((planOf s (r.slotCode.toNat % 2 ^ 20)).map (·.retain)).getD 40
  ceilDiv (r.time.toNat + retain * 86400) 86400

/-- A class as it stands before it opens. -/
def ClassStream.fresh : ClassStream :=
  { block := none, day := 0, tail := none, count := 0, tickHi := 0, payTail := none, payUsed := 0, nextLga := 0, lgaLeft := 0 }

/-- A class stream. -/
def Store.cls (st : Store) (c : Nat) : ClassStream := tgetD st.classes c ClassStream.fresh

/-- The class of the nearest later day among some classes, or of the latest day (R331, R334). -/
def nearestLater (days : List (Nat × Nat)) (day : Nat) : Option Nat :=
  let later := days.filter fun x => decide (day ≤ x.2)
  let pick (better : Nat → Nat → Bool) (l : List (Nat × Nat)) : Option Nat :=
    (l.foldl (fun (a : Option (Nat × Nat)) x => match a with | none => some x | some y => if better x.2 y.2 then some x else a) none).map (·.1)
  if later.isEmpty then pick (fun a b => decide (b < a)) days else pick (fun a b => decide (a < b)) later

/-- The class of a record (R331). -/
def Store.classFor (st : Store) (day : Nat) : Nat :=
  let open_ := (List.range 16).filter fun c => (st.cls c).block.isSome
  match open_.find? (fun c => (st.cls c).day == day) with
  | some c => c
  | none =>
    match (List.range 16).find? (fun c => (st.cls c).block.isNone) with
    | some c => c
    | none => (nearestLater (open_.map fun c => (c, (st.cls c).day)) day).getD 0

/-- The record area (R326). -/
def recordLo : Nat := 0x110000

/-- LGAs of the record area. -/
def recordSpan : Nat := 0x8000000 - recordLo

/-- The next range of `size` LGAs whose entries are all unmapped and not in use by a class, from `from_` on, wrapping
(R334). -/
def Store.findRange (st : Store) (size : Nat) : Nat → Nat → Nat
  | 0, from_ => from_
  | n + 1, from_ =>
    let lo := if recordLo + recordSpan < from_ + size then recordLo else from_
    let inR (l : Nat) : Bool := decide (lo ≤ l) && decide (l < lo + size)
    let used := st.map.any (fun m => inR m.1) || st.classes.any fun c =>
      (c.2.tail.map inR).getD false || (c.2.payTail.map inR).getD false || (decide (0 < c.2.lgaLeft) && inR c.2.nextLga)
    if used then st.findRange size n (lo + size) else lo

/-- The next LGA of a class stream (R334). -/
def Store.nextLga (st : Store) (c : Nat) : Nat × Store :=
  let k := st.cls c
  if 0 < k.lgaLeft then
    (k.nextLga, { st with classes := tput st.classes c { k with nextLga := k.nextLga + 1, lgaLeft := k.lgaLeft - 1 } })
  else
    let size := max 1 st.perBlock
    let lo := st.findRange size (recordSpan / size) (max recordLo st.rangeNext)
    (lo, { st with rangeNext := lo + size,
                   classes := tput st.classes c { k with nextLga := lo + 1, lgaLeft := size - 1 } })

/-- The grain of a tail goes to its class stream (R336). -/
def Store.flushGrain (st : Store) (c kind lga tick day : Nat) (now : Nat × Nat) : Store :=
  (st.program c day now [newGrain kind lga tick]).getD st

/-- A placement in progress: the store, the classes used by the tick, and the tails it changed. -/
structure Placing where
  st     : Store
  used   : List Nat
  runs   : List (Nat × Run)
  tails  : List (Nat × Nat)
  day    : Nat
  deriving DecidableEq, Repr

/-- A tail among those that a package carries. -/
def addTail (x : Nat × Nat) (l : List (Nat × Nat)) : List (Nat × Nat) := if l.contains x then l else l ++ [x]

/-- A class takes a record: its block and day, the tail, the place (R331, R332, R334). -/
def placeInClass (p : Placing) (c day tick : Nat) (now : Nat × Nat) (r : Record) : Placing :=
  let st := p.st
  let k := st.cls c
  let st := { st with classes := tput st.classes c { k with day := if k.block.isSome then max k.day day else day } }
  let st := if (st.cls c).block.isSome || st.mode != .fine then st
    else match st.takeBlock c day with
      | some x => x.2.setOpen c (some x.1)
      | none => st
  let day := (st.cls c).day
  let hi := tick / 2 ^ 32
  let k := st.cls c
  let st := match k.tail with
    | some l => if k.tickHi = hi then st
      else ({ st with classes := tput st.classes c { k with tail := none, count := 0 } }).flushGrain c 3 l tick day now
    | none => st
  let (lga, st) := match (st.cls c).tail with
    | some l => (l, st)
    | none =>
      let (l, st) := st.nextLga c
      (l, { st with classes := tput st.classes c { st.cls c with tail := some l, count := 0, tickHi := hi } })
  let idx := (st.cls c).count
  let st := { st with classes := tput st.classes c { st.cls c with count := idx + 1 } }
  let (payLga, st, tails) : Option Nat × Store × List (Nat × Nat) := match r.payload with
    | none => (none, st, p.tails)
    | some b =>
      let size := 8 + (b.length + 7) / 8 * 8
      let k := st.cls c
      let st := match k.payTail with
        | some l => if k.payUsed + size ≤ 4096 then st
          else ({ st with classes := tput st.classes c { k with payTail := none, payUsed := 0 } }).flushGrain c 4 l tick day now
        | none => st
      let (l, st) := match (st.cls c).payTail with
        | some l => (l, st)
        | none =>
          let (l, st) := st.nextLga c
          (l, { st with classes := tput st.classes c { st.cls c with payTail := some l, payUsed := 24 } })
      (some l, { st with classes := tput st.classes c { st.cls c with payUsed := (st.cls c).payUsed + size } }, addTail (4, l) p.tails)
  let st := if idx + 1 = 127 then
      ({ st with classes := tput st.classes c { st.cls c with tail := none, count := 0 } }).flushGrain c 3 lga tick day now
    else st
  let st := { st with records := tput st.records r.seq.toNat ⟨r, BitVec.ofNat 48 tick, lga, idx, payLga, day⟩ }
  let runs := if p.runs.any (·.1 == c) then p.runs.map fun x => if x.1 = c then (c, { x.2 with count := x.2.count + 1 }) else x
    else p.runs ++ [(c, ⟨lga, idx, 1⟩)]
  { st := st, used := if p.used.contains c then p.used else p.used ++ [c], runs := runs,
    tails := if idx + 1 = 127 then tails else addTail (3, lga) tails, day := max p.day day }

/-- A record is placed: at most four runs in a tick (R334). -/
def placeRecord (s : State) (tick : Nat) (now : Nat × Nat) (p : Placing) (r : Record) : Placing :=
  let day := expiryDay s r
  let c := p.st.classFor day
  let c := if p.used.contains c || p.used.length < 4 then c
    else (nearestLater (p.used.map fun c => (c, (p.st.cls c).day)) day).getD c
  placeInClass p c day tick now r

/-- A closed seal comes to the store: its records are placed, its slot filled, its tick package queued (R331 to R337), and a
checkpoint falls due (R340). `prev` is the seal closed before it. -/
def storeSeal (x : Seal) (recs : List Record) (evs : List Bytes) (changes : List Change) (prev : Option (BitVec 48)) (s : State) :
    State :=
  let now := storeNow s
  let t := x.tick.toNat
  let p := recs.foldl (placeRecord s t now) ⟨s.store, [], [], [], 0⟩
  let tickDay := (toUtc x.start.sec.toNat s.time.utcOffset.toNat s.time.leapOn).toNat / 86400
  let slot : SealSlot :=
    { body := x, firstSeq := (recs.head?.map (·.seq)).getD s.cov.ledger.nextSeq, runs := p.runs.map (·.2),
      expiry := max p.day (tickDay + cfg s 0x0601 0 6 2 40), events := evs }
  let due := match prev with | some q => q.toNat / 256 != t / 256 | none => false
  let grains := (changes.filter fun c => !(c.block == 4 && c.kind == 1)).map fun c =>
    Config.stateGrain c.block c.kind c.index % 65536
  { s with store := { p.st with
      seals := tput (if t < 2 ^ 31 then p.st.seals else tdel p.st.seals (t - 2 ^ 31)) t slot,
      packages := p.st.packages ++ [⟨x.tick, x.hash, (changes.flatMap Change.bytes).length, p.tails, none⟩],
      ckptDue := if due then some x.tick else p.st.ckptDue,
      stateDirty := p.st.stateDirty ++ (grains.filter fun g => !p.st.stateDirty.contains g) } }

/-! ### Tick packages (R337) -/

/-- The seal ring's grain of a tick (R326). -/
def sealLga (t : Nat) : Nat := 0x8000000 + t / 16 % 2 ^ 27

/-- The body grains of a package. -/
def packageGrains (p : Package) : List GrainTag :=
  let t := p.tick.toNat
  ((List.range (ceilDiv p.bytes 4096)).map fun i => newGrain 0x20 i t) ++ (p.tails.map fun x => newGrain x.1 x.2 t)
    ++ [newGrain 5 (sealLga t) t]

/-- The body of the oldest package that lacks it is programmed (R337). -/
def packageBody (s : State) : State :=
  match s.store.packages.find? (fun p => p.first.isNone) with
  | none => s
  | some p =>
    match s.store.program hotStream 0 (storeNow s) (packageGrains p) with
    | none => s
    | some st =>
      { s with store := { st with packages := st.packages.map fun q =>
          if q.tick = p.tick then { q with first := some s.store.pageSeq } else q } }

/-- The header of the oldest package is programmed once its body is: its seal is durable (R40, R337). What the block keeps
for seals not yet durable is let go. -/
def packageHeader (s : State) : State :=
  match s.store.packages with
  | p :: rest =>
    if p.first.isNone then s
    else
      match s.store.program hotStream 0 (storeNow s) [newGrain 0x21 ((packageGrains p).length + 1) p.tick.toNat] with
      | none => s
      | some st =>
        let keep := s.snaps.filter fun x => p.tick < x.1 || x.1 == p.tick
        { s with store := { st with packages := rest, durable := some p.tick },
                 seals := s.seals.filter fun x => p.tick < x.tick,
                 snaps := keep }
  | [] => s

/-- STORE_LOW_SPACE is due: few blocks are free, and the latest event is 256 ticks old (R345). -/
def lowDue (s : State) : Bool :=
  let res := s.store.reserve (cfg s 0x0601 0 4 2 70)
  let again := match s.store.lastLow with | some t => decide (t.toNat + 256 ≤ s.cap.tick.toNat) | none => true
  s.store.mode == .fine && decide (s.store.free < res + 16) && again

/-- Free blocks fall below the reserve plus 16: STORE_LOW_SPACE, at most once in 256 ticks (R345). -/
def lowSpace (s : State) : State :=
  if lowDue s then
    raiseU 0x6008 [s.store.free, s.store.reserve (cfg s 0x0601 0 4 2 70)] { s with store.lastLow := some s.cap.tick }
  else s

/-- The store works from recovery on, through the wait for a peer and the activation pause, while write protect is off
(R321, R433, R499). -/
def storeOn (s : State) : Bool :=
  (s.sys.mode == .running || s.sys.mode == .waiting || s.sys.mode == .pause) && !s.store.writeProtect

/-- `f` where the store works. -/
def whenStore (s : State) (f : State → State) : Answer :=
  done s (if storeOn s then lowSpace (f s) else s)

/-- A tick package's body is written (R337). -/
def execTickPackageWrite (s : State) : Answer := whenStore s packageBody

/-- A package's header completes: its seal is durable (R337). -/
def execSealDurable (s : State) : Answer := whenStore s packageHeader

/-! ### Checkpoints and write-backs (R338 to R342) -/

/-- A checkpoint begins, or is skipped while one is in progress (R340). -/
def execCheckpointBegin (s : State) : Answer :=
  whenStore s fun s =>
    match s.store.ckptDue with
    | none => s
    | some c =>
      let s := { s with store.ckptDue := none }
      if s.store.checkpoint.isSome then
        raiseU 0x6007 [c.toNat % 2 ^ 32] { s with store.ckptLate := s.store.ckptLate.inc }
      else
        let first := ((s.store.packages.find? fun p => p.tick == c).bind (·.first)).getD s.store.pageSeq
        { s with store := { s.store with
            checkpoint := some ⟨c, first, s.store.stateDirty⟩, stateDirty := [],
            writebacks := s.store.writebacks ++ s.store.dirtyPairs.map fun d => (d.1 / 4096, d.2) } }

/-- The history grain of a slot is programmed with its newest content (R338, R339). -/
def writeHistory (slot tick : Nat) (s : State) : State :=
  match s.store.program hotStream 0 (storeNow s) [newGrain 2 (0x10000 + slot) tick] with
  | none => s
  | some st =>
    { s with store := { st with writebacks := st.writebacks.filter (fun w => w.1 != slot),
                                dirtyPairs := st.dirtyPairs.filter fun d => d.1 / 4096 != slot } }

/-- The latest tick whose change a write-back of the slot holds. -/
def writebackTick (st : Store) (slot : Nat) : Option Nat :=
  match st.writebacks.filter (fun w => w.1 == slot) with
  | [] => none
  | l => some ((l.map (·.2.toNat)).foldl max 0)

/-- A write-back is programmed once the seal of its latest change is durable (R339). -/
def execHistoryWriteback (slot : BitVec 20) (s : State) : Answer :=
  whenStore s fun s =>
    match writebackTick s.store slot.toNat, s.store.durable with
    | some t, some d => if t ≤ d.toNat then writeHistory slot.toNat t s else s
    | _, _ => s

/-- The anchor blocks: the first two good blocks of LUN 0 on channel 0 (R342). -/
def Store.anchorBlocks (st : Store) : List Nat :=
  (st.blocks.filter fun b => b.2.stream == 0x14 && b.2.state == .closed).map (·.1)

/-- An anchor record goes to both anchor blocks; a full one is erased first (R342). (DESIGN CHOICE, log 59) -/
def Store.anchor (st : Store) (no tick : Nat) : Store :=
  st.anchorBlocks.foldl (fun st n =>
    let b := st.block n
    let b := if b.grains.length + st.perPage ≤ st.perBlock then b else { b with grains := [], erases := b.erases + 1 }
    let g : GrainTag := { newGrain 0x32 no tick with seq := st.pageSeq }
    { st.setBlock n { b with grains := b.grains ++ g :: List.replicate (st.perPage - 1) ⟨0, 0x3F, false, 0, 0, st.pageSeq⟩ } with
      pageSeq := st.pageSeq + 1, written := st.written.inc }) st

/-- The PGAs of the grains of some kinds with a page number at or above `seq`. -/
def Store.since (st : Store) (seq : Nat) (kinds : List Nat) : List Nat :=
  st.blocks.flatMap fun b =>
    (b.2.grains.zipIdx.filter fun g => decide (seq ≤ g.1.seq) && kinds.contains g.1.kind).map fun g => st.pga b.1 g.2

/-- The checkpoint's structures are programmed: copies, dirty map pages, directory, block table, extras, the root twice, and
the anchor record (R340 to R342). (DEDUCED, log 58) -/
def Store.finish (st : Store) (c : Checkpoint) (hash : Bytes) (ledger : List Charge) (now : Nat × Nat) : Option Store :=
  let t := c.tick.toNat
  let tails := (st.classes.map fun k => bit k.2.tail.isSome + bit k.2.payTail.isSome).foldl (· + ·) 0
  let no := ((st.roots.head?.map (·.number)).getD 0) + 1
  (st.program hotStream 0 now (c.grains.map fun g => newGrain 1 g now.2)).bind fun st =>
  let from_ := st.pageSeq
  (st.program hotStream 0 now (st.dirty.map fun m => newGrain 0x10 m now.2)).bind fun st =>
  ({ st with dirty := [] }.program hotStream 0 now
    (((List.range 256).map fun i => newGrain 0x11 i t)
      ++ ((List.range (min 256 Config.blockTableGrains)).map fun i => newGrain 0x12 i t)
      ++ ((List.range (min 64 (tails + Config.extrasGrains))).map fun i => newGrain 0x13 i now.2))).bind fun st =>
  (st.program hotStream 0 now [newGrain 0x14 no t]).bind fun st =>
  (st.program copyStream 0 now [newGrain 0x14 no t]).map fun (st : Store) =>
    let st := st.anchor no t
    let root : Root :=
      { number := no, tick := c.tick, hash := hash, replayFrom := from_, deltaFrom := c.deltaFrom, anchorNo := no,
        reach := st.directory.map Prod.snd ++ st.since from_ [0x11, 0x12, 0x13, 0x14], ledger := ledger }
    { st with roots := root :: st.roots.take 1, checkpoint := none, journal := [] }

/-- Blocks that only a root before the latest one held back are erased (R346). -/
def Store.eraseReleased (st : Store) : Store :=
  st.blocks.foldl (fun st b => if b.2.state = .released then st.erase b.1 else st) st

/-- A checkpoint completes once its seal is durable and every write-back it waits for is programmed (R340).
(DEDUCED, log 58) -/
def execCheckpointComplete (s : State) : Answer :=
  whenStore s fun s =>
    match s.store.checkpoint, s.store.durable with
    | some c, some d =>
      if d < c.tick then s
      else
        let s := s.store.writebacks.foldl (fun s w => if w.2 ≤ d then writeHistory w.1 w.2.toNat s else s) s
        let hash := match tget s.store.seals c.tick.toNat with | some x => x.body.hash | none => []
        match s.store.finish c hash s.radio.ledger (storeNow s) with
        | some st => { s with store := st.eraseReleased }
        | none => s
    | _, _ => s

/-! ### Liveness, collection and refresh (R343, R346, R347) -/

/-- PGAs that the latest complete root reaches. (DEDUCED, log 58) -/
def Store.rootReach (st : Store) : List Nat := match st.roots with | r :: _ => r.reach | [] => []

/-- The root protects a package of this tick: its header lies at or above DELTA_FROM (R343). -/
def Store.rootTick (st : Store) : Nat := match st.roots with | r :: _ => r.tick.toNat | [] => 0

/-- A grain is live (R343). -/
def Store.live (st : Store) (pga : Nat) (g : GrainTag) : Bool :=
  (mappedKind g.kind && tget st.map g.lga == some pga) || (g.kind == 0x10 && tget st.directory g.lga == some pga)
    || st.rootReach.contains pga || ((g.kind == 0x20 || g.kind == 0x21) && decide (st.rootTick ≤ g.tick))

/-- The live grains of a block with their PGAs, in program order. -/
def Store.liveGrains (st : Store) (n : Nat) : List (Nat × GrainTag) :=
  (((st.block n).grains.zipIdx).map fun g => (st.pga n g.2, g.1)).filter fun x => st.live x.1 x.2

/-- Every slot of a seal grain is filled, and the expiry day of the grain (R335, R346). -/
def Store.sealGrainDay (st : Store) (g : GrainTag) : Option Nat :=
  let base := g.tick / 16 * 16
  let slots := (List.range 16).map fun k => tget st.seals (base + k)
  if slots.all Option.isSome then some ((slots.filterMap fun x => x.map (·.expiry)).foldl max 0) else none

/-- Where collection or refresh programs a live grain: stream, day and tag (R346, R347). -/
def Store.target (st : Store) (refresh : Bool) (src : Block) (pga : Nat) (g : GrainTag) : Nat × Nat × GrainTag :=
  if !mappedKind g.kind then (hotStream, 0, g)
  else
    let moved : GrainTag := { g with copy := true, aux := pga }
    if refresh then (if src.stream < 16 then (src.stream, src.expiryDay, moved) else (hotStream, 0, moved))
    else
      match if g.kind = 5 then st.sealGrainDay g else none with
      | some day => (st.classFor day, day, moved)
      | none => (copyStream, 0, moved)

/-- The day of a class is no earlier than that of a grain moved to it (R346). -/
def Store.raiseDay (st : Store) (stream day : Nat) : Store :=
  if stream < 16 then { st with classes := tput st.classes stream { st.cls stream with day := max (st.cls stream).day day } }
  else st

/-- One live grain of a block is moved, with its MOVE entry (R346). -/
def Store.moveGrain (st : Store) (refresh : Bool) (src : Block) (x : Nat × GrainTag) (now : Nat × Nat) :
    Option (List StoreEntry × Store) :=
  let (stream, day, g) := st.target refresh src x.1 x.2
  let st := st.raiseDay stream day
  let op := if g.kind = 0x10 || g.kind = 0x11 || g.kind = 0x12 || g.kind = 0x13 then
      st.program stream day now [g]
    else st.programCopy stream day now [g]
  op.map fun st => (if mappedKind g.kind then [StoreEntry.move g.lga x.1 ((tget st.map g.lga).getD 0)] else [], st)

/-- The live grains of a block are moved one after another (R346). -/
def Store.moveGrains (refresh : Bool) (src : Block) (now : Nat × Nat) : List (Nat × GrainTag) → List StoreEntry × Store →
    Option (List StoreEntry × Store)
  | [], a => some a
  | x :: xs, a =>
    match a.2.moveGrain refresh src x now with
    | none => none
    | some b => Store.moveGrains refresh src now xs (a.1 ++ b.1, b.2)

/-- The live grains of a block are moved, with a MOVE entry each and then a RELEASE; the source is erased, or waits for a
later root where the latest one reaches into it (R346). -/
def Store.moveBlock (st : Store) (n : Nat) (refresh : Bool) (now : Nat × Nat) : Option Store :=
  let live := st.liveGrains n
  let held := live.any fun x => st.rootReach.contains x.1
  (Store.moveGrains refresh (st.block n) now live ([], st)).bind fun a =>
    (a.2.journalize now (a.1 ++ [.release n a.1.length])).map fun st =>
      if held then st.setBlock n { st.block n with state := .released } else st.erase n

/-- Garbage collection of the collectible hot or copy block with the fewest live grains (R346). -/
def Store.victim (st : Store) : Option Nat :=
  let cands := (st.blocks.filter fun b =>
    b.2.state == .closed && (b.2.stream == hotStream || b.2.stream == copyStream)
      && !(b.2.grains.any fun g => (g.kind == 0x20 || g.kind == 0x21) && decide (st.rootTick ≤ g.tick))).map fun b =>
        (b.1, (st.liveGrains b.1).length, b.2.openSeq)
  (cands.foldl (fun (a : Option (Nat × Nat × Nat)) b =>
    match a with
    | none => some b
    | some x => if b.2.1 < x.2.1 ∨ (b.2.1 = x.2.1 ∧ b.2.2 < x.2.2) then some b else a) none).map (·.1)

/-- Garbage collection (R346). -/
def execGarbageCollection (s : State) : Answer :=
  whenStore s fun s =>
    if s.store.mode != .fine then s
    else match s.store.victim.bind fun n => s.store.moveBlock n false (storeNow s) with
      | some st => { s with store := st }
      | none => s

/-- A block with a high-correction read is refreshed (R325, R347). -/
def execBlockRefresh (block : Nat) (s : State) : Answer :=
  whenStore s fun s =>
    let b := s.store.block block
    if s.store.mode != .fine ∨ (b.state ≠ .closed ∧ b.state ≠ .opened) ∨ 0x12 ≤ b.stream then s
    else
      let now := storeNow s
      let st := if b.state = .opened then s.store.close block now else s.store
      match st.moveBlock block true now with
      | some st => { s with store := st }
      | none => s

/-! ### Expiry (R344, R345) -/

/-- Block PGA: the PGA of its grain 0. -/
def blockPga (n : Nat) : Nat := n * 4096

/-- The closed class blocks. -/
def Store.classBlocks (st : Store) : List (Nat × Block) := st.blocks.filter fun b => b.2.state == .closed && decide (b.2.stream < 16)

/-- The block with the earliest expiry day, the lowest PGA on a tie. -/
def earliest (l : List (Nat × Block)) : Option (Nat × Block) :=
  l.foldl (fun (a : Option (Nat × Block)) b => match a with | none => some b | some x => if b.2.expiryDay < x.2.expiryDay then some b else a) none

/-- A class block is expired (R344): its time has come by the time base and by nominal ticks since its close. -/
def expired (now : Nat × Nat) (perS : Nat) (b : Block) : Bool :=
  decide (b.expiryDay < now.1) && decide ((b.expiryDay - b.closedDay) * 86400 * perS < now.2 - b.closedTick)

/-- A class block is journaled, unmapped and erased: what it held is lost (R344). -/
def Store.expire (st : Store) (n : Nat) (now : Nat × Nat) : Option Store :=
  let dead := st.map.filter fun m => blockOfPga m.2 == n
  (st.journalize now [.expire n dead.length (st.block n).expiryDay]).map fun (st : Store) =>
    let gone (l : Nat) : Bool := dead.any fun m => m.1 == l
    let strip (r : StoredRecord) : StoredRecord :=
      if (r.payLga.map gone).getD false then { r with payLga := none, record.payload := none } else r
    let recs : Tab StoredRecord := (st.records.filter fun r => !gone r.2.lga).map fun r => (r.1, strip r.2)
    ({ st with map := st.map.filter (fun m => blockOfPga m.2 != n), records := recs,
               seals := st.seals.filter fun x => !gone (sealLga x.1) } : Store).erase n

/-- The class block that expires next (R344). -/
def execBlockExpiry (s : State) : Answer :=
  whenStore s fun s =>
    let now := storeNow s
    match earliest (s.store.classBlocks.filter fun b => expired now (ticksPerS s) b.2) with
    | none => s
    | some b =>
      match s.store.expire b.1 now with
      | some st => { s with store := st }
      | none => s

/-- A class block is expired early while free blocks lie below the reserve and none has expired (R345). -/
def execEarlyExpiry (s : State) : Answer :=
  whenStore s fun s =>
    let now := storeNow s
    let cands := s.store.classBlocks
    if s.store.reserve (cfg s 0x0601 0 4 2 70) ≤ s.store.free || (cands.any fun b => expired now (ticksPerS s) b.2) then s
    else
      match earliest cands with
      | none => s
      | some b =>
        match s.store.expire b.1 now with
        | some st =>
          raiseU 0x6006 [blockPga b.1, b.2.expiryDay, now.1] { s with store := { st with earlyExpiries := st.earlyExpiries.inc } }
        | none => s

/-! ### Block failures (R354) -/

/-- A block is retired: journal entry, count and event (R354). -/
def retire (n cause : Nat) (s : State) : State :=
  let st := s.store
  let st := (st.journalize (storeNow s) [.retire n]).getD st
  let st := st.setBlock n { st.block n with state := .retired, grains := [] }
  raiseU 0x6004 [blockPga n, cause] { s with store := { st with retired := st.retired + 1 } }

/-- Recorder grains that the region's blocks can hold. -/
def Store.recorderRoom (st : Store) : Nat := st.recorderBlocks.length * st.perBlock

/-- A program fails (R354): a reserved block is replaced by a spare of its region; any other block is closed, emptied and
retired, its grains programmed again in a new one. -/
def execGrainProgramFailed (block : Nat) (s : State) : Answer :=
  whenStore s fun s =>
    let b := s.store.block block
    if b.state ≠ .opened ∧ b.state ≠ .closed then s
    else
      let s := { s with store.programFails := s.store.programFails.inc }
      if b.stream = 0x12 then
        let s := retire block 0 { s with store.recorderBlocks := s.store.recorderBlocks.filter (· != block) }
        if s.store.recorderRoom < 2048 then { s with recorder := s.recorder.noSpare s.cap.tick } else s
      else if b.stream = 0x13 then
        let s := retire block 0 { s with store.vaultBlocks := s.store.vaultBlocks.filter (· != block) }
        if s.store.vaultBlocks.length < 2 then { s with keys.mirrorB := none } else s
      else if b.stream = 0x14 then s
      else
        let now := storeNow s
        let st := if b.state = .opened then s.store.close block now else s.store
        match st.moveBlock block true now with
        | some st => retire block 0 { s with store := st }
        | none => s

/-- An erase fails: the block is retired (R354). -/
def execBlockEraseFailed (block : Nat) (s : State) : Answer :=
  whenStore s fun s =>
    let b := s.store.block block
    let known := decide (block % 8192 < s.store.perLun) && s.store.lunSet.contains (block / 8192)
    if !known || (b.state != .free && b.state != .released) then s
    else retire block 1 { s with store.eraseFails := s.store.eraseFails.inc }

/-! ### Coarse mode (R355 to R357) -/

/-- The newest content of each LGA in some blocks. -/
def newestTags (gs : List GrainTag) : List GrainTag :=
  (gs.foldl (fun (t : Tab GrainTag) g => if mappedKind g.kind then tput t g.lga g else t) []).map (·.2)

/-- A new data block takes the newest content of every grain of logical block `l`; the old one is erased (R357). -/
def Store.mergeLogical (st : Store) (logs : List Nat) (l : Nat) : Option Store :=
  let old := tget st.coarseMap l
  let all := ((old.map fun o => (st.block o).grains).getD []) ++ (logs.flatMap fun b => (st.block b).grains)
  let keep := (newestTags all).filter fun g => g.lga / max 1 st.perBlock == l
  (st.takeBlock 0x16 0).map fun x =>
    let b := x.1
    let st := x.2
    let seq := st.pageSeq
    let st := { st.setBlock b { st.block b with state := .closed, grains := keep.map fun g => { g with seq := seq } } with
                pageSeq := seq + ceilDiv keep.length (max 1 st.perPage), copied := st.copied.add keep.length,
                coarseMap := tput st.coarseMap l b }
    match old with | some o => st.erase o | none => st

/-- The logical blocks of a log block are merged one after another. -/
def Store.mergeAll (logs : List Nat) : List Nat → Store → Option Store
  | [], st => some st
  | l :: ls, st =>
    match st.mergeLogical logs l with
    | none => none
    | some st => Store.mergeAll logs ls st

/-- The oldest log block is merged: for each logical block with grains in it a new block takes the newest content of every
grain; the old data block and the log block are erased (R357). -/
def Store.mergeOldest (st : Store) : Option Store :=
  match st.logBlocks with
  | [] => none
  | n :: rest =>
    let logicals := ((newestTags (st.block n).grains).map fun g => g.lga / max 1 st.perBlock).eraseDups
    (Store.mergeAll (n :: rest) logicals { st with logBlocks := rest }).map fun st => st.erase n

/-- In a test format the oldest log block is merged when a ninth is needed (R357). -/
def execCoarseLogMerge (s : State) : Answer :=
  whenStore s fun s =>
    let full := match s.store.logBlocks.getLast? with
      | some b => decide (s.store.perBlock ≤ (s.store.block b).grains.length)
      | none => false
    if s.store.mode == .coarseTest && s.store.logBlocks.length == 8 && full then
      match s.store.mergeOldest with
      | some st => { s with store := st }
      | none => s
    else s

/-! ### Format and recovery (R349 to R351, R358, R359) -/

/-- The first `n` good blocks in number order that no region holds. -/
def Store.firstGood (st : Store) (n : Nat) : List Nat :=
  ((st.lunSet.flatMap fun l => (List.range (min st.perLun (n + 64 + st.blocks.length))).map fun b => l * 8192 + b).filter fun k =>
    (st.block k).state == .free).take n

/-- Blocks join a reserved region. -/
def Store.reserveBlocks (st : Store) (stream : Nat) (l : List Nat) : Store :=
  l.foldl (fun st n => st.setBlock n { st.block n with state := .closed, stream := stream }) st

/-- The LUNs in use: present, of one geometry, and allowed by LUN_MASK (R320). -/
def lunsInUse (nand : NandIn) (mask : Nat) : List Nat := (List.range (min 16 nand.luns)).filter fun l => testBit mask l

/-- A format (R358): geometry, factory defects, a new FORMAT_ID, the reserved regions (kept where the old anchor names
them), an empty root and an anchor record. -/
def Store.format (nand : NandIn) (mask fid : Nat) (ledger : Option (BitVec 64)) (test : Bool) (old : Store) : Store :=
  let same := !old.recorderBlocks.isEmpty
  let keptNos := old.recorderBlocks ++ old.vaultBlocks
  let marks : Tab Block := nand.defects.foldl (fun t n => tput t n { Block.fresh with state := .bad }) []
  let marks := (old.blocks.filter fun b => b.2.state == .bad || b.2.state == .retired).foldl (fun t b => tput t b.1 b.2) marks
  let marks := if same then keptNos.foldl (fun t n => tput t n (old.block n)) marks else marks
  let st : Store :=
    { Store.init with
      mode := if test then .coarseTest else .fine, formatId := BitVec.ofNat 32 (if fid = old.formatId.toNat then fid + 1 else fid),
      ledgerId := if test then none else ledger, lunSet := lunsInUse nand mask, perLun := nand.blocks, pages := nand.pages,
      perPage := nand.grains, blocks := marks, retired := 0, recorderBlocks := old.recorderBlocks, vaultBlocks := old.vaultBlocks,
      ckptLate := old.ckptLate, written := old.written, copied := old.copied, programFails := old.programFails,
      eraseFails := old.eraseFails, uncorrectable := old.uncorrectable, earlyExpiries := old.earlyExpiries,
      mapMisses := old.mapMisses, fetches := old.fetches }
  let anchors := (st.firstGood 2).filter fun n => n / 8192 == 0
  let st := st.reserveBlocks 0x14 anchors
  let st := if same then st
    else
      let recs := st.firstGood (ceilDiv 2048 (max 1 st.perBlock) + 2)
      let st := { st.reserveBlocks 0x12 recs with recorderBlocks := recs }
      let vs := st.firstGood 4
      { st.reserveBlocks 0x13 vs with vaultBlocks := vs }
  st.anchor 0 0

/-- The map as a replay of every readable page in PAGE_SEQ order gives it: new grains with a content tick up to L, copies
where the map still holds their source (R329, R349, R351). (DEDUCED, log 60) -/
def Store.replayMap (st : Store) (l : Nat) : Tab Nat :=
  let all := st.blocks.flatMap fun b => b.2.grains.zipIdx.map fun g => (st.pga b.1 g.2, g.1)
  let ordered := sortBy (fun (a b : Nat × GrainTag) => decide (a.2.seq ≤ b.2.seq)) all
  ordered.foldl (fun m x =>
    let g := x.2
    if !mappedKind g.kind then m
    else if g.copy then (if tget m g.lga = some g.aux then tput m g.lga x.1 else m)
    else if g.tick ≤ l then tput m g.lga x.1 else m) []

/-- Recovery to seal `l` (R349 to R351): what lies beyond it is gone, the map is rebuilt, open blocks are closed, blocks with
no live grain are released and erased. -/
def Store.recover (st : Store) (l : BitVec 48) (now : Nat × Nat) (scan : Bool) : Store :=
  let m := st.replayMap l.toNat
  let st : Store := { st with
    mode := .fine, scanned := scan, durable := some l, map := m, frames := [], dirty := [], packages := [], checkpoint := none,
    ckptDue := none, writebacks := [], dirtyPairs := [], logBlocks := [], writeProtect := false, lastLow := none,
    seals := st.seals.filter (fun x => x.1 ≤ l.toNat), records := st.records.filter fun r => r.2.tick ≤ l }
  let st : Store := (st.blocks.filter fun b => b.2.state == .opened).foldl (fun (st : Store) b => st.close b.1 now) st
  let st : Store := { st with classes := st.classes.map fun c => (c.1, { c.2 with block := none }), hot := none, copyBlock := none }
  (st.blocks.filter fun b => (b.2.state == .closed || b.2.state == .released) && decide (b.2.stream < 0x12)).foldl (fun st b =>
    if (st.liveGrains b.1).isEmpty then ((st.journalize now [.release b.1 0]).getD st).erase b.1 else st) st

/-- Pages programmed in all, as a full scan reads them (R351). -/
def Store.pagesRead (st : Store) : Nat :=
  (st.blocks.map fun b => ceilDiv b.2.grains.length (max 1 st.perPage)).foldl (· + ·) 0

/-- What last-gasp mode flushes, in order: the packages of the seals not yet durable, each header last, and one extras grain
with the dwell ledger (R353). Write protect follows (R321). -/
def storeFlush (p : BitVec 48) (s : State) : State :=
  let s := { s with store.checkpoint := none, store.ckptDue := none }
  let n := s.store.packages.length
  let s := (List.range n).foldl (fun s _ => packageHeader (packageBody s)) s
  let st := (s.store.program hotStream 0 (storeNow s) [newGrain 0x13 0 p.toNat]).getD s.store
  { s with store := { st with extrasLedger := some (p, s.radio.ledger), writeProtect := true } }

end Sys2Proof.Machine
end

