-- ==== Sys2Proof/Machine/Time.lean ====
section
/-!
DEFINITION. The time base: PTP ports and parent selection, the servo, captures, triggers, serial launches and the replies to
meter time messages (chapter 10).
-/
namespace Sys2Proof.Machine

open Sys2Proof

/-! ### The PTP record and the clock (R363, R366, R367, R374) -/

/-- A field of the PTP record as the time block holds it (R374). -/
def ptp (s : State) (off size dflt : Nat) : Nat := hwCfg s 0x0701 0 off size dflt

/-- PROFILE (R374). -/
def ptpProfile (s : State) : Nat := ptp s 0 1 1

/-- The time block runs: from the start of a unit to its reset. -/
def clockOn (s : State) : Bool := s.sys.mode == .running || s.sys.mode == .waiting || s.sys.mode == .pause

/-- `f` where the time block runs. (DESIGN CHOICE, log 8) -/
def whenClock (s : State) (f : State → State) : Answer := done s (if clockOn s then f s else s)

/-- A full stamp in units of 2^-16 ns. -/
def fullNs (t : FullStamp) : Int := ((t.sec.toNat * 1000000000 + t.ns.toNat) * 65536 + t.frac.toNat : Nat)

/-- A latency of a port in units of 2^-16 ns: egress, or ingress (R373, R374). (DEDUCED, log 61) -/
def latency (s : State) (port : Nat) (ingress : Bool) : Int := (ptp s (0x28 + 4 * port + 2 * bit ingress) 2 0 * 4096 : Nat)

/-- The code of a servo state (R367). -/
def Servo.code : Servo → Nat
  | .free => 0 | .acquiring => 1 | .locked => 2 | .holdover => 3 | .ppsHold => 4

/-- SYNCHRONISED of a servo state (R367). -/
def Servo.synced : Servo → Bool
  | .free => false | .acquiring => false | .locked => true | .holdover => true | .ppsHold => true

/-- UTC_OFFSET in use (R366): held from the parent while it is valid, otherwise that of the PTP record. -/
def utcOffset (s : State) : Nat := if s.time.utcValid then s.time.utcOffset.toNat else ptp s 0x1A 1 37

/-- Seconds since 2020 before the repeated second is taken out (R366). -/
def rawUtc (s : State) : Int := (s.time.sec.toNat : Int) - utcOffset s - epoch2020

/-- The synchronisation status word as sampled at a boundary (R367). -/
def syncWord (s : State) : BitVec 32 :=
  BitVec.ofNat 32 (s.time.servo.code + 8 * bit s.time.servo.synced + 16 * bit s.time.utcValid + 32 * bit s.time.leapOn
    + 64 * bit s.time.stepped + 256 * (utcOffset s % 256))

/-- LEAP61 of the word opens at 12:00 UTC of the announced day (R367). -/
def leapWindow (s : State) : State :=
  if s.time.leap61 && decide (43200 ≤ rawUtc s % 86400) then { s with time.leapOn := true } else s

/-- The time base takes an instant. -/
def setClock (t : Int) (s : State) : State :=
  let n := t.toNat
  { s with time.sec := BitVec.ofNat 48 (n / 65536 / 1000000000), time.ns := BitVec.ofNat 32 (n / 65536 % 1000000000),
           time.frac := BitVec.ofNat 16 (n % 65536) }

/-- The time base in units of 2^-16 ns. -/
def clockNs (s : State) : Int := fullNs ⟨s.time.sec, s.time.ns, s.time.frac⟩

/-! ### The servo (R375 to R378) -/

/-- θ in whole ns, saturated to 32 bits, as an event parameter or field (R389, R390). -/
def thetaParam (theta : Int) : Nat :=
  let v := Int.tdiv theta 65536
  int32 (if 2 ^ 31 - 1 < v then 2 ^ 31 - 1 else if v < -(2 ^ 31) then -(2 ^ 31) else v)

/-- The servo enters a state: in FREE y is 0, in HOLDOVER y stays at I (R378); TIME_SERVO (R390). -/
def servoTo (new : Servo) (s : State) : State :=
  if s.time.servo = new then s
  else
    let old := s.time.servo
    let y := match new with | .free => 0 | .holdover => s.time.integral | _ => s.time.rate
    raiseU 0x7002 [old.code, new.code, thetaParam s.time.theta]
      { s with time.servo := new, time.rate := y, time.lockRun := 0, time.unlockRun := 0 }

/-- FLAGS bit 0 of the PTP record: TCAP0 carries a PPS signal. -/
def ppsFlag (s : State) : Bool := testBit (ptp s 0xB 1 0) 0

/-- The row from any state to FREE (R378). -/
def servoFree (s : State) : State :=
  if ptpProfile s = 0 ∨ (s.time.slave = none ∧ ppsFlag s = false) then servoTo .free s else s

/-- The slave port leaves SLAVE (R378). -/
def slaveLeaves (s : State) : State :=
  let s := servoFree s
  match s.time.servo with
  | .locked => servoTo (if s.time.utcSeen && ppsFlag s && s.time.ppsSeen then .ppsHold else .holdover) s
  | _ => s

/-- A port enters SLAVE (R378). -/
def slaveEnters (s : State) : State :=
  match s.time.servo with
  | .free => servoTo .acquiring s
  | .holdover => servoTo .acquiring s
  | .ppsHold => servoTo .acquiring s
  | _ => s

/-- The time base steps by −θ: frames realign, STEPPED is set, TIME_STEPPED is raised, a lock is lost (R376, R378). -/
def timeStep (theta : Int) (s : State) : State :=
  let s := metroTimeStep (setClock (clockNs s - theta) s)
  let ns := Int.tdiv theta 65536
  let s := raiseU 0x7001 [int32 (Int.tdiv ns 1000000000), int32 (Int.tmod ns 1000000000)]
    { s with time.stepped := true, time.steps := s.time.steps.inc, time.lockRun := 0, time.unlockRun := 0 }
  if s.time.servo = .locked then servoTo .acquiring s else s

/-- v divided by 1,000 τ with τ = 2^n s, rounded down to 2^-16 ppb (R377). -/
def perTau (v n : Int) : Int := if 0 ≤ n then v / (1000 * 2 ^ n.toNat) else v * 2 ^ (-n).toNat / 1000

/-- A sample feeds the servo (R377). (DEDUCED, log 61) -/
def servoFeed (theta logTau : Int) (s : State) : State :=
  let i := s.time.integral + perTau (ptp s 0xE 2 300 * theta) logTau
  let y := perTau (ptp s 0xC 2 700 * theta) logTau + i
  let m : Int := 100000 * 65536
  if m < y then { s with time.rate := m }
  else if y < -m then { s with time.rate := -m }
  else { s with time.rate := y, time.integral := i }

/-- The lock rows that samples drive (R378). -/
def servoLock (theta : Int) (s : State) : State :=
  let lock := ptp s 0x14 4 1000 * 65536
  match s.time.servo with
  | .acquiring =>
    let n := if theta.natAbs < lock then s.time.lockRun + 1 else 0
    if 16 ≤ n then servoTo .locked s else { s with time.lockRun := n }
  | .locked =>
    let n := if 4 * lock < theta.natAbs then s.time.unlockRun + 1 else 0
    if 4 ≤ n then servoTo .acquiring s else { s with time.unlockRun := n }
  | _ => s

/-- One offset sample (R376 to R378). (DEDUCED, log 61) -/
def servoSample (theta logTau : Int) (s : State) : State :=
  let s := { s with time.theta := theta, time.syncs := s.time.syncs.inc }
  let step := ptp s 0x10 4 100000 * 65536
  if step ≠ 0 ∧ step < theta.natAbs then timeStep theta s else servoLock theta (servoFeed theta logTau s)

/-- A Sync on the slave port (R375 to R378). -/
def execPtpSync (port : Nat) (t1 t2 : FullStamp) (corr logInterval : Int) (s : State) : Answer :=
  whenClock s fun s =>
    if ptpProfile s = 0 ∨ s.time.slave ≠ some port then s
    else servoSample (fullNs t2 + latency s port true - fullNs t1 - s.time.path - corr) logInterval s

/-- The mean path delay of an exchange (R375). (DEDUCED, log 61) -/
def pathDelay (profile : Nat) (t1 t2 t3 t4 : Int) : Int :=
  if profile = 2 then ((t4 - t1) - (t3 - t2)) / 2 else ((t2 - t1) - (t4 - t3)) / 2

/-- A delay exchange on the slave port completes: d is smoothed, and the first exchange sets it (R375). -/
def execPtpDelayExchange (port : Nat) (t1 t2 t3 t4 : FullStamp) (s : State) : Answer :=
  whenClock s fun s =>
    if ptpProfile s = 0 ∨ s.time.slave ≠ some port ∨ s.time.exchange ≠ some port then s
    else
      let d := pathDelay (ptpProfile s) (fullNs t1) (fullNs t2) (fullNs t3) (fullNs t4)
      { s with time.path := if s.time.pathSet then s.time.path + (d - s.time.path) / 8 else d, time.pathSet := true,
               time.exchange := none }

/-- A Delay_Req leaves the slave port, or a Pdelay_Req any port (R370, R374): an exchange is in progress. -/
def execDelayReqSend (port : Nat) (departure : FullStamp) (s : State) : Answer :=
  whenClock s fun s =>
    let p := ptpProfile s
    if p = 0 ∨ 4 ≤ port ∨ (p = 1 ∧ s.time.slave ≠ some port) then s
    else
      let t := fullNs departure + latency s port false
      ethernetOut port (.ethernet port (if p = 1 then 1 else 2) (be 8 (t / 65536).toNat))
        { s with time.exchange := if s.time.slave = some port then some port else s.time.exchange }

/-! ### Parent selection (R370, R371) -/

/-- The default data set comparison: a is better than b (R370). (PRESUMED, log 62) -/
def betterData (a b : AnnounceData) : Bool :=
  if a.grandmaster ≠ b.grandmaster then
    decide ([a.priority1, a.clockClass, a.accuracy, a.variance, a.priority2, a.grandmaster.toNat]
      < [b.priority1, b.clockClass, b.accuracy, b.variance, b.priority2, b.grandmaster.toNat])
  else decide ([a.steps, a.sender.toNat] < [b.steps, b.sender.toNat])

/-- The unit's own data set while it is not synchronised (R371, R374). (PRESUMED, log 62) -/
def ownData (s : State) : AnnounceData :=
  { priority1 := ptp s 5 1 128, clockClass := 248, accuracy := 0xFE, variance := 0xFFFF, priority2 := ptp s 6 1 128,
    grandmaster := ownEui s, steps := 0, sender := ownEui s, utcOffset := BitVec.ofNat 8 (utcOffset s), utcValid := false,
    leap61 := false, timeSource := 0xA0 }

/-- A port may be slave (R371). -/
def maySlave (s : State) (port : Nat) : Bool := testBit (ptp s 3 1 0xC3) port

/-- A port may be master (R371). -/
def mayMaster (s : State) (port : Nat) : Bool := testBit (ptp s 3 1 0xC3) (4 + port)

/-- A port's entry. -/
def ptpPort (s : State) (port : Nat) : PtpPort := s.time.ports.getD port ⟨.listening, none⟩

/-- The best announce of all ports that may be slave. -/
def bestAnnounce (s : State) : Option (Nat × AnnounceData) :=
  ([0, 1, 2, 3].filterMap fun n => if maySlave s n then (ptpPort s n).best.map fun b => (n, b) else none).foldl
    (fun (a : Option (Nat × AnnounceData)) x =>
      match a with | none => some x | some y => if betterData x.2 y.2 then some x else a) none

/-- The state of a port by the comparison (R370, R371). `timedOut` says that it has heard nothing for a full timeout. -/
def portDecision (s : State) (best : Option (Nat × AnnounceData)) (timedOut : Bool) (n : Nat) : PtpPortState :=
  let p := ptpPort s n
  let lead : PtpPortState := if mayMaster s n then .master else .listening
  if ptpProfile s = 0 then .listening
  else match best with
    | none => if timedOut || p.state == .master then lead else .listening
    | some (m, e) =>
      if betterData (ownData s) e then lead
      else if n = m then .slave
      else match p.best with
        | some b => if b.grandmaster = e.grandmaster ∧ b.steps ≤ e.steps + 1 then .passive else lead
        | none => if p.state == .listening && !timedOut then .listening else lead

/-- The parent's UTC properties are taken: not inside an inserted second (R366). -/
def takeUtc (s : State) : State :=
  if s.time.leapOn && decide (rawUtc s % 86400 = 0) then s
  else match s.time.parent with
    | some a =>
      if a.utcValid then
        let hold := s.time.leapOn && a.leap61
        { s with time.utcValid := true, time.utcSeen := true, time.utcOffset := if hold then s.time.utcOffset else a.utcOffset,
                 time.leap61 := a.leap61, time.leapOn := s.time.leapOn && a.leap61 }
      else { s with time.utcValid := false, time.leap61 := a.leap61, time.leapOn := s.time.leapOn && a.leap61 }
    | none => { s with time.utcValid := false, time.leap61 := false, time.leapOn := false }

/-- The port states are decided anew; the slave and the parent follow (R370, R371, R378, R390). (PRESUMED, log 62) -/
def decidePorts (timedOut : Nat → Bool) (s : State) : State :=
  let best := bestAnnounce s
  let states := (List.range 4).map fun n => portDecision s best (timedOut n) n
  let slave := (List.range 4).find? fun n => states.getD n .listening == .slave
  let parent := slave.bind fun n => (ptpPort s n).best
  let old := s.time.slave
  let oldId := s.time.parent.map (·.sender)
  let s := { s with time.ports := (List.range 4).map fun n => { ptpPort s n with state := states.getD n .listening },
                    time.slave := slave, time.parent := parent }
  let s := takeUtc s
  let s := match parent, slave with
    | some a, some n =>
      if oldId = some a.sender ∧ old = slave then s
      else raiseU 0x7003 [n, a.sender.toNat % 2 ^ 32, a.sender.toNat / 2 ^ 32] s
    | _, _ => s
  if old = slave then servoFree s
  else
    let s := { s with time.pathSet := false, time.exchange := none }
    let s := if old.isSome then slaveLeaves s else s
    if slave.isSome then slaveEnters s else servoFree s

/-- An Announce message (R370, R371). A malformed one is dropped. -/
def execAnnounce (port : Nat) (a : AnnounceData) (wellFormed : Bool) (s : State) : Answer :=
  whenClock s fun s =>
    if ptpProfile s = 0 ∨ 4 ≤ port then s
    else if !wellFormed then { s with time.ptpDropped := s.time.ptpDropped.inc }
    else if a.sender = ownEui s ∨ 255 ≤ a.steps then s
    else
      let p := ptpPort s port
      let take_ := match p.best with
        | none => true
        | some b => b.sender == a.sender || betterData a b
      if take_ then decidePorts (fun _ => false) { s with time.ports := s.time.ports.set port { p with best := some a } } else s

/-- No Announce for a full timeout: the port forgets what it heard (R370, R378). -/
def execAnnounceTimeout (port : Nat) (s : State) : Answer :=
  whenClock s fun s =>
    if ptpProfile s = 0 ∨ 4 ≤ port then s
    else
      let s := if (ptpPort s port).best.isSome then { s with time.announceTimeouts := s.time.announceTimeouts.inc } else s
      decidePorts (fun n => n == port) { s with time.ports := s.time.ports.set port { ptpPort s port with best := none } }

/-- A change of PROFILE, DOMAIN, TRANSPORT or PORT_ROLES restarts PTP: the servo enters FREE and keeps its integral (R374). -/
def ptpRestart (s : State) : State :=
  servoTo .free { s with time.ports := List.replicate 4 ⟨.listening, none⟩, time.slave := none, time.parent := none,
                         time.exchange := none, time.utcValid := false, time.leap61 := false, time.leapOn := false }

/-- The hardware's PTP record changes at a boundary (R374). -/
def ptpSwitch (old : Tab Bytes) (s : State) : State :=
  let f (o : Nat) (d : Nat) : Bool := cfgOf old 0x0701 0 o 1 d != ptp s o 1 d
  if f 0 1 || f 1 0 || f 2 0 || f 3 0xC3 then ptpRestart s else s

/-! ### Messages as master and responder (R371, R372) -/

/-- The unit sends as PTP master: not on a mirror (R371). -/
def sendsAsMaster (s : State) (port : Nat) : Bool := capturing s && (ptpPort s port).state == .master && ptpProfile s != 0

/-- ONE_STEP of a port (R372, R374). -/
def oneStep (s : State) (port : Nat) : Bool := testBit (ptp s 4 1 0xF) port

/-- A stamp as a PTP timestamp: 6 bytes of seconds, 4 of nanoseconds, then the fraction. -/
def ptpStamp (t : Int) : Bytes :=
  let n := (t / 65536).toNat
  be 6 (n / 1000000000) ++ be 4 (n % 1000000000) ++ be 2 (t % 65536).toNat

/-- The fields of an Announce that carries a data set (R371). (PRESUMED, log 62) -/
def announceBytes (a : AnnounceData) (s : State) : Bytes :=
  [BitVec.ofNat 8 a.priority1, BitVec.ofNat 8 a.clockClass, BitVec.ofNat 8 a.accuracy] ++ be 2 a.variance
    ++ [BitVec.ofNat 8 a.priority2] ++ euiBytes a.grandmaster ++ be 2 a.steps ++ [BitVec.ofNat 8 a.timeSource,
    BitVec.ofNat 8 (utcOffset s), BitVec.ofNat 8 (bit s.time.utcValid + 2 * bit s.time.leapOn)]

/-- A Sync or an Announce leaves a master port (R371, R372): kind 0 Sync, 8 Follow_Up, 11 Announce. -/
def execPtpMasterSend (port : Nat) (sync : Bool) (departure : FullStamp) (s : State) : Answer :=
  whenClock s fun s =>
    if !sendsAsMaster s port then s
    else if sync then
      let t := ptpStamp (fullNs departure + latency s port false)
      if oneStep s port then ethernetOut port (.ethernet port 0 ([0] ++ t)) s
      else ethernetOut port (.ethernet port 8 t) (ethernetOut port (.ethernet port 0 [2]) s)
    else
      let own := ownData s
      let a := match s.time.servo.synced, s.time.parent with
        | true, some p => { p with steps := p.steps + 1 }
        | _, _ => own
      ethernetOut port (.ethernet port 11 (announceBytes a s)) s

/-- A Delay_Req on a master port is answered with its arrival (R370, R373): kind 9 Delay_Resp. -/
def execDelayReq (port : Nat) (arrival : FullStamp) (requester : BitVec 64) (s : State) : Answer :=
  whenClock s fun s =>
    if sendsAsMaster s port && ptpProfile s == 1 then
      ethernetOut port (.ethernet port 9 (ptpStamp (fullNs arrival + latency s port true) ++ euiBytes requester)) s
    else s

/-- A Pdelay_Req is answered (R372): one-step with a receipt stamp of zero and the turnaround in correctionField, or with the
receipt stamp and a follow-up. Kinds 3 and 10. -/
def execPdelayReq (port : Nat) (arrival departure : FullStamp) (s : State) : Answer :=
  whenClock s fun s =>
    if ptpProfile s ≠ 2 ∨ 4 ≤ port ∨ (maySlave s port = false ∧ mayMaster s port = false) then s
    else
      let a := fullNs arrival + latency s port true
      let d := fullNs departure + latency s port false
      if oneStep s port then ethernetOut port (.ethernet port 3 (zeros 10 ++ be 8 (d - a).toNat)) s
      else ethernetOut port (.ethernet port 10 (ptpStamp d)) (ethernetOut port (.ethernet port 3 (ptpStamp a)) s)

/-! ### PPS, holdover, RTC, leap second (R365, R366, R378) -/

/-- A TCAP0 edge with PPS on: in PPS_HOLD it is a sample with τ = 1 (R378). -/
def execPpsEdge (stamp : FullStamp) (s : State) : Answer :=
  whenClock s fun s =>
    if !ppsFlag s then s
    else
      let s := { s with time.ppsSeen := true }
      if s.time.servo = .ppsHold then
        let v : Int := stamp.ns.toNat * 65536 + stamp.frac.toNat
        servoSample (if 500000000 * 65536 ≤ v then v - 1000000000 * 65536 else v) 0 s
      else s

/-- No TCAP0 edge within 1.5 s (R378). -/
def execPpsTimeout (s : State) : Answer :=
  whenClock s fun s =>
    let s := { s with time.ppsSeen := false }
    if s.time.servo = .ppsHold then servoTo .holdover s else s

/-- HOLDOVER_S seconds have passed in HOLDOVER (R378). -/
def execHoldoverExpiry (s : State) : Answer :=
  whenClock s fun s => if s.time.servo = .holdover then servoTo .free s else s

/-- While LOCKED, each second writes the time base's seconds into the VBAT counter (R365). -/
def execRtcWrite (s : State) : Answer :=
  whenClock s fun s =>
    if s.time.servo = .locked then { s with sys.vbat := { s.sys.vbat with seconds := s.time.sec, valid := true } } else s

/-- The inserted second ends: UTC_OFFSET rises by one (R366). -/
def execLeapSecondEnd (s : State) : Answer :=
  whenClock s fun s =>
    if s.time.leapOn then
      { s with time.utcOffset := BitVec.ofNat 8 (utcOffset s) + 1, time.leapOn := false, time.leap61 := false }
    else s

/-! ### Captures (R25, R382, R383) -/

/-- The 16 bytes of a capture entry (R382). -/
def captureBytes (pin : Nat) (held : Bool) (c : Capture) : Bytes :=
  [BitVec.ofNat 8 pin, BitVec.ofNat 8 (bit held)] ++ le 2 c.more.toNat ++ le 6 c.first.sec.toNat ++ le 4 c.first.ns.toNat
    ++ le 2 c.first.frac.toNat

/-- CAPTURE logs an input (R382). -/
def captureOn (s : State) (pin : Nat) : Bool := testBit (ptp s 0x1C 1 0) pin

/-- The latest capture entry of an input is rewritten. (DEDUCED, log 63) -/
def rewriteCapture (pin : Nat) (body : Bytes) : List LogEntry → List LogEntry
  | [] => []
  | e :: es =>
    let es' := rewriteCapture pin body es
    if es' = es ∧ e.kind = 4 ∧ e.body.head? = some (BitVec.ofNat 8 pin) then { e with body := body } :: es else e :: es'

/-- The entry of an input in the tick in progress takes its final bytes. (DEDUCED, log 63) -/
def updateCapture (pin : Nat) (held : Bool) (c : Capture) (s : State) : State :=
  let b := captureBytes pin held c
  { s with cap.log.entries := rewriteCapture pin b s.cap.log.entries, cap.queue := rewriteCapture pin b s.cap.queue }

/-- A pin input's state. (DESIGN CHOICE, log 64) -/
def pinInput (s : State) (pin : Nat) : PinInput := s.time.pins.getD pin ⟨false, false, none, 0, false⟩

/-- Write a pin input's state. -/
def setPin (pin : Nat) (p : PinInput) (s : State) : State := { s with time.pins := s.time.pins.set pin p }

/-- An edge on TCAPn: `active` is the edge that CAPTURE selects (R25, R382). The first of a tick makes the entry; the others
count in MORE. -/
def execPinEvent (pin : Fin 4) (active : Bool) (stamp : FullStamp) (s : State) : Answer :=
  whenRunning s fun s =>
    let old := pinInput s pin.val
    let p : PinInput := { old with active := active, seen := old.seen || active }
    if !capturing s || !active || !captureOn s pin.val then setPin pin.val p s
    else
      match p.entry with
      | none =>
        let c : Capture := ⟨stamp, 0⟩
        appendInput ⟨0, 4, BitVec.ofNat 32 ((stamp.sec.toNat * 1000000000 + stamp.ns.toNat) % 2 ^ 32),
          captureBytes pin.val true c, none⟩ (setPin pin.val { p with entry := some c } s)
      | some c =>
        let c := { c with more := BitVec.ofNat 16 (sat 16 (c.more.toNat + 1)) }
        updateCapture pin.val true c (setPin pin.val { p with entry := some c } s)

/-- At a boundary each capture entry takes its flag; an input held active without an edge makes an entry with a stamp of
zeros (R25, R382, R383). (DEDUCED, log 63) -/
def closeCaptures (stamp : Stamp) (s : State) : State :=
  (List.range 4).foldl (fun s n =>
    let p := pinInput s n
    let s := match p.entry with
      | some c => updateCapture n p.active c s
      | none =>
        if p.active && captureOn s n then
          appendInput ⟨0, 4, BitVec.ofNat 32 (stampNs stamp % 2 ^ 32), captureBytes n true ⟨⟨0, 0, 0⟩, 0⟩, none⟩ s
        else s
    setPin n { p with entry := none, seen := p.active } s) s

/-- A capture entry of a log: input, held flag, MORE, seconds, nanoseconds (R382). -/
def captureOf (e : LogEntry) : Nat × Bool × Nat × Nat × Nat :=
  let n (o l : Nat) : Nat := ofLe (slice e.body o l)
  (n 0 1, testBit (n 1 1) 0, n 2 2, n 4 6, n 0xA 4)

/-- A capture entry that was made without an edge. (DEDUCED, log 63) -/
def edgeless (e : LogEntry) : Bool :=
  let c := captureOf e
  c.2.2.2.1 == 0 && c.2.2.2.2 == 0

/-- EDGES of an input (R389). (DEDUCED, log 63) -/
def countEdges (pin n : Nat) (s : State) : State :=
  match pin with
  | 0 => { s with time.edges0 := s.time.edges0.add n }
  | 1 => { s with time.edges1 := s.time.edges1.add n }
  | 2 => { s with time.edges2 := s.time.edges2.add n }
  | _ => { s with time.edges3 := s.time.edges3.add n }

/-- The capture entries of a log, once: TIME_CAPTURE, the edge counts, and the runs of entries held active (R25, R383). -/
def capturesOnce (s : State) : State :=
  let key := (0x3000, 0)
  if s.work.handled.contains key then s
  else
    let s := { s with work.handled := key :: s.work.handled }
    let all := s.work.log.entries.zipIdx.filter fun e => e.1.kind == 4
    let s := all.foldl (fun s x =>
      let c := captureOf x.1
      let o : Org := ⟨0, x.2⟩
      let s := if edgeless x.1 then s
        else raise (Src.c0 o) 0x7011 [c.1, c.2.2.2.1 % 2 ^ 32, c.2.2.2.2, c.2.2.1] (countEdges c.1 (1 + c.2.2.1) s)
      let p := pinInput s c.1
      setPin c.1 { p with heldRun := if c.2.1 then p.heldRun + 1 else 0 } s) s
    (List.range 4).foldl (fun s n =>
      if all.any (fun x => (captureOf x.1).1 == n) then s
      else setPin n { pinInput s n with heldRun := 0, stuck := false } s) s

/-- PIN_STUCK of an input held active in 1,000 consecutive entries, not raised again until a whole inactive tick (R25). -/
def pinStuck (pin : Nat) (s : State) : State :=
  let p := pinInput s pin
  if 1000 ≤ p.heldRun ∧ p.stuck = false then
    let pos := ((s.work.log.entries.zipIdx.find? fun e => e.1.kind == 4 && (captureOf e.1).1 == pin).map fun e => e.2).getD 0
    raise (Src.c0 ⟨0, pos⟩) 0x0012 [pin] (setPin pin { p with stuck := true } s)
  else s

/-- PIN_STUCK (R25, R383). -/
def execPinStuck (pin : Fin 4) (s : State) : Answer := whenProcessing s fun s => pinStuck pin.val (capturesOnce s)

/-! ### Triggers (R384) -/

/-- A pulse on TTRIGn: mode 1 from a whole PTP second, mode 2 from a tick boundary (R384). -/
def execTriggerPulse (output : Nat) (boundary : Bool) (s : State) : Answer :=
  whenClock s fun s =>
    let w := ptp s (0x20 + 2 * output) 2 0
    if 4 ≤ output ∨ w % 4 ≠ (if boundary then 2 else 1) then s
    else
      let begin_ := if boundary then nowNs s else (s.time.sec.toNat + 1) * 1000000000
      emit (.trigger output (!testBit w 2)) { s with time.triggers := s.time.triggers.set output (begin_ + w / 16 * 1000) }

/-! ### Serial launches and meter time replies (R380, R387) -/

/-- The anchor of a serial launch falls due (R380, R381): an entry behind its anchor, or whose port is busy, is dropped. -/
def execSerialLaunch (portB : Bool) (at_ : Stamp) (s : State) : Answer :=
  whenCapturing s fun s =>
    let q := if portB then s.time.serialB else s.time.serialA
    let busy := !(if portB then s.ingest.serialB else s.ingest.serialA).isEmpty
    match q.find? (fun l => decide (l.atNs ≤ stampNs at_)) with
    | none => s
    | some l =>
      let q := q.erase l
      let s := if portB then { s with time.serialB := q } else { s with time.serialA := q }
      if busy || decide (l.atNs < stampNs at_) then { s with time.serLate := s.time.serLate.inc }
      else serialOut portB l.payload s

/-- The outcome of a meter time message (R387). -/
def timeSetDone (org : Org) (m : TimeMsg) (result : Nat) (s : State) : State :=
  let s := { s with time.msgs := s.time.msgs.erase m }
  if result = 0 then { s with time.timeSets := s.time.timeSets.inc }
  else raise (Src.slot m.slot org) 0x7012 [m.slot, m.bearer, result] { s with time.timeSetRefused := s.time.timeSetRefused.inc }

/-- The SET response to a meter time message (R387). -/
def execTimeSetResponse (org : Org) (slot : BitVec 20) (result : Byte) (s : State) : Answer :=
  whenProcessing s fun s =>
    match s.time.msgs.find? (fun m => m.slot == slot.toNat) with
    | some m => timeSetDone org m result.toNat s
    | none => s

/-- No response within 256 ticks counts as refused, with result 0xFF (R387). -/
def execTimeSetTimeout (org : Org) (slot : BitVec 20) (s : State) : Answer :=
  whenProcessing s fun s =>
    match s.time.msgs.find? (fun m => m.slot == slot.toNat && decide (m.tick.toNat + 256 ≤ s.work.log.tick.toNat)) with
    | some m => timeSetDone org m 0xFF s
    | none => s

end Sys2Proof.Machine
end

