-- ==== Sys2Proof/Machine/Keys.lean ====
section
/-!
DEFINITION. Key slots, life-cycle requests, the vault, and tamper (chapter 11).
-/
namespace Sys2Proof.Machine

open Sys2Proof

/-! ### Installing and destroying keys (R405 to R410) -/

/-- A KEY_SLOT record (R406). -/
structure KeyRec where
  slot   : Nat
  type   : Nat
  flags  : Nat
  parent : Nat
  group  : Nat
  uses   : Nat
  ops    : Nat
  root   : Nat
  value  : Bytes
  deriving DecidableEq, Repr

/-- The 96 bytes of a KEY_SLOT record. -/
def KeyRec.ofBytes (v : Bytes) : KeyRec :=
  ⟨ofLe (slice v 0 2) % 8192, ofLe (slice v 2 1), ofLe (slice v 3 1), ofLe (slice v 4 2), ofLe (slice v 6 2) % 4096,
    ofLe (slice v 8 4), ofLe (slice v 0xC 2), ofLe (slice v 0xE 1), slice v 0x10 72⟩

/-- Every field of a KEY_SLOT record lies in its range (R406). -/
def keyRecWf (v : Bytes) : Bool :=
  let k := KeyRec.ofBytes v
  decide (v.length = 96) && decide (ofLe (slice v 0 2) < 8192) && decide (1 ≤ k.type) && decide (k.type ≤ 4)
    && decide (k.flags ≤ 2) && (decide (k.parent < 8192) || (decide (0xFFF0 ≤ k.parent) && decide (k.parent ≤ 0xFFF3)))
    && decide (ofLe (slice v 6 2) < 4096) && decide (k.uses ≤ 16777216) && (k.flags == 1 || k.uses == 0)
    && decide (k.root ≤ 3) && slice v 0xF 1 == zeros 1 && slice v 0x58 8 == zeros 8

/-- Bytes of a value by TYPE (R403). -/
def valueLength (type : Nat) : Nat := if type = 1 then 16 else if type = 4 then 64 else 32

/-- The operations that belong to a TYPE, as bits of OPS (R403). -/
def typeOps (type : Nat) : Nat := if type = 1 then 0x020 else if type = 2 then 0x040 else if type = 3 then 0x183 else 0x01C

/-- A descriptor never written. -/
def KeyDesc.blank : KeyDesc := ⟨0, 0, 0, 0, 0, 0, 0, 0⟩

/-- The descriptor of a slot. -/
def keyDesc (s : State) (slot : Nat) : KeyDesc := tgetD s.cov.keys.slots slot KeyDesc.blank

/-- A persistent slot of a secret TYPE (R403). -/
def KeyDesc.vaulted (d : KeyDesc) : Bool := decide (1 ≤ d.type) && decide (d.type ≤ 3) && decide (d.flags % 4 ≠ 2)

/-- Slot `x` descends from slot `anc` by matching generations, within `n` links (R404, R409). -/
def descends (slots : Tab KeyDesc) (anc : Nat) : Nat → Nat → Bool
  | 0, _ => false
  | n + 1, x =>
    match tget slots x with
    | none => false
    | some d =>
      if d.type = 0 ∨ 0xFFF0 ≤ d.parent.toNat then false
      else match tget slots d.parent.toNat with
        | none => false
        | some p => p.type != 0 && p.gen == d.parentGen && (d.parent.toNat == anc || descends slots anc n d.parent.toNat)

/-- The value of a persistent secret slot stays in the staging buffer for the vault (R414). -/
def keepValue (slot : Nat) (s : State) : State :=
  let d := keyDesc s slot
  match slotValue s slot with
  | none => s
  | some v =>
    if d.vaulted then { s with keys.kept := s.keys.kept ++ [(s.work.log.tick, ⟨slot, d.gen, d.type, v⟩)] } else s

/-- Overwrite and release the cell of a slot (R409). (DEDUCED, log 72) -/
def releaseCell (slot : Nat) (s : State) : State := { s with keys.cells := tdel s.keys.cells slot }

/-- Release the cells of every slot whose chain is no longer intact, the vault's needs apart (R403, R409). -/
def releaseBroken (s : State) : State :=
  (s.keys.cells.map (·.1)).foldl (fun st k => if intact st k then st else releaseCell k (keepValue k st)) s

/-- A changed persistent secret slot calls for a vault write (R414). -/
def callVault (s : State) : State :=
  if s.keys.vaultDue.contains s.work.log.tick then s
  else { s with keys.vaultDue := s.keys.vaultDue ++ [s.work.log.tick] }

/-- A value enters the cell of a slot: two shares for a secret, in clear for a public value (R403, R412).
(DEDUCED, log 72) -/
def storeValue (slot type gen : Nat) (v : Bytes) (s : State) : State :=
  if type = 4 then
    { s with keys.cells := tput s.keys.cells slot ⟨v, []⟩, keys.pubs := tput s.keys.pubs (slot * 65536 + gen) v }
  else
    let (r, s) := drawBytes v.length s
    { s with keys.cells := tput s.keys.cells slot ⟨r, xorBytes v r⟩ }

/-- The value that a KEY_SLOT record unwraps to, where the wrap and its padding hold (R407). -/
def unwrapRec (s : State) (k : KeyRec) : Option Bytes :=
  (keyUnwrap (importKey s k.root) k.value).bind fun v =>
    if (v.drop (valueLength k.type)).all (· == 0) then some (v.take (valueLength k.type)) else none

/-- The descriptor an install writes (R408). -/
def KeyRec.desc (k : KeyRec) (s : State) : KeyDesc :=
  let old := keyDesc s k.slot
  { type := k.type, flags := k.flags, parent := BitVec.ofNat 16 k.parent,
    parentGen := if 0xFFF0 ≤ k.parent then 0 else (keyDesc s k.parent).gen,
    gen := if old.type = 0 then old.gen else old.gen + 1, uses := k.uses, ops := BitVec.ofNat 16 k.ops,
    group := BitVec.ofNat 12 k.group }

/-- An install (R408). -/
def installKey (src : Src) (k : KeyRec) (s : State) : State :=
  let old := keyDesc s k.slot
  let d := k.desc s
  let s := if old.type = 0 then s else releaseCell k.slot (keepValue k.slot s)
  let s := putDesc src k.slot d s
  let s := match unwrapRec s k with | some v => storeValue k.slot k.type d.gen.toNat v s | none => s
  let s := releaseBroken s
  let s := if d.vaulted || old.vaulted then callVault s else s
  raise src 0x8003 [k.slot, k.type, d.gen.toNat] s

/-- Slots that hold a cell (R403, R422). -/
def cellsInUse (s : State) : Nat := (s.cov.keys.slots.filter fun p => p.2.type != 0 && intact s p.1).length

/-- Body bytes of a vault of the state (R413, R422). -/
def vaultBytes (s : State) : Nat :=
  s.cov.keys.slots.foldl (fun a p => if p.2.vaulted && intact s p.1 then a + 8 + valueLength p.2.type else a) 0

/-- A usable slot other than `slot` holds operation `op`, for the group where one is given (R407). -/
def otherHolds (s : State) (slot op : Nat) (group : Option (BitVec 12)) : Bool :=
  (usableSlots s op).any fun j => j != slot && (match group with | none => true | some g => (keyDesc s j).group == g)

/-- The check of an install: the cause of KEY_IMPORT_REFUSED on failure (R407, R423). (DESIGN CHOICE, log 70) -/
def installCheck (vault : Bool) (k : KeyRec) (s : State) : Option Nat :=
  let old := keyDesc s k.slot
  if !(importRoots s).contains k.root then some 0
  else if (unwrapRec s k).isNone then some 1
  else if k.ops &&& typeOps k.type ≠ k.ops then some 2
  else if !(if 0xFFF0 ≤ k.parent then (chainRoots s).contains (k.parent - 0xFFF0)
      else chainIntact (chainRoots s) s.cov.keys.slots 7 k.parent && k.parent != k.slot
        && !descends s.cov.keys.slots k.slot 8 k.parent) then some 3
  else
    let t := installKey Src.stagedSet k s
    if (testBit k.ops 5 && otherHolds t k.slot 5 (some (BitVec.ofNat 12 k.group))) || (testBit k.ops 6 && otherHolds t k.slot 6 none)
        || (testBit k.ops 0 && otherHolds t k.slot 0 none) then some 4
    else if 6144 < cellsInUse t ∨ (vault ∧ 65456 < vaultBytes t) then some 5
    else if old.type ≠ 0 ∧ old.gen = 0xFFFF then some 6
    else none

/-- An invalidation (R409). (DESIGN CHOICE, log 70) -/
def invalidateKey (src : Src) (slot : Nat) (s : State) : State :=
  let d := keyDesc s slot
  let orphans := (s.cov.keys.slots.filter fun p => descends s.cov.keys.slots slot 8 p.1).length
  let s := releaseCell slot (keepValue slot s)
  let s := putDesc src slot { d with type := 0, gen := d.gen + 1 } s
  let s := releaseBroken s
  let s := if d.vaulted then callVault s else s
  raise src 0x8004 [slot, d.gen.toNat + 1, orphans] s

/-- A KEY_SLOT record of a changed image: unchanged where the slot already holds the same fields and value, installed where
it passes its check, else skipped (R407, R408). (DEDUCED, log 23) -/
def installFromImage (src : Src) (v : Bytes) (s : State) : State :=
  let k := KeyRec.ofBytes v
  let d := keyDesc s k.slot
  let same := decide ({ k.desc s with gen := d.gen } = d) && (match unwrapRec s k with
    | some x => slotValue s k.slot == some x
    | none => false)
  if same then s
  else match installCheck true k s with
    | none => installKey src k s
    | some c => raise src 0x8007 [k.slot, c] s

/-- Slots with LIFETIME 2 are invalidated in the processing after a start; those that the start of a chain itself installed
expire at the next one (R403, R405). (DEDUCED, log 23) (DEDUCED, log 67) (DEDUCED, log 68) -/
def expireSlots (s : State) : State :=
  if s.sys.genesis then s
  else (s.cov.keys.slots.filter fun p => p.2.type != 0 && p.2.flags % 4 == 2 && p.2.gen != 0xFFFF).foldl
    (fun st p => invalidateKey Src.image p.1 st) s

/-- KEY_VALUE_MISSING for each persistent secret slot with an intact chain and no value, as its chain becomes intact
(R415). (DEDUCED, log 68) -/
def reportMissing (s : State) : State :=
  let now := (s.cov.keys.slots.filter fun p => p.2.vaulted && intact s p.1).map (·.1)
  let fresh := now.filter fun k => (tget s.keys.cells k).isNone && !s.keys.chained.contains k
  let s := fresh.foldl (fun st k => raise Src.stagedSet 0x8006 [k, (keyDesc st k).gen.toNat] st) s
  { s with keys.chained := now }

/-! ### The ledger key and the DTLS key (R38, R456) -/

/-- The private key of a slot, where the slot is usable for the operation. -/
def privateKey (s : State) (op slot : Nat) : Option Nat :=
  if usable s op slot then (slotValue s slot).map ofLe else none

/-- The ledger key: slot and scalar, where usable (R37, R38). -/
def ledgerKey (s : State) : Option (Nat × Nat) :=
  let k := cfg s 0x0001 0 4 2 0xFFFF
  if k = 0xFFFF then none else (privateKey s 0 k).map fun d => (k, d)

/-! ### Life-cycle requests (R397 to R400, R612, R613, R616) -/

/-- Code of an action (R484). -/
def actionCode (a : LcAction) : Nat :=
  match a with
  | .advance => 1 | .quarantine => 2 | .returnUnit => 3 | .scrap => 4 | .writeRoot => 5 | .revoke => 6 | .enableTamper => 7

/-- The bytes of the life-cycle record (R420). -/
def LcRecord.bytes (r : LcRecord) : Bytes :=
  le 4 (r.lifecycle.toNat + 2 ^ 20 * r.revoke.toNat) ++ le 2 r.tamper.toNat ++ le 1 r.written.toNat ++ [0]

/-- Write the life-cycle record. -/
def putLc (src : Src) (r : LcRecord) (s : State) : State :=
  if r = s.cov.keys.record then s else change src 8 3 0 r.bytes { s with cov.keys.record := r }

/-- A root written by fuses, or by a request that the record holds (R397, R398). (DEDUCED, log 66) -/
def rootWritten (s : State) (r : Nat) : Bool :=
  (rootFuses s.keys.fuses r).done || (decide (1 ≤ r) && s.cov.keys.record.written.getLsbD (r - 1))

/-- Roots that may sign a request (R396). -/
def requestRoots (s : State) (a : LcAction) : List Nat :=
  let under (l : LifeCycle) : List Nat :=
    match l with | .manufacture => [0] | .provision => [1] | .field => [2, 3] | _ => []
  (match lifeState s with
    | .quarantine => match a with
      | .returnUnit => under (beneath (lifeFuses s))
      | .scrap => [0, 1, 2, 3]
      | _ => []
    | l => under l).filter (rootLive s)

/-- The root secret that a WRITE_ROOT request carries (R398). -/
def rootSecret (s : State) (q : LcRequest) : Option Bytes :=
  (keyUnwrap (importKey s q.root) q.wrapped).bind fun v => if v.length = 32 then some v else none

/-- Every burned bit of `old` stands in `new`. -/
def agrees (old new : Bytes) : Bool := (List.zipWith (fun a b => a &&& ~~~b) old new).all (· == 0)

/-- The condition of R397 or R398. (DEDUCED, log 66) -/
def lcCondition (s : State) (q : LcRequest) : Bool :=
  let l := lifeFuses s
  let st := lifeState s
  match q.action with
  | .advance =>
    match st with
    | .manufacture => rootWritten s 1
    | .provision => rootWritten s 2 || rootWritten s 3
    | _ => false
  | .quarantine => (st == .manufacture || st == .provision || st == .field) && decide (entriesOf l < 9)
  | .returnUnit => st == .quarantine && s.keys.active &&& tamperFuses s == 0 && decide (returnsOf l < 8)
  | .scrap => st != .scrap
  | .writeRoot =>
    ((st == .manufacture && q.target == 1) || (st == .provision && (q.target == 2 || q.target == 3)))
      && !rootWritten s q.target
      && (match rootSecret s q with
        | some v => agrees (rootFuses s.keys.fuses q.target).secret v && agrees (rootFuses s.keys.fuses q.target).digest q.digest
        | none => false)
  | .revoke =>
    let other := if q.target = 2 then 3 else 2
    st == .field && (q.target == 2 || q.target == 3) && q.root == other && rootLive s other
  | .enableTamper => st == .manufacture || st == .provision

/-- The record that a request leaves (R397, R398, R401). -/
def lcEffect (s : State) (q : LcRequest) : LcRecord :=
  let r := s.cov.keys.record
  let l := lifeFuses s
  let withBit (n : Nat) : LcRecord := { r with lifecycle := r.lifecycle ||| BitVec.ofNat 20 (2 ^ n) }
  match q.action with
  | .advance => withBit (match lifeState s with | .manufacture => 0 | _ => 1)
  | .quarantine => withBit (2 + entriesOf l)
  | .returnUnit => withBit (11 + returnsOf l)
  | .scrap => withBit 19
  | .writeRoot => { r with written := r.written ||| BitVec.ofNat 3 (2 ^ (q.target - 1)) }
  | .revoke => { r with revoke := r.revoke ||| BitVec.ofNat 2 (2 ^ (q.target - 2)) }
  | .enableTamper => { r with tamper := r.tamper ||| q.sources }

/-- The burn that an applied request calls for, where its fuses do not stand already (R400). -/
def lcBurn (s : State) (q : LcRequest) (r : LcRecord) : Option Burn :=
  let f := s.keys.fuses
  match q.action with
  | .writeRoot =>
    if (rootFuses f q.target).done then none else (rootSecret s q).map fun v => .root q.target v q.digest
  | .revoke => let n := r.revoke &&& ~~~f.revoke; if n = 0 then none else some (.revoke n)
  | .enableTamper => let n := r.tamper &&& ~~~f.tamper; if n = 0 then none else some (.tamper n)
  | _ => let n := r.lifecycle &&& ~~~f.lifecycle; if n = 0 then none else some (.lifecycle n)

/-- The state with one pending request applied, for the check of R399. -/
def lcSimulate (s : State) (q : LcRequest) : State :=
  if lcCondition s q then { s with cov.keys.record := lcEffect s q } else s

/-- The state with every pending request applied, in the order of their boundaries (R399). -/
def lcPendingApplied (s : State) : State :=
  (sortBy (fun a b => decide (a.2.boundary.toNat ≤ b.2.boundary.toNat)) s.cov.keys.requests).foldl
    (fun st p => lcSimulate st p.2) s

/-- The bytes of a request as received (R420). -/
def lcBytes (q : LcRequest) : Bytes := q.body ++ le 32 q.r ++ le 32 q.s

/-- A request becomes pending (R399). -/
def lcAccept (src : Src) (q : LcRequest) (s : State) : State :=
  let pos := lowestGap (sortBy (fun a b => decide (a ≤ b)) (s.cov.keys.requests.map (·.1))) 0
  change src 8 2 pos (lcBytes q) { s with cov.keys.requests := s.cov.keys.requests ++ [(pos, q)] }

/-- One request at its boundary: checked again, then applied or dropped (R400). -/
def lcApply (p : Nat × LcRequest) (s : State) : State :=
  let q := p.2
  let src := Src.stagedSet
  let s := change src 8 2 p.1 [] { s with cov.keys.requests := s.cov.keys.requests.filter (·.1 != p.1) }
  if !lcCondition s q then raise src 0x8002 [actionCode q.action, q.boundary.toNat % 2 ^ 32] s
  else
    let old := lifeState s
    let r := lcEffect s q
    let burn := lcBurn s q r
    let s := putLc src r s
    let new := lifeState s
    let s := match burn with
      | some b => { s with keys.burns := s.keys.burns ++ [(s.work.log.tick, b)] }
      | none => s
    let s := if old = new then s else raise src 0x8001 [old.code, new.code, 0] s
    if new = .quarantine ∧ old ≠ .quarantine then { s with keys.zeroiseDue := true } else s

/-- The pending requests of this boundary, and of those a skip passed over, at the end of stage 7 (R400).
(DEDUCED, log 66) -/
def lcBoundary (s : State) : State :=
  (sortBy (fun a b => decide (a.2.boundary.toNat ≤ b.2.boundary.toNat))
    (s.cov.keys.requests.filter fun p => decide (p.2.boundary.toNat ≤ s.work.log.tick.toNat))).foldl
    (fun st p => lcApply p st) s

/-- The record comes up to the fuses, and written bits without their completion fuse fall after a start
(R401, R612, R613). (DEDUCED, log 23) (DEDUCED, log 67) -/
def lcCatchUp (s : State) : State :=
  let f := s.keys.fuses
  let r := s.cov.keys.record
  let old := decodeLife r.lifecycle.toNat
  let src := Src.image
  let unburned := if s.keys.starting then
    [1, 2, 3].filter fun n => r.written.getLsbD (n - 1) && !(rootFuses f n).done else []
  let written := (List.range 3).foldl (fun (w : BitVec 3) i =>
    if unburned.contains (i + 1) then w &&& ~~~BitVec.ofNat 3 (2 ^ i) else w) r.written
  let r' : LcRecord := ⟨r.lifecycle ||| f.lifecycle, r.revoke ||| f.revoke, r.tamper ||| f.tamper, written⟩
  let new := decodeLife r'.lifecycle.toNat
  let s := putLc src r' s
  let s := if old = new then s
    else raise src 0x8001 [old.code, new.code, if s.keys.burnCause.isEmpty then 2 else 1] s
  let s := unburned.foldl (fun st n => raise src 0x8009 [n] st) s
  { s with keys.burnCause := [] }

/-! ### Zeroisation and tamper (R416 to R419) -/

/-- The unit generates a DTLS key of its own from its random source (R456). (DESIGN CHOICE, log 5) (DEDUCED, log 75) -/
def makeEphemeral (s : State) : State := { s with bey.ephemeral := some s.freeCtr, freeCtr := s.freeCtr + 1 }

/-- Zeroisation: cells, kept values and every DTLS session key are overwritten (R414, R419). A Beysyn session without its keys
is not ended: R457 does not name zeroisation. A unit that runs on generates a
new DTLS key, since no slot is usable in QUARANTINE (R456). (DEDUCED, log 69) -/
def zeroise (s : State) : State :=
  let s := { s with keys.cells := [], keys.kept := [], keys.vaultDue := [], keys.zeroiseDue := false,
                    bey.dtls := s.bey.dtls.map fun p => (p.1, { p.2 with keyed := false }),
                    bey.tribClients := [], bey.handshakes := 0, bey.witnessUp := false, bey.parentUp := false,
                    bey.ephemeral := none }
  if s.sys.mode = .running then makeEphemeral s else s

/-- Public values of intact slots come back from the flash store (R402). (DEDUCED, log 72) -/
def loadPublic (s : State) : State :=
  (s.cov.keys.slots.filter fun p => p.2.type == 4 && intact s p.1 && (tget s.keys.cells p.1).isNone).foldl
    (fun st p => match tget st.keys.pubs (p.1 * 65536 + p.2.gen.toNat) with
      | some v => { st with keys.cells := tput st.keys.cells p.1 ⟨v, []⟩ }
      | none => st) s

/-- A fresh random string is XORed into both shares of a slot's secret (R412). (DESIGN CHOICE, log 5) -/
def remask (slot : Nat) (s : State) : State :=
  match tget s.keys.cells slot with
  | none => s
  | some c =>
    if c.b.isEmpty then s
    else
      let (r, s) := drawBytes c.a.length s
      { s with keys.cells := tput s.keys.cells slot ⟨xorBytes c.a r, xorBytes c.b r⟩ }

/-- The keys block at boundary `t`: two slots are re-masked, and the life-cycle record of the closing seal comes to govern
the hardware (R400, R402, R412). (DEDUCED, log 69) -/
def keysBoundary (t : Nat) (s : State) : State :=
  let s := remask (2 * (t % 4096) + 1) (remask (2 * (t % 4096)) s)
  let s := if s.keys.zeroiseDue then zeroise s else s
  if s.hw.record = s.cov.keys.record then s else loadPublic { s with hw.record := s.cov.keys.record }

/-- The latch takes the first alarm (R417). -/
def setLatch (bits : BitVec 10) (s : State) : State :=
  if s.keys.latch.isSome then s else { s with keys.latch := some ⟨bits, s.sys.vbat.seconds⟩ }

/-- An alarm outside processing (R418, R421). -/
def raiseAlarm (bits : BitVec 10) (moment : Nat) (s : State) : State :=
  raiseU 0x8010 [bits.toNat, moment] { s with keys.alarms := s.keys.alarms.inc }

/-- A tamper source trips (R416, R418). -/
def alarm (source : Nat) (s : State) : State :=
  let bits := BitVec.ofNat 10 (2 ^ source)
  if !(s.keys.fuses.tamper ||| s.hw.record.tamper).getLsbD source then s
  else match s.sys.mode with
    | .inReset | .pfailHeld | .halted | .dead =>
      if hwLifeState s = .quarantine ∨ hwLifeState s = .scrap then s else setLatch bits s
    | .gaspDone =>
      if hwLifeState s = .quarantine ∨ hwLifeState s = .scrap then raiseAlarm bits 3 s
      else setLatch bits (zeroise (raiseAlarm bits 2 s))
    | .waiting | .running | .pause =>
      if hwLifeState s = .quarantine ∨ hwLifeState s = .scrap then raiseAlarm bits 3 s
      else
        let s := zeroise (raiseAlarm bits 0 s)
        if s.keys.latch.isSome then s
        else { setLatch bits s with keys.burns := (s.cap.tick, .quarantineEntry bits) :: s.keys.burns }

/-- TAMPER_ALARM (R416, R418): a source trips, or stops being tripped. -/
def execTamperAlarm (source : Nat) (active : Bool) (s : State) : Answer :=
  let bit_ := BitVec.ofNat 10 (2 ^ source)
  done s (if 10 ≤ source then s
    else if !active then { s with keys.active := s.keys.active &&& ~~~bit_ }
    else if s.keys.active.getLsbD source then s
    else alarm source { s with keys.active := s.keys.active ||| bit_ })

/-- Clear the latch with its event (R417). -/
def clearLatch (s : State) : State :=
  match s.keys.latch with
  | none => s
  | some l => raiseU 0x8011 [l.sources.toNat, l.seconds.toNat % 2 ^ 32] { s with keys.latch := none }

/-- The next quarantine entry burns (R397, R400, R418). -/
def burnEntry (s : State) : State :=
  let n := BitVec.ofNat 20 (2 ^ (2 + entriesOf (lifeFuses s)))
  { s with keys.fuses.lifecycle := s.keys.fuses.lifecycle ||| n, keys.burnCause := n :: s.keys.burnCause }

/-- Bits burn into a root (R391, R613). -/
def burnRoot (f : Fuses) (code : Nat) (secret digest : Bytes) (completed : Bool) : Fuses :=
  let into (r : RootFuses) : RootFuses :=
    ⟨List.zipWith (· ||| ·) (fit 32 r.secret) (fit 32 secret), List.zipWith (· ||| ·) (fit 32 r.digest) (fit 32 digest),
      r.done || completed⟩
  match code with
  | 1 => { f with rootP := into f.rootP }
  | 2 => { f with rootF0 := into f.rootF0 }
  | 3 => { f with rootF1 := into f.rootF1 }
  | _ => f

/-- Both NOR vault copies and the vault-mirror region are erased (R402). -/
def eraseVault (s : State) : State :=
  { s with keys.copyA := none, keys.copyB := none, keys.mirrorA := none, keys.mirrorB := none, keys.fromMirror := false }

/-- The M20 halts until the next reset: every output other than QSPI returns to high impedance (R67, R351, R402, R418).
(DEDUCED, log 73) -/
def halt (s : State) : State := settlePins { s with sys.mode := .halted, cap.isOn := false }

/-- A burn is due once the seal of its boundary has closed, a SCRAP fuse's once that seal is durable (R400, R402).
(DEDUCED, log 73) -/
def burnDue (s : State) (b : BitVec 48 × Burn) : Bool :=
  match b.2 with
  | .quarantineEntry _ => true
  | .lifecycle bits =>
    if bits.getLsbD 19 then (match s.store.durable with | some d => decide (b.1.toNat ≤ d.toNat) | none => false)
    else (match s.sys.prevSeal with | some p => decide (b.1.toNat ≤ p.1.toNat) | none => false)
  | _ => match s.sys.prevSeal with | some p => decide (b.1.toNat ≤ p.1.toNat) | none => false

/-- A burn takes place. (DEDUCED, log 73) -/
def burn (b : Burn) (completed : Bool) (s : State) : State :=
  match b with
  | .root code secret digest => { s with keys.fuses := burnRoot s.keys.fuses code secret digest completed }
  | .revoke bits => { s with keys.fuses.revoke := s.keys.fuses.revoke ||| bits }
  | .tamper bits => { s with keys.fuses.tamper := s.keys.fuses.tamper ||| bits }
  | .quarantineEntry _ => clearLatch (burnEntry s)
  | .lifecycle bits =>
    let s := if bits.toNat / 2 ^ 11 % 256 ≠ 0 then eraseVault s else s
    let s := { s with keys.fuses.lifecycle := s.keys.fuses.lifecycle ||| bits }
    if bits.getLsbD 19 then halt (eraseVault (zeroise s)) else s

/-- What the burn in front comes to, with its completion: of a root the bits burned stay, any other that does not complete
stays due (R400, R613). -/
def burnFront (b : Burn) (completed : Bool) (rest s : State) : State :=
  match b, completed with
  | .root _ _ _, _ => burn b completed rest
  | _, true => burn b true rest
  | _, false => s

/-- FUSE_BURN (R400, R613): the burn at the front of those due. (DEDUCED, log 73) -/
def execFuseBurn (completed : Bool) (s : State) : Answer :=
  let powered := s.sys.mode == .running || s.sys.mode == .waiting || s.sys.mode == .pause
  doneFuse s (match s.keys.burns.find? (burnDue s) with
    | none => s
    | some b => if powered then burnFront b.2 completed { s with keys.burns := s.keys.burns.erase b } s else s)

/-! ### The vault (R413 to R415) -/

/-- The entry of a slot as of seal `d`: its value from the cell, or as kept (R414). -/
def vaultEntry (s : State) (slot : Nat) (d : KeyDesc) : Option VaultEntry :=
  let cur := if (keyDesc s slot).gen = d.gen ∧ (keyDesc s slot).type = d.type then slotValue s slot else none
  match cur with
  | some v => some ⟨slot, d.gen, d.type, v⟩
  | none => (s.keys.kept.map (·.2)).find? fun e => e.slot == slot && e.gen == d.gen && e.type == d.type

/-- The vault of the state as of seal `d` (R413, R414). (DESIGN CHOICE, log 71) -/
def vaultOf (s : State) (d : BitVec 48) (c : Covered) : VaultCopy :=
  { gen := s.keys.highGen + 1, tick := d, ledgerId := (s.store.ledgerId.getD 0),
    entries := c.keys.slots.filterMap fun p => if p.2.vaulted then vaultEntry s p.1 p.2 else none }

/-- A vault copy goes to the mirror block not written last (R414). -/
def mirrorVault (v : VaultCopy) (s : State) : State :=
  let last := s.keys.mirrorLastB
  { s with keys.mirrorA := if last then some v else s.keys.mirrorA, keys.mirrorB := if last then s.keys.mirrorB else some v,
           keys.mirrorLastB := !last }

/-- A vault write with its outcome in the NOR (R414). (DESIGN CHOICE, log 71) -/
def writeVault (ok : Bool) (d : BitVec 48) (c : Covered) (s : State) : State :=
  let v := vaultOf s d c
  let addr := if s.keys.inUseB then 0x810000 else 0x820000
  let s := { s with keys.vaultDue := s.keys.vaultDue.filter (fun b => decide (d.toNat < b.toNat)),
                    keys.kept := s.keys.kept.filter (fun e => decide (d.toNat < e.1.toNat)), keys.highGen := v.gen }
  if s.keys.frozen then mirrorVault v s
  else if ok then
    let s := mirrorVault v s
    if s.keys.inUseB then { s with keys.copyA := some v, keys.inUseB := false } else { s with keys.copyB := some v, keys.inUseB := true }
  else
    let s := mirrorVault v s
    let s := if s.keys.inUseB then { s with keys.copyA := none } else { s with keys.copyB := none }
    raiseU 0x8008 [addr] { s with keys.frozen := true, keys.writeFails := s.keys.writeFails.inc }

/-- VAULT_WRITE (R414): due from boundary B+2 on, with the secrets of the latest durable seal. -/
def execVaultWrite (ok : Bool) (s : State) : Answer :=
  let powered := s.sys.mode == .running || s.sys.mode == .waiting || s.sys.mode == .pause
  done s (match s.store.durable.bind fun d => (stateAsOf s d).map fun c => (d, c) with
    | none => s
    | some (d, c) =>
      let due := s.keys.vaultDue.any fun b => decide (b.toNat ≤ d.toNat) && decide (b.toNat + 2 ≤ s.cap.tick.toNat)
      if powered && due then writeVault ok d c s else s)

end Sys2Proof.Machine
end

