-- ==== Sys2Proof/Machine/Reset.lean ====
section
/-!
DEFINITION. The reset of the core and line dies: what a reset leaves of the state, and the cause it latches (R559, R560).
-/
namespace Sys2Proof.Machine

open Sys2Proof

/-- The power-up state with what outlives a reset: NOR, NAND, fuses, the VBAT domain, the test access port, and the levels that
the board holds (R560). The queue of commands is the model's own. (DESIGN CHOICE, log 18) -/
def powerUp (s : State) : State :=
  { State.reset with
    sys := { SysBlock.init with vbat := s.sys.vbat, ethUp := s.sys.ethUp, region := s.sys.region, pfailWait := s.sys.pfailWait }
    snaps := s.snaps.filter fun x => s.store.durable == some x.1
    store := { s.store with
      mode := if s.store.mode = .coarseTest then .coarseTest else .coarseStart, frames := [], dirty := [], lent := false, lastLow := none, scanned := false, writeProtect := false,
      ckptLate := ⟨0, 0⟩, written := ⟨0, 0⟩, copied := ⟨0, 0⟩, programFails := ⟨0, 0⟩, eraseFails := ⟨0, 0⟩,
      uncorrectable := ⟨0, 0⟩, earlyExpiries := ⟨0, 0⟩, mapMisses := ⟨0, 0⟩, fetches := ⟨0, 0⟩ }
    keys := { Keys.init with
      fuses := s.keys.fuses, pubs := s.keys.pubs, copyA := s.keys.copyA, copyB := s.keys.copyB, mirrorA := s.keys.mirrorA,
      mirrorB := s.keys.mirrorB, mirrorLastB := s.keys.mirrorLastB, burnCause := s.keys.burnCause, latch := s.keys.latch,
      active := s.keys.active }
    upd := { Updates.init with delta := s.upd.delta }
    recorder := { Recorder.init with written := s.recorder.written, base := s.recorder.base, bad := s.recorder.bad }
    nor := { s.nor with journal := { s.nor.journal with due := [], frozen := false, fails := ⟨0, 0⟩ } }
    test := { TestBlock.init with tap := s.test.tap, resetLow := s.test.resetLow }
    freeCtr := s.freeCtr
    pending := s.pending }

/-- A recorder grain that was being programmed when the reset came may be unreadable: its records are lost, and its place is
not programmed again (R352, R525). (DESIGN CHOICE, log 19) -/
def cutGrain (s : State) : State :=
  if s.recorder.staging.length < 128 ∨ s.recorder.noGrain = true then s
  else
    let (w, s) := drawWord s
    if w.getLsbD 0 then
      { s with recorder.bad := s.recorder.base / 128 :: s.recorder.bad, recorder.base := s.recorder.base + 128 }
    else s

/-- A reset with a cause of R559: the dies return to their power-up state, every output to high impedance (R542, R560).
(DESIGN CHOICE, log 18) -/
def resetUnit (cause : BitVec 4) (s : State) : State :=
  let s := powerUp (cutGrain s)
  { s with sys.vbat.cause := some cause }

end Sys2Proof.Machine
end

