-- ==== Sys2Proof/Machine/Updates.lean ====
section
/-!
DEFINITION. Firmware and tariff updates: the update session, the Delta, activation, campaigns and tariffs (chapter 14).
-/
namespace Sys2Proof.Machine

open Sys2Proof

/-! ### State objects (R511) -/

/-- The 96 bytes of the update session object (R511). (DEDUCED, log 95) -/
def sessionBytes (x : Option UpdSession) : Bytes :=
  match x with
  | none => [0xFF] ++ zeros 95
  | some u =>
    [BitVec.ofNat 8 u.kind, BitVec.ofNat 8 (bit u.complete + 2 * bit u.pending)] ++ zeros 2 ++ le 4 u.size ++ le 4 u.received
      ++ le 4 u.lastTick.toNat ++ euiBytes u.target ++ fit 32 u.digest ++ le 6 u.boundary.toNat ++ zeros 2 ++ fit 32 u.imageDigest

/-- Write the update session. -/
def putSession (src : Src) (x : Option UpdSession) (s : State) : State :=
  if x = s.cov.upd.session then s else change src 0xB 1 0 (sessionBytes x) { s with cov.upd.session := x }

/-- Bits of a list of numbers below `n`, packed into bytes. -/
def bitmap (n : Nat) (l : List Nat) : Bytes :=
  (List.range (ceilDiv n 8)).map fun i =>
    BitVec.ofNat 8 ((List.range 8).foldl (fun a j => if l.contains (8 * i + j) then a + 2 ^ j else a) 0)

/-- A field of a CAMPAIGN body (R504). -/
def Campaign.word (c : Campaign) (off len : Nat) : Nat := ofLe (slice c.body off len)

/-- CAMPAIGN, the identifier. -/
def Campaign.id (c : Campaign) : Nat := c.word 4 2

/-- Blocks of the image. -/
def Campaign.blockCount (c : Campaign) : Nat := ceilDiv c.size (c.word 6 2)

/-- ACTIVATE_AT; 0 for no activation. -/
def Campaign.activateAt (c : Campaign) : Nat := c.word 0x3C 4

/-- The bytes of the campaign object (R511). -/
def Campaign.bytes (c : Campaign) : Bytes :=
  fit 80 c.body ++ [BitVec.ofNat 8 c.round, BitVec.ofNat 8 c.phase] ++ zeros 2 ++ le 4 c.cursor ++ bitmap c.blockCount c.blocks

/-- Write the campaign. -/
def putCampaign (src : Src) (c : Campaign) (s : State) : State :=
  if s.cov.upd.campaign = some c then s else change src 0xB 2 0 c.bytes { s with cov.upd.campaign := some c }

/-- An item in the staging item encoding (R483). -/
def Item.bytes (i : Item) : Bytes := [i.kind, 0] ++ le 2 i.body.length ++ padTo 4 i.body

/-- Write or remove a tariff (R511). (DEDUCED, log 96) -/
def putTariff (src : Src) (pos : Nat) (x : Option Tariff) (s : State) : State :=
  match x with
  | some t => change src 0xB 3 pos (Item.bytes ⟨8, t.item⟩) { s with cov.upd.tariffs := tput s.cov.upd.tariffs pos t }
  | none => change src 0xB 3 pos [] { s with cov.upd.tariffs := tdel s.cov.upd.tariffs pos }

/-- A field of a TARIFF body (R509). -/
def Tariff.word (t : Tariff) (off len : Nat) : Nat := ofLe (slice t.item off len)

/-- TARIFF, the identifier. -/
def Tariff.id (t : Tariff) : Nat := t.word 4 2

/-- A campaign runs (R505). -/
def campaignRuns (s : State) : Bool := s.cov.upd.campaign.any fun c => c.phase != 3

/-! ### Meter states (R503) -/

/-- Register code of the campaign state. -/
def campCode : Nat := 0xE10

/-- Register code of the tariff state. -/
def tariffCode : Nat := 0xE20

/-- The latest value of a meter state: of a reading that still waits, or of the history. -/
def meterValue (s : State) (slot code : Nat) : Nat :=
  let own := bearerOf (endpoint s slot).port.toNat
  let queues := ((1 :: 2 :: 3 :: 4 :: [own]).flatMap fun b => s.ingest.queue b)
  match (queues.filter fun r => r.kind == .meterState && r.slot == slot && r.code == code).getLast? with
  | some r => (BitVec.ofInt 64 r.value).toNat
  | none => ((tget s.cov.ledger.histories (pairOf slot code)).map (·.value.toNat)).getD 0

/-- A meter state becomes a pending reading of its endpoint's bearer (R503). -/
def raiseMeter (slot code value : Nat) (s : State) : State :=
  let bearer := bearerOf (endpoint s slot).port.toNat
  let cap := (logUtc s.work.log).toNat
  queueReading (Src.sweep (recordEngine slot)) bearer
    { kind := .meterState, org := ⟨(endpoint s slot).port.toNat, 0⟩, slot := slot, code := code,
      value := (BitVec.ofNat 64 value).toInt, ts := cap, tick := s.work.log.tick, captureTs := cap,
      unsync := !synced s.work.log.sync, status := BitVec.ofNat 16 (256 * bearer + 8192), flags := 0, payload := none,
      signature := none, childSeq := 0, child := 0 } s

/-- STATE of a target in a campaign (R503). -/
def campState (s : State) (c : Campaign) (slot : Nat) : Nat :=
  let v := meterValue s slot campCode
  if field v 16 16 = c.id then field v 0 8 else 0

/-- A target is final (R505). -/
def campFinal (c : Campaign) (st : Nat) : Bool := (st == 3 && c.activateAt == 0) || st == 5 || st == 6 || st == 7

/-- A target reaches a state. -/
def setCamp (c : Campaign) (slot state cause missing round : Nat) (s : State) : State :=
  raiseMeter slot campCode (state + 256 * cause + 65536 * c.id + 2 ^ 32 * min missing 65535 + 2 ^ 48 * round) s

/-- A target fails (R505, R506). -/
def failCamp (c : Campaign) (slot cause : Nat) (s : State) : State :=
  raise (Src.sweep (recordEngine slot)) 0xB012 [c.id, slot, cause] (setCamp c slot 6 cause 0 c.round s)

/-- Targets of a campaign in some states. -/
def campCount (s : State) (c : Campaign) (states : List Nat) : Nat :=
  (c.targets.filter fun k => states.contains (campState s c k)).length

/-- The campaign ends (R505). -/
def endCampaign (src : Src) (s : State) : State :=
  match s.cov.upd.campaign with
  | none => s
  | some c =>
    if c.phase = 3 then s
    else
      raise src 0xB013 [c.id, campCount s c [3, 4, 5], campCount s c [6, 7]]
        (putCampaign src { c with phase := 3, blocks := [] }
          { s with upd.requests := s.upd.requests.filter (·.tariff != 4) })

/-- The campaign ends once every target is final (R505). -/
def settleCampaign (src : Src) (s : State) : State :=
  match s.cov.upd.campaign with
  | none => s
  | some c => if c.phase ≠ 3 ∧ c.targets.all (fun k => campFinal c (campState s c k)) then endCampaign src s else s

/-- An endpoint takes part in a campaign or tariff: ACTIVE or SILENT, CLASS and KEY_GROUP match (R505, R510). -/
def matchesTarget (mask group : Nat) (e : Endpoint) : Bool :=
  (e.state == .active || e.state == .silent) && testBit mask e.cls.toNat && (group == 0xFFFF || group == e.keyGroup.toNat)

/-- The matching slots in ascending order. -/
def targetSlots (s : State) (mask group : Nat) : List Nat :=
  (s.cov.tables.endpoints.filter fun p => matchesTarget mask group p.2).map (·.1)

/-- STATE of a target in a tariff: recorded, ACTIVE by its active TARIFF, superseded by a newer push, or none yet
(R503, R510). -/
def tariffState (s : State) (t : Tariff) (slot : Nat) : Nat :=
  let v := meterValue s slot tariffCode
  if field v 16 16 = t.id then field v 0 8
  else if field v 32 16 = t.id ∧ t.id ≠ 0 then 3
  else if s.cov.upd.tariffs.any (fun p => decide (t.applied.toNat < p.2.applied.toNat) && p.2.targets.contains slot) then 5
  else 0

/-- A target of a tariff reaches a state; the active TARIFF stands unless it is set. -/
def setTariff (t : Tariff) (slot state cause : Nat) (active : Bool) (s : State) : State :=
  let old := field (meterValue s slot tariffCode) 32 16
  raiseMeter slot tariffCode (state + 256 * cause + 65536 * t.id + 2 ^ 32 * (if active then t.id else old)) s

/-- A target of a tariff fails (R510, R512). -/
def failTariff (t : Tariff) (slot cause : Nat) (s : State) : State :=
  { raise (Src.sweep (recordEngine slot)) 0xB022 [t.id, slot, cause] (setTariff t slot 4 cause false s) with
    upd.tariffFailed := s.upd.tariffFailed.inc }

/-- TARIFF_STAGED and TARIFF_ACTIVE as targets reach STAGED and their ends; a tariff whose targets are all final is
no longer held (R509, R510). (DEDUCED, log 96) -/
def settleTariff (src : Src) (pos : Nat) (s : State) : State :=
  match tget s.cov.upd.tariffs pos with
  | none => s
  | some t =>
    let states := t.targets.map (tariffState s t)
    let count (l : List Nat) : Nat := (states.filter l.contains).length
    let s :=
      if !t.staged && states.all (· != 0) then
        { raise src 0xB020 [t.id, count [1, 2, 3], count [4]] s with
          cov.upd.tariffs := tput s.cov.upd.tariffs pos { t with staged := true } }
      else s
    if states.all (fun x => x == 3 || x == 4 || x == 5) then
      raise src 0xB021 [t.id, count [3], count [4]]
        (putTariff src pos none { s with upd.requests := s.upd.requests.filter (·.tariff != pos) })
    else s

/-! ### Requests to meters (R506, R508, R510) -/

/-- A-XDR length. -/
def axdrLength (n : Nat) : Bytes := if n < 128 then [BitVec.ofNat 8 n] else [0x82] ++ be 2 n

/-- A-XDR octet string. -/
def axdrOctets (b : Bytes) : Bytes := [9] ++ axdrLength b.length ++ b

/-- DLMS services of a request to an object: class, logical name, and attribute or method. (PRESUMED, log 48) -/
def dlmsRequest (tag : Byte) (cls : Nat) (ln : Bytes) (member : Nat) (data : Bytes) : Bytes :=
  [tag, 1, 0x81] ++ be 2 cls ++ ln ++ [BitVec.ofNat 8 member] ++ data

/-- Logical name of the Image transfer object. (PRESUMED, log 48) -/
def imageName : Bytes := [0, 0, 44, 0, 0, 255]

/-- Block `n` of the campaign's image, the last padded with 0xFF (R507). -/
def campBlock (s : State) (c : Campaign) (n : Nat) : Bytes :=
  let bs := c.word 6 2
  let b := slice (s.upd.delta.take c.size) (n * bs) bs
  b ++ List.replicate (bs - b.length) 0xFF

/-- The image_block_transfer request of a block. -/
def blockRequest (s : State) (c : Campaign) (n : Nat) : Bytes :=
  dlmsRequest 0xC3 18 imageName 2 ([1, 2, 2, 6] ++ be 4 n ++ axdrOctets (campBlock s c n))

/-- The request of a campaign step (R506). -/
def campRequest (s : State) (c : Campaign) (step : MeterStep) : Bytes :=
  match step with
  | .initiate => dlmsRequest 0xC3 18 imageName 1 ([1, 2, 2] ++ axdrOctets (slice c.body 0x28 (c.word 0x38 1)) ++ [6] ++ be 4 c.size)
  | .sizeCheck => dlmsRequest 0xC0 18 imageName 2 [0]
  | .poll => dlmsRequest 0xC0 18 imageName 3 [0]
  | .repair n => blockRequest s c n
  | .verify => dlmsRequest 0xC3 18 imageName 3 [1, 0xF, 0]
  | .schedule =>
    let d := dateTimeBytes c.activateAt 0
    dlmsRequest 0xC1 22 [0, 0, 15, 0, 2, 255] 4 ([0, 1, 1, 2, 2] ++ axdrOctets ((d.drop 5).take 4) ++ axdrOctets (d.take 5))
  | _ => dlmsRequest 0xC0 18 imageName 6 [0]

/-- The value of calendar attribute 6 to 9 (R509, R510): the name, then the three profiles. -/
def tariffValue (t : Tariff) (attr : Nat) : Bytes :=
  let l7 := t.word 0x14 2
  let l8 := t.word 0x16 2
  match attr with
  | 6 => axdrOctets (slice t.item 8 (t.word 6 1))
  | 7 => slice t.item 0x1C l7
  | 8 => slice t.item (0x1C + l7) l8
  | 9 => slice t.item (0x1C + l7 + l8) (t.word 0x18 2)
  | _ => axdrOctets (dateTimeBytes (t.word 0x10 4) 0)

/-- The request of a tariff step (R510). -/
def tariffRequest (t : Tariff) (step : MeterStep) : Bytes :=
  let ln : Bytes := [0, 0, 13, 0, 0, 255]
  match step with
  | .tariffSet a => dlmsRequest 0xC1 20 ln a ([0] ++ tariffValue t a)
  | _ => dlmsRequest 0xC0 20 ln 2 [0]

/-- The APDU of a request in flight. -/
def requestApdu (s : State) (r : MeterRequest) : Option Bytes :=
  if r.tariff = 4 then s.cov.upd.campaign.map fun c => campRequest s c r.step
  else (tget s.cov.upd.tariffs r.tariff).map fun t => tariffRequest t r.step

/-- The endpoint has a key, or needs none (R506). -/
def hasKey (s : State) (slot : Nat) : Bool :=
  securityOf s slot == 0 || (groupKey s (endpoint s slot).keyGroup).isSome

/-- No read and no other request is outstanding at the endpoint (R508). -/
def meterIdle (s : State) (slot : Nat) : Bool :=
  !s.ingest.reads.any (·.1 == slot) && !s.upd.requests.any (·.slot == slot)

/-- Send a request and await its reply (R508). -/
def sendRequest (r : MeterRequest) (s : State) : State :=
  match requestApdu s r with
  | none => s
  | some a =>
    let s := sendApdu (Src.sweep (recordEngine r.slot)) r.slot (securityOf s r.slot) a
      { s with upd.requests := s.upd.requests ++ [r], work.requests := s.work.requests + 1 }
    match r.step with
    | .repair _ => { s with upd.unicast := s.upd.unicast.inc }
    | _ => s

/-- Requests still to be queued in this processing (R508). -/
def requestsLeft (s : State) : Nat := cfg s 0x0B01 0 7 1 8 - s.work.requests

/-- A campaign round reaches the endpoint by multicast: native powerline, or radio to a meter that does not sleep (R507). -/
def multicastReach (s : State) (slot : Nat) : Bool :=
  match (linkOfSlot s.cov.tables.links slot).map (linkEntry s) with
  | some e => match e.body with
    | .plc _ => !e.peer.ieee1901
    | .radio r => !r.sleeper
  | none => false

/-- The next request of a campaign target, where one is due (R506, R507). (DEDUCED, log 96) -/
def campNext (s : State) (c : Campaign) (slot : Nat) : Option MeterStep :=
  let missing := tget s.upd.missing slot
  match campState s c slot with
  | 0 => some .initiate
  | 1 => some .sizeCheck
  | 2 =>
    if c.phase = 1 then
      if c.cursor ≥ c.blocks.length ∧ multicastReach s slot ∧ !s.upd.polled.contains slot then some .poll else none
    else if c.phase = 2 then
      match missing with
      | none => some .poll
      | some [] => if s.upd.polled.contains slot then some .verify else some .poll
      | some (b :: _) => some (.repair b)
    else none
  | 3 => if c.activateAt ≠ 0 then some .schedule else none
  | _ => none

/-- The campaign's requests of this processing, lowest slot first (R508). (DEDUCED, log 96) -/
def campRequests (s : State) : State :=
  match s.cov.upd.campaign with
  | none => s
  | some c =>
    if c.phase = 3 then s
    else c.targets.foldl (fun s slot =>
      match s.cov.upd.campaign with
      | none => s
      | some c =>
        if requestsLeft s = 0 || !meterIdle s slot then s
        else match campNext s c slot with
          | none => s
          | some st =>
            if st = .initiate ∧ !hasKey s slot then failCamp c slot 8 s
            else sendRequest ⟨slot, st, 4, s.work.log.tick, 0⟩ s) s

/-- Start a round, or go on to unicast repair (R507). -/
def startRound (src : Src) (c : Campaign) (round : Nat) (blocks : List Nat) (s : State) : State :=
  if blocks.isEmpty ∨ cfg s 0x0B01 0 6 1 3 + 1 < round then
    putCampaign src { c with phase := 2, blocks := [], cursor := 0 } s
  else
    raise src 0xB011 [c.id, round, blocks.length]
      (putCampaign src { c with phase := 1, round := round, blocks := blocks, cursor := 0 } { s with upd.polled := [] })

/-- The campaign's phase moves on: from initiating to rounds, from one round to the next, to repair (R507).
(DEDUCED, log 96) -/
def campPhase (src : Src) (s : State) : State :=
  match s.cov.upd.campaign with
  | none => s
  | some c =>
    let waits := c.targets.any fun k => let x := campState s c k; x == 0 || x == 1
    if c.phase = 0 then if waits then s else startRound src c 1 (List.range c.blockCount) s
    else if c.phase = 1 ∧ c.blocks.length ≤ c.cursor then
      let reach := c.targets.filter fun k => campState s c k == 2 && multicastReach s k
      if reach.all s.upd.polled.contains then
        let lacking := (List.range c.blockCount).filter fun b => reach.any fun k => ((tget s.upd.missing k).getD []).contains b
        startRound src c (c.round + 1) lacking s
      else s
    else s

/-- The next request of a tariff's target (R510). -/
def tariffNext (s : State) (pos : Nat) (t : Tariff) (slot : Nat) : Option MeterStep :=
  match tariffState s t slot with
  | 0 => some (.tariffSet (tgetD s.upd.attrs (slot * 4 + pos) 6))
  | 1 => some (.tariffSet 10)
  | _ => none

/-- The tariffs' requests of this processing, after the campaign's (R508). -/
def tariffRequests (s : State) : State :=
  let work := s.cov.upd.tariffs.flatMap fun p => p.2.targets.map fun k => (k, p.1)
  (sortBy (fun (a b : Nat × Nat) => decide (a.1 ≤ b.1)) work).foldl (fun s (x : Nat × Nat) =>
    match tget s.cov.upd.tariffs x.2 with
    | none => s
    | some t =>
      if requestsLeft s = 0 || !meterIdle s x.1 then s
      else match tariffNext s x.2 t x.1 with
        | none => s
        | some st =>
          if !hasKey s x.1 then settleTariff (Src.sweep (recordEngine x.1)) x.2 (failTariff t x.1 8 s)
          else sendRequest ⟨x.1, st, x.2, s.work.log.tick, 0⟩ s) s

/-- The requests of one processing (R508). -/
def issueRequests (s : State) : State :=
  let src := Src.sweep 0
  tariffRequests (settleCampaign src (campRequests (campPhase src s)))

/-- Take the request in flight at a slot. -/
def takeRequest (slot : Nat) (campaign : Bool) (s : State) : Option MeterRequest :=
  s.upd.requests.find? fun r => r.slot == slot && (r.tariff == 4) == campaign

/-- The request in flight at a slot is answered. -/
def dropRequest (slot : Nat) (s : State) : State := { s with upd.requests := s.upd.requests.filter (·.slot != slot) }

/-- CAMPAIGN_METER_REPLY (R506). (DEDUCED, log 112) -/
def execCampaignMeterReply (org : Org) (slot : BitVec 20) (reply : CampaignReply) (s : State) : Answer :=
  whenProcessing s fun s =>
    let k := slot.toNat
    match takeRequest k true s, s.cov.upd.campaign with
    | some r, some c =>
      if c.phase = 3 then dropRequest k s
      else
        let s := dropRequest k s
        let s := match r.step, reply with
          | .verify, .refused => failCamp c k 4 s
          | _, .refused => failCamp c k 2 s
          | .initiate, .done => setCamp c k 1 0 0 0 s
          | .sizeCheck, .blockSize n => if n = c.word 6 2 then setCamp c k 2 0 0 1 s else failCamp c k 3 s
          | .poll, .missing l =>
            let l := l.filter fun b => decide (b < c.blockCount)
            setCamp c k 2 0 l.length c.round
              { s with upd.missing := tput s.upd.missing k l, upd.polled := if s.upd.polled.contains k then s.upd.polled else s.upd.polled ++ [k] }
          | .repair n, .done =>
            let l := ((tget s.upd.missing k).getD []).filter (· != n)
            { s with upd.missing := tput s.upd.missing k l, upd.polled := s.upd.polled.filter (· != k) }
          | .verify, .done => setCamp c k 3 0 0 c.round s
          | .schedule, .done => setCamp c k 4 0 0 c.round s
          | .confirm, .status n => if n = 6 then setCamp c k 5 0 0 c.round s else failCamp c k 5 s
          | _, _ => s
        settleCampaign (Src.slot k org) s
    | _, _ => s

/-- TARIFF_METER_REPLY (R510). (DEDUCED, log 112) -/
def execTariffMeterReply (org : Org) (slot : BitVec 20) (reply : TariffReply) (s : State) : Answer :=
  whenProcessing s fun s =>
    let k := slot.toNat
    match takeRequest k false s with
    | none => s
    | some r =>
      match tget s.cov.upd.tariffs r.tariff with
      | none => dropRequest k s
      | some t =>
        let s := dropRequest k s
        let s := match r.step, reply with
          | _, .refused => failTariff t k 2 s
          | .tariffSet 10, .done => setTariff t k 2 0 false s
          | .tariffSet 9, .done => setTariff t k 1 0 false s
          | .tariffSet a, .done => { s with upd.attrs := tput s.upd.attrs (k * 4 + r.tariff) (a + 1) }
          | .tariffConfirm, .name n =>
            if n = slice t.item 8 (t.word 6 1) then setTariff t k 3 0 true s else failTariff t k 5 s
          | _, _ => s
        settleTariff (Src.slot k org) r.tariff s

/-- METER_REQUEST_TIMEOUT: repeated twice, then failed with cause 1 (R508). -/
def execMeterRequestTimeout (org : Org) (slot : BitVec 20) (s : State) : Answer :=
  whenProcessing s fun s =>
    let k := slot.toNat
    match s.upd.requests.find? (·.slot == k) with
    | none => s
    | some r =>
      if s.work.log.tick.toNat < r.tick.toNat + 256 then s
      else
        let s := dropRequest k s
        if r.silences < 2 then sendRequest { r with tick := s.work.log.tick, silences := r.silences + 1 } s
        else if r.tariff = 4 then
          match s.cov.upd.campaign with
          | some c => settleCampaign (Src.slot k org) (failCamp c k 1 s)
          | none => s
        else
          match tget s.cov.upd.tariffs r.tariff with
          | some t => settleTariff (Src.slot k org) r.tariff (failTariff t k 1 s)
          | none => s

/-- CAMPAIGN_CONFIRM: the reading of the outcome, from ACTIVATE_AT + 900 s on (R506). -/
def execCampaignConfirm (slot : BitVec 20) (s : State) : Answer :=
  whenProcessing s fun s =>
    let k := slot.toNat
    match s.cov.upd.campaign with
    | none => s
    | some c =>
      if c.phase ≠ 3 ∧ c.targets.contains k ∧ campState s c k = 4 ∧ (c.activateAt : Int) + 900 ≤ logUtc s.work.log
          ∧ requestsLeft s ≠ 0 ∧ meterIdle s k then
        sendRequest ⟨k, .confirm, 4, s.work.log.tick, 0⟩ s
      else s

/-- TARIFF_CONFIRM (R510). -/
def execTariffConfirm (slot : BitVec 20) (s : State) : Answer :=
  whenProcessing s fun s =>
    let k := slot.toNat
    s.cov.upd.tariffs.foldl (fun s p =>
      let t := p.2
      if t.targets.contains k ∧ tariffState s t k = 2 ∧ (t.word 0x10 4 : Int) + 900 ≤ logUtc s.work.log ∧ requestsLeft s ≠ 0
          ∧ meterIdle s k then
        sendRequest ⟨k, .tariffConfirm, p.1, s.work.log.tick, 0⟩ s
      else s) s

/-- Targets whose schedule did not succeed by ACTIVATE_AT fail with cause 7 (R506, R510). -/
def activateAtPassed (s : State) : State :=
  let now := logUtc s.work.log
  let s := match s.cov.upd.campaign with
    | none => s
    | some c =>
      if c.phase ≠ 3 ∧ c.activateAt ≠ 0 ∧ (c.activateAt : Int) ≤ now then
        settleCampaign (Src.sweep 0)
          ((c.targets.filter fun k => campState s c k == 3).foldl (fun s k => failCamp c k 7 (dropRequest k s)) s)
      else s
  s.cov.upd.tariffs.foldl (fun s p =>
    if (p.2.word 0x10 4 : Int) ≤ now then
      settleTariff (Src.sweep 0) p.1
        ((p.2.targets.filter fun k => decide (tariffState s p.2 k < 2)).foldl (fun s k => failTariff p.2 k 7 (dropRequest k s)) s)
    else s) s

/-- ACTIVATE_AT_PASSED. -/
def execActivateAtPassed (s : State) : Answer := whenProcessing s activateAtPassed

/-- Targets still open at DEADLINE fail with cause 6 and the campaign ends (R505). -/
def campaignDeadline (s : State) : State :=
  match s.cov.upd.campaign with
  | none => s
  | some c =>
    if c.phase ≠ 3 ∧ (c.word 0x40 4 : Int) ≤ logUtc s.work.log then
      endCampaign (Src.sweep 0)
        ((c.targets.filter fun k => !campFinal c (campState s c k)).foldl (fun s k => failCamp c k 6 s) s)
    else s

/-- CAMPAIGN_DEADLINE. -/
def execCampaignDeadline (s : State) : Answer := whenProcessing s campaignDeadline

/-- CAMPAIGN_BLOCK_MULTICAST: one block on each bearer in BEARERS (R507). -/
def execCampaignBlockMulticast (org : Org) (s : State) : Answer :=
  whenProcessing s fun s =>
    let _ := org
    match s.cov.upd.campaign with
    | none => s
    | some c =>
      match c.blocks[c.cursor]? with
      | none => s
      | some n =>
        if c.phase ≠ 1 ∨ s.work.log.tick.toNat < s.upd.lastBlock.toNat + cfg s 0x0B01 0 4 2 16 then s
        else
          let s := putCampaign (Src.sweep 0) { c with cursor := c.cursor + 1 } { s with upd.lastBlock := s.work.log.tick }
          if !s.upd.hasImage then s
          else
            let pay := wrapApdu 0 (blockRequest s c n)
            let s := if testBit (c.word 0x39 1) 0 then
                plcAddLaunch (.stripe (s.work.log.tick + 2) (cfg s 0x0102 0 2 1 0)) 0 0xFFF 0 false pay s
              else s
            let s := if testBit (c.word 0x39 1) 1 then
                (List.range 4).foldl (fun s i =>
                  let v := c.word (0x44 + 2 * i) 2
                  if v = 0xFFFF then s else radioAddLaunch (tickStartNs s 2) (chanOf v) 0 0xFFF 0 pay s) s
              else s
            { s with upd.multicast := s.upd.multicast.inc }

/-! ### Items that start, cancel, push and withdraw (R504, R505, R509, R510) -/

/-- UTC seconds since 2020 lie at least ACTIVATE_LEAD_S after the log's tick-start time (R505). -/
def leadOk (s : State) (t : Nat) : Bool := decide (logUtc s.work.log + cfg s 0x0B01 0 8 4 3600 ≤ (t : Int))

/-- The check of a CAMPAIGN item: a conflict cause of R482, or none (R505). -/
def campaignCheck (b : Bytes) (s : State) : Option Nat :=
  let w (off len : Nat) : Nat := ofLe (slice b off len)
  if 1 < w 0 1 ∨ w 4 2 = 0 then some 1
  else if w 0 1 = 1 then (if s.cov.upd.campaign.any fun c => c.phase != 3 && c.id == w 4 2 then none else some 3)
  else if !((w 2 2 ≤ 0xFFF ∨ w 2 2 = 0xFFFF) ∧ 64 ≤ w 6 2 ∧ w 6 2 ≤ 1024 ∧ 1 ≤ w 0x38 1 ∧ w 0x38 1 ≤ 16 ∧ w 0x39 1 < 4
      ∧ w 0x3A 2 = 0 ∧ w 0x4C 4 = 0 : Bool) then some 1
  else if !(match s.cov.upd.session with
      | some u => u.kind == 1 && u.complete && u.imageDigest == slice b 8 32
      | none => false) then some 3
  else if campaignRuns s then some 6
  else
    let at_ := w 0x3C 4
    let dl := w 0x40 4
    if (at_ ≠ 0 ∧ !leadOk s at_) ∨ !leadOk s dl ∨ dl ≤ at_ then some 1 else none

/-- A CAMPAIGN item applies (R505). -/
def campaignApply (src : Src) (b : Bytes) (s : State) : State :=
  let w (off len : Nat) : Nat := ofLe (slice b off len)
  if w 0 1 = 1 then
    match s.cov.upd.campaign with
    | none => s
    | some c =>
      endCampaign src ((c.targets.filter fun k => !campFinal c (campState s c k)).foldl
        (fun s k => setCamp c k 7 0 0 c.round s) s)
  else
    let size := (s.cov.upd.session.map (·.size)).getD 0
    let c : Campaign := ⟨b, size, targetSlots s (w 1 1) (w 2 2), 0, 0, 0, []⟩
    let s := putSession src none s
    let s := putCampaign src c { s with upd.missing := [], upd.polled := [], upd.lastBlock := s.work.log.tick }
    settleCampaign src (raise src 0xB010 [c.id, c.targets.length, c.blockCount] s)

/-- The check of a TARIFF item (R509). -/
def tariffCheck (b : Bytes) (s : State) : Option Nat :=
  let w (off len : Nat) : Nat := ofLe (slice b off len)
  if 1 < w 0 1 ∨ w 4 2 = 0 then some 1
  else if w 0 1 = 1 then (if s.cov.upd.tariffs.any fun p => p.2.id == w 4 2 then none else some 3)
  else if !((w 2 2 ≤ 0xFFF ∨ w 2 2 = 0xFFFF) ∧ 1 ≤ w 6 1 ∧ w 6 1 ≤ 8 ∧ w 7 1 = 0 ∧ w 0x1A 2 = 0
      ∧ w 0x14 2 + w 0x16 2 + w 0x18 2 ≤ 3072 : Bool) then some 1
  else if 4 ≤ s.cov.upd.tariffs.length then some 4
  else if !leadOk s (w 0x10 4) then some 1
  else none

/-- A TARIFF item applies (R510). (DEDUCED, log 96) -/
def tariffApply (src : Src) (b : Bytes) (s : State) : State :=
  let w (off len : Nat) : Nat := ofLe (slice b off len)
  if w 0 1 = 1 then
    (s.cov.upd.tariffs.filter fun p => p.2.id == w 4 2).foldl (fun s p =>
      let s := { s with upd.requests := s.upd.requests.filter (·.tariff != p.1) }
      let s := (p.2.targets.filter fun k => decide (tariffState s p.2 k < 2)).foldl (fun s k => failTariff p.2 k 9 s) s
      let s := settleTariff src p.1 s
      if (tget s.cov.upd.tariffs p.1).isSome then putTariff src p.1 none s else s) s
  else
    let pos := lowestGap (s.cov.upd.tariffs.map (·.1)) 0
    let t : Tariff := ⟨b, targetSlots s (w 1 1) (w 2 2), false, s.work.log.tick⟩
    let s := { putTariff src pos (some t) s with
               upd.attrs := s.upd.attrs.filter fun p => p.1 % 4 != pos }
    let s := t.targets.foldl (fun s k =>
      let v := meterValue s k tariffCode
      let st := field v 0 8
      if (st = 1 ∨ st = 2 ∨ st = 4) ∧ field v 16 16 ≠ t.id then
        raiseMeter k tariffCode (5 + 65536 * field v 16 16 + 2 ^ 32 * field v 32 16)
          { s with upd.requests := s.upd.requests.filter fun r => !(r.slot == k && r.tariff != 4) }
      else s) s
    (s.cov.upd.tariffs.map (·.1)).foldl (fun s p => settleTariff src p s) s

/-! ### The update session (R494 to R496) -/

/-- The outcome of an update message: status, cause and index (R464). -/
structure UpdOutcome where
  status : Nat
  cause  : Nat
  index  : Nat
  deriving DecidableEq, Repr

/-- OK. -/
def UpdOutcome.ok : UpdOutcome := ⟨0, 0, 0⟩

/-- The unit that a log belongs to: the one that captured it (R495). -/
def logUnit (s : State) : BitVec 64 :=
  match s.twin.role, s.twin.peer with
  | .mirror, some p => p.eui
  | _, _ => ownEui s

/-- A session whose lock is held: an activation once recorded has released it (R495). (DEDUCED, log 95) -/
def heldSession (s : State) : Option UpdSession := s.cov.upd.session.filter fun u => !u.pending

/-- Verification results and the lent frames are given up (R497). -/
def dropVerify (s : State) : State := { s with upd.verify := .notStarted, upd.cause := 0, upd.rebuilt := [], store.lent := false }

/-- The window of R43 for a boundary named in log `c`: OK, STALE or MALFORMED. -/
def boundaryWindow (c b : Nat) : Nat := if b < c + 4 then 3 else if c + 2 ^ 20 < b then 5 else 0

/-- UPDATE_OPEN (R495). (DEDUCED, log 95) -/
def updOpen (src : Src) (digest : Bytes) (body : Bytes) (s : State) : UpdOutcome × State :=
  let kind := ofLe (slice body 0 1)
  let target := euiOf (slice body 4 8)
  let size := ofLe (slice body 0xC 4)
  match heldSession s with
  | some u => (if u.digest = digest then ⟨2, 1, 0⟩ else ⟨1, 1, 0⟩, s)
  | none =>
    if campaignRuns s then (⟨1, 2, 0⟩, s)
    else if s.cov.upd.session.isSome then (⟨1, 3, 0⟩, s)
    else
      let u : UpdSession := ⟨kind, false, false, size, 0, s.work.log.tick.truncate 32, target, digest, 0, zeros 32⟩
      let s := dropVerify (putSession src (some u) s)
      let s := if kind = 1 ∨ target = ownEui s then
          { s with upd.delta := [], upd.writes := [], upd.writeFailed := false, upd.hasImage := false, upd.readback := false } else s
      (.ok, raise src 0xB001 [kind, size, target.toNat % 2 ^ 32, target.toNat / 2 ^ 32] { s with upd.running := [] })

/-- UPDATE_DATA (R495, R496). (DESIGN CHOICE, log 98) -/
def updData (src : Src) (digest : Bytes) (body : Bytes) (s : State) : UpdOutcome × State :=
  let off := ofLe (slice body 0 4)
  let data := body.drop 8
  match (heldSession s).filter (·.digest == digest) with
  | none => (⟨2, 2, 0⟩, s)
  | some u =>
    if off ≠ u.received then (⟨2, 3, u.received⟩, s)
    else if u.size < off + data.length then (⟨5, 0, 0⟩, s)
    else
      let run := if u.kind = 1 then s.upd.running ++ data else []
      let n := off + data.length
      let u := { u with received := n, complete := decide (n = u.size), lastTick := s.work.log.tick.truncate 32,
                        imageDigest := if u.kind = 1 ∧ n = u.size then sha256 run else u.imageDigest }
      let mine := u.kind == 1 || u.target == ownEui s
      let s := putSession src (some u) { s with upd.running := run }
      (.ok, if mine then { s with upd.writes := s.upd.writes ++ [⟨s.work.log.tick, off, data⟩] } else s)

/-- The holder's message counts against the lapse (R495). -/
def touchSession (src : Src) (u : UpdSession) (s : State) : State :=
  putSession src (some { u with lastTick := s.work.log.tick.truncate 32 }) s

/-- UPDATE_VERIFY (R495, R497, R498). -/
def updVerify (src : Src) (digest : Bytes) (s : State) : UpdOutcome × State :=
  match (heldSession s).filter (·.digest == digest) with
  | none => (⟨2, 2, 0⟩, s)
  | some u =>
    if u.received < u.size then (⟨2, 4, 0⟩, s)
    else
      let s := touchSession src u s
      let mine := u.kind == 1 || u.target == ownEui s
      (.ok, if mine then { s with upd.verify := .waiting, upd.cause := 0, upd.rebuilt := [],
                                  store.lent := s.store.lent || u.kind == 0, upd.readback := false } else s)

/-- A mirror STATUS of the last 8 logs shows SYNCED or HELD (R495). -/
def mirrorReady (s : State) : Bool :=
  s.twin.mirror.any fun m => (m.standby == 2 || m.standby == 4) && decide (s.work.log.tick.toNat < m.logTick.toNat + 8)

/-- UPDATE_ACTIVATE (R495). -/
def updActivate (src : Src) (digest : Bytes) (body : Bytes) (s : State) : UpdOutcome × State :=
  let b := ofLe (slice body 0 6)
  match (heldSession s).filter (·.digest == digest) with
  | none => (⟨2, 2, 0⟩, s)
  | some u =>
    if u.received < u.size then (⟨2, 4, 0⟩, s)
    else if u.kind = 1 then (⟨2, 5, 0⟩, s)
    else if u.target = logUnit s ∧ cfg s 0x0901 0 0 1 0 = 1 ∧ mirrorReady s then (⟨2, 6, 0⟩, s)
    else
      let w := boundaryWindow s.work.log.tick.toNat b
      if w ≠ 0 then (⟨w, 0, 0⟩, s)
      else (.ok, putSession src (some { u with pending := true, boundary := BitVec.ofNat 48 b,
                                               lastTick := s.work.log.tick.truncate 32 }) s)

/-- UPDATE_ABORT (R495). -/
def updAbort (src : Src) (s : State) : UpdOutcome × State :=
  match s.cov.upd.session with
  | none => (⟨6, 0, 0⟩, s)
  | some u =>
    if u.pending ∧ u.boundary.toNat < s.work.log.tick.toNat + 4 then (⟨3, 0, 0⟩, s)
    else (.ok, raise src 0xB002 [0, u.received] (dropVerify (putSession src none s)))

/-- The lock lapses (R495). -/
def lockLapse (s : State) : State :=
  match heldSession s with
  | none => s
  | some u =>
    let age := (s.work.log.tick.toNat + 2 ^ 32 - u.lastTick.toNat) % 2 ^ 32
    if cfg s 0x0B01 0 0 4 3600 * ticksPerS s < age then
      raise (Src.sweep 0) 0xB002 [1, u.received] (dropVerify (putSession (Src.sweep 0) none s))
    else s

/-- UPDATE_LOCK_LAPSE. -/
def execUpdateLockLapse (s : State) : Answer := whenProcessing s lockLapse

/-- Bytes written into a region at an offset; bytes never written read 0xFF. -/
def writeAt (region : Bytes) (off : Nat) (data : Bytes) : Bytes :=
  region.take off ++ List.replicate (off - region.length) 0xFF ++ data ++ region.drop (off + data.length)

/-- The store has made seal `t` durable. -/
def isDurable (s : State) (t : BitVec 48) : Bool := s.store.durable.any fun d => decide (t.toNat ≤ d.toNat)

/-- The NOR takes operations: the unit is powered and outside last gasp (R56, R569). -/
def norOn (s : State) : Bool := s.sys.mode == .running || s.sys.mode == .waiting || s.sys.mode == .pause

/-- UPDATE_DATA_WRITE: the oldest write that is due, once the seal of its log is durable (R496). -/
def execUpdateDataWrite (ok : Bool) (s : State) : Answer :=
  done s (match s.upd.writes with
    | [] => s
    | w :: rest =>
      if norOn s ∧ isDurable s w.log then
        if ok then { s with upd.writes := rest, upd.delta := writeAt s.upd.delta w.offset w.bytes }
        else { s with upd.writes := rest, upd.writeFailed := true, upd.delta := writeAt s.upd.delta w.offset [] }
      else s)

/-! ### The Delta (R490 to R492, R497) -/

/-- The bytes of the image that runs. (DESIGN CHOICE, log 98) -/
def runningImage (s : State) : Bytes :=
  fit s.upd.fw.fwSize (if s.upd.fwImage.isEmpty then Config.firmwareImage s.upd.fw.fwDigest else s.upd.fwImage)

/-- The op stream writes the target image (R491): none where an op is not well formed. -/
def applyOps (base : Bytes) : Nat → Bytes → Option Bytes
  | 0, _ => none
  | n + 1, ops =>
    if ops.isEmpty then some []
    else if ops.length < 8 then none
    else
      let len := ofLe (slice ops 4 4)
      match ofLe (slice ops 0 1) with
      | 1 =>
        let from_ := ofLe (slice ops 8 4)
        if ops.length < 16 ∨ base.length < from_ + len then none
        else (applyOps base n (ops.drop 16)).map (slice base from_ len ++ ·)
      | 2 =>
        let skip := 8 + ceilDiv len 4 * 4
        if ops.length < skip then none else (applyOps base n (ops.drop skip)).map (slice ops 8 len ++ ·)
      | 3 => if ops.length < 12 then none else (applyOps base n (ops.drop 12)).map (List.replicate len (ops.getD 8 0) ++ ·)
      | _ => none

/-- Check a Delta and rebuild its target: the image, or the cause of rejection (R497). (DESIGN CHOICE, log 98) -/
def rebuild (s : State) (size : Nat) : Nat ⊕ (BootHeader × Bytes) :=
  let d := s.upd.delta.take size
  let w (off len : Nat) : Nat := ofLe (slice d off len)
  let target := w 0xC 4
  let vkey := slice d 0x58 64
  let slot := w 0x54 2
  let v := pointOf vkey
  let latest := { s with cov := s.view }
  if !(w 0 4 = 0x4C454457 ∧ w 4 2 = 1 ∧ w 8 4 = size ∧ d.length = size ∧ size % 4 = 0 ∧ 0x140 ≤ size ∧ size ≤ 0x200000
      ∧ target % 256 = 0 ∧ target ≤ 0x400000 : Bool) then .inl 8
  else if slice d 0x10 32 ≠ s.upd.fw.fwDigest then .inl 1
  else if !(Config.vendorDigests s.upd.fw.fwDigest).contains (sha256 vkey) then .inl 2
  else if !ecdsaVerify v.1 v.2 (sha256 (d.take (size - 128))) (w (size - 128) 32) (w (size - 96) 32) then .inl 3
  else if !usable latest 4 slot then .inl 4
  else
    let c := pointOf ((slotValue s slot).getD [])
    if !ecdsaVerify c.1 c.2 (sha256 (d.take (size - 64))) (w (size - 64) 32) (w (size - 32) 32) then .inl 5
    else match applyOps (runningImage s) size (slice d 0xC0 (size - 128 - 0xC0)) with
      | none => .inl 6
      | some img =>
        if img.length ≠ target then .inl 6
        else if sha256 img ≠ slice d 0x30 32 then .inl 7
        else .inr (⟨BitVec.ofNat 16 (w 6 2), BitVec.ofNat 32 (w 0x50 4), slice d 0x30 32, target, true⟩, img)

/-- UPDATE_REBUILD on the target unit, once every write is complete (R497). -/
def execUpdateRebuild (s : State) : Answer :=
  done s (match s.cov.upd.session with
    | some u =>
      if norOn s && u.kind == 0 && u.target == ownEui s && s.upd.verify == .waiting && s.upd.writes.isEmpty then
        match rebuild s u.size with
        | .inl c => raiseU 0xB004 [c] { s with upd.verify := .rejected, upd.cause := c, upd.rebuilt := [] }
        | .inr (h, img) =>
          raiseU 0xB003 [ofLe (h.fwDigest.take 4), h.procVersion.toNat, h.build.toNat]
            { s with upd.verify := .verified, upd.cause := 0, upd.fresh := h, upd.rebuilt := img }
      else s
    | none => s)

/-- The image a readback compares: of a KIND 1 session, or of a running campaign (R498). -/
def readbackOf (s : State) : Option (Nat × Bytes) :=
  match s.cov.upd.session, s.cov.upd.campaign with
  | some u, _ => if u.kind = 1 ∧ u.complete ∧ s.upd.verify = .waiting then some (u.size, u.imageDigest) else none
  | none, some c => if c.phase ≠ 3 ∧ !s.upd.readback then some (c.size, slice c.body 8 32) else none
  | none, none => none

/-- CAMPAIGN_READBACK (R498). -/
def execCampaignReadback (s : State) : Answer :=
  done s (match readbackOf s with
    | none => s
    | some (size, digest) =>
      if !(norOn s && s.upd.writes.isEmpty) then s
      else if s.upd.delta.length ≥ size ∧ sha256 (s.upd.delta.take size) = digest then
        raiseU 0xB003 [ofLe (digest.take 4), 0, 0]
          { s with upd.verify := .verified, upd.cause := 0, upd.readback := true, upd.hasImage := true }
      else
        raiseU 0xB004 [10] { s with upd.verify := .rejected, upd.cause := 10, upd.readback := true, upd.hasImage := false })

/-! ### Activation (R499 to R502) -/

/-- The activation is due at boundary `t` on this unit, single or primary, with its image verified (R499). -/
def activates (s : State) (t : BitVec 48) : Bool :=
  s.cov.upd.session.any fun u =>
    u.pending && decide (u.boundary.toNat ≤ t.toNat) && u.target == ownEui s && s.upd.verify == .verified
      && (s.twin.role == .single || s.twin.role == .primary)

/-- The pending activation at the processing of its log: a verified mirror turns to rewrite its firmware, an unverified
target reports cause 9, and everywhere the session ends (R499, R502). (DEDUCED, log 97) -/
def activationBoundary (s : State) : State :=
  match s.cov.upd.session with
  | none => s
  | some u =>
    if !(u.pending && decide (u.boundary.toNat ≤ s.work.log.tick.toNat)) then s
    else
      let goes := activates s s.work.log.tick
      let s := putSession Src.stagedSet none s
      if u.target ≠ ownEui s then s
      else if goes then { s with upd.activation := some s.work.log.tick }
      else if s.upd.verify = .verified then
        { s with upd.mirrorRewrite := true, upd.deadWindow := true, nor.boot := none, twin.standby := .starting }
      else raiseU 0xB004 [9] { dropVerify s with upd.cause := 9, upd.verify := .rejected }

/-- DEAD_WINDOW_OPEN: seal A is durable and its checkpoint complete; the recorder's staging is flushed, the boot header sector
is erased and the engines load the new image (R499, R501). (DEDUCED, log 97) -/
def execDeadWindowOpen (ms : Nat) (s : State) : Answer :=
  let _ := ms
  done s (match s.upd.activation with
    | none => s
    | some a =>
      if s.sys.mode = .pause ∧ !s.upd.deadWindow ∧ isDurable s a ∧ s.store.checkpoint.isNone ∧ s.store.ckptDue.isNone
          ∧ s.keys.vaultDue.isEmpty ∧ s.nor.journal.due.isEmpty then
        { s with nor.boot := none, upd.deadWindow := true, upd.fw := s.upd.fresh, upd.fwImage := s.upd.rebuilt,
                 recorder := if s.recorder.noGrain then s.recorder else s.recorder.flush }
      else s)

/-- Nothing stands before the firmware rewrite in the order of R56. -/
def norQuiet (s : State) : Bool := s.upd.writes.isEmpty && s.nor.journal.due.isEmpty && s.keys.vaultDue.isEmpty

/-- NOR_REWRITE (R500 to R502): the firmware region and the new boot header are programmed. A rewrite that fails leaves the
M20 dead; a mirror resets. -/
def execNorRewrite (ms : Nat) (ok : Bool) (s : State) : Answer :=
  let written : State := { s with nor.boot := some s.upd.fresh, nor.firmware := s.upd.rebuilt, upd.deadWindow := false }
  let dead : State := settlePins { s with sys.mode := .dead, cap.isOn := false }
  done s (match s.upd.mirrorRewrite, s.upd.rewriteDue with
    | true, _ =>
      if s.sys.mode ≠ .running ∧ s.sys.mode ≠ .waiting then s
      else if ok then
        resetUnit 10 { written with upd.mirrorRewrite := false }
      else dead
    | false, some x =>
      if s.sys.mode = .running ∧ isDurable s x then
        if !ok then dead
        else if norQuiet s then
          raiseU 0xB006 [ms] { dropVerify written with upd.rewriteDue := none }
        else s
      else s
    | false, none => s)

end Sys2Proof.Machine
end

