-- ==== Sys2Proof/Machine/Sets.lean ====
section
/-!
DEFINITION. Configuration records, staging items and staged sets: their encoding, check, application and preload, and the
application of a changed image (R35, R41 to R45, R69 to R73, R77, R83, R482, R483).
-/
namespace Sys2Proof.Machine

open Sys2Proof

/-! ### Records (R69, R70, R72) -/

/-- The value length of a record type; none for a type this firmware does not name (R72). -/
def recordLength (type : Nat) : Option Nat :=
  match type with
  | 0x0000 => some 0 | 0x0001 => some 8 | 0x0002 => some 8 | 0x0003 => some 40 | 0x0101 => some 16 | 0x0102 => some 16
  | 0x0201 => some 16 | 0x0301 => some 48 | 0x0302 => some 28 | 0x0303 => some 16 | 0x0401 => some 8 | 0x0402 => some 44
  | 0x0403 => some 40 | 0x0501 => some 16 | 0x0502 => some 40 | 0x0601 => some 16 | 0x0701 => some 64 | 0x0801 => some 96
  | 0x0901 => some 24 | 0x0A01 => some 16 | 0x0B01 => some 16 | 0x0F01 => some 16
  | _ => none

/-- The INSTANCE range of a type; the others have the one instance 0 (R72, R575). -/
def instanceOk (type inst : Nat) : Bool :=
  match type with
  | 0x0002 => decide (inst ≤ 3)
  | 0x0101 => decide (1 ≤ inst ∧ inst ≤ 3)
  | 0x0401 => decide (inst ≤ 1)
  | 0x0501 => decide (inst ≤ 31)
  | 0x0502 => decide (1 ≤ inst ∧ inst ≤ 7)
  | 0x0F01 => inst == 0 || faultLinks.contains inst
  | _ => inst == 0

/-- The key of a record in the state, by type, INSTANCE and value (R35). -/
def recordKey (type inst : Nat) (v : Bytes) : Nat :=
  match type with
  | 0x0402 => ofLe (slice v 0 2) % 4096
  | 0x0403 => ofLe (slice v 0 1)
  | 0x0A01 => ofLe (slice v 0 1)
  | _ => inst

/-- Types that the state holds as configuration records (R35). -/
def heldType (type : Nat) : Bool := type != 0x0301 && type != 0x0302 && type != 0x0801 && type != 0

/-- Types of R77 whose records become exactly the image's. -/
def imageTypes : List Nat :=
  [0x0001, 0x0002, 0x0003, 0x0101, 0x0102, 0x0201, 0x0303, 0x0401, 0x0501, 0x0502, 0x0601, 0x0701, 0x0901, 0x0B01, 0x0F01]

/-- A record type that a staged set may carry (R72). -/
def stageable (type : Nat) : Bool :=
  (recordLength type).isSome && !([0x0000, 0x0002, 0x0003, 0x0601, 0x0801].contains type)

/-- An unsigned field of a value lies in a range. -/
def inRange (v : Bytes) (off len lo hi : Nat) : Bool :=
  let x := ofLe (slice v off len)
  decide (lo ≤ x ∧ x ≤ hi)

/-- A signed byte of a value lies in a range. -/
def inRangeS (v : Bytes) (off : Nat) (lo hi : Int) : Bool :=
  let x := (BitVec.ofNat 8 (ofLe (slice v off 1))).toInt
  decide (lo ≤ x ∧ x ≤ hi)

/-- A register code field, 12 bits. -/
def codeField (v : Bytes) (off : Nat) : Bool := inRange v off 2 0 0xFFF

/-- Every field of a record's value lies in its range (R73 and the owning chapters; cause ENCODING of R482).
(DEDUCED, log 94) -/
def valueOk (type : Nat) (v : Bytes) : Bool :=
  let z (off len : Nat) : Bool := slice v off len == zeros len
  let r (off len lo hi : Nat) : Bool := inRange v off len lo hi
  match type with
  | 0x0001 => r 0 1 0 2 && r 1 1 0 3 && r 2 2 1 4096 && (r 4 2 0 0x1FFF || r 4 2 0xFFFF 0xFFFF) && z 6 2
  | 0x0101 => r 0 1 0 7 && ofLe (slice v 0 1) / 2 != 3 && r 1 1 0 1 && z 0xC 4
  | 0x0102 => r 0 2 0 4096 && r 2 1 0 7 && r 3 1 0 2 && r 6 1 1 8 && r 7 1 1 4 && r 9 1 1 15 && r 0xC 2 16 4096
  | 0x0201 => r 0 1 0 2 && r 1 1 0 0x7F && r 2 1 0 60 && r 3 1 0 1 && z 0xA 6
  | 0x0301 =>
    r 8 2 1 0x106 && !r 8 2 5 5 && r 0xA 1 0 0x1F && r 0xB 1 0 0x37 && !testBit (ofLe (slice v 0xB 1)) 3
      && r 0xC 2 0 0x1FFF && z 0xF 1 && z 0x2C 4
  | 0x0302 =>
    r 8 1 0 64 && r 9 1 0 2 && z 0xA 2 && (r 9 1 1 1 || z 0xC 16)
      && ofBe (slice v 0 8) % 2 ^ (64 - ofLe (slice v 8 1)) == 0
  | 0x0303 => r 0 2 1 8760 && r 2 1 0 0xF && r 3 1 0 5 && codeField v 4 && r 6 2 0 1024 && r 8 2 60 65535 && r 0xA 1 0 1 && z 0xB 5
  | 0x0401 => r 0 4 300 115200 && r 4 1 0 1 && r 5 1 0 15 && r 6 1 0 15 && z 7 1
  | 0x0402 => r 0 2 1 0xDFF && r 0xA 1 2 2 && r 0xB 1 0 3 && r 0x24 4 1 86400 && r 0x2A 1 0 0xF && z 0x2B 1
  | 0x0403 =>
    r 0 1 0 63 && r 1 1 0 0x3F && (codeField v 2 || r 2 2 0xFFFF 0xFFFF) && (r 4 4 60 86400 || z 4 4) && r 8 2 1 3650
      && r 0xA 1 0 2 && r 0xB 1 0 7 && r 0x14 1 0 8 && z 0x15 3
  | 0x0501 => r 0 1 0 3 && r 1 1 0 15 && r 2 1 0 1 && r 4 4 16 65536
  | 0x0502 =>
    r 0 1 0 3 && inRangeS v 1 (-3) 6 && codeField v 2 && codeField v 4 && codeField v 6 && z 9 3 && r 0xC 4 60 86400
      && 86400 % ofLe (slice v 0xC 4) == 0 && decide (ofLe (slice v 0x10 4) ≤ 4 * ofLe (slice v 0xC 4))
  | 0x0701 =>
    r 0 1 0 2 && r 1 1 0 127 && r 2 1 0 1 && r 4 1 0 0xF && inRangeS v 7 (-4) 1 && r 8 1 0 3 && r 9 1 2 10 && inRangeS v 0xA (-4) 5
      && r 0xB 1 0 3 && r 0xC 2 1 4000 && r 0xE 2 0 4000 && r 0x14 4 10 1000000 && z 0x1B 1 && z 0x1D 3 && z 0x38 8
  | 0x0901 => r 0 1 0 1 && z 1 3
  | 0x0A01 => r 0 1 0 63 && z 1 1 && (r 2 2 0 0x1FFF || r 2 2 0xFFFF 0xFFFF) && r 4 2 0 0x77F && !testBit (ofLe (slice v 4 2)) 7 && r 6 1 1 16 && z 7 9
  | 0x0B01 => r 0 4 60 86400 && r 4 2 2 4096 && r 6 1 0 15 && r 7 1 1 64 && r 8 4 0 604800 && z 0xC 4
  | 0x0F01 => r 0 1 0 7 && z 1 1 && z 0xC 4
  | _ => true

/-- A field that R72 and R583 hold unchanged is changed by the record. -/
def changesHeld (recs : Tab Bytes) (type inst : Nat) (v : Bytes) : Bool :=
  let cur (off len : Nat) : Nat := cfgOf recs type inst off len 0
  let new (off len : Nat) : Nat := ofLe (slice v off len)
  match type with
  | 0x0001 => cur 0 1 != new 0 1 || cur 1 1 != new 1 1
  | 0x0901 => cur 0 1 != new 0 1
  | 0x0F01 => inst == 0 && cur 0 1 != new 0 1
  | _ => false

/-! ### Items (R481, R483) -/

/-- TYPE[14:0] of a RECORD item. -/
def itemType (b : Bytes) : Nat := ofLe (slice b 0 2) % 32768

/-- INSTANCE of a RECORD item. -/
def itemInst (b : Bytes) : Nat := ofLe (slice b 4 2)

/-- The value of a RECORD item. -/
def itemValue (b : Bytes) : Bytes := slice b 8 (ofLe (slice b 2 2))

/-- The length check of STAGE_ADD: KIND is one of R483 and LENGTH is what the kind, or the record's type, defines (R481).
(DEDUCED, log 94) -/
def itemEncodes (i : Item) : Bool :=
  let n := i.body.length
  match i.kind.toNat with
  | 1 => decide (8 ≤ n) && (match recordLength (itemType i.body) with
      | some l => ofLe (slice i.body 2 2) == l && n == 8 + l
      | none => n == 8 + ceilDiv (ofLe (slice i.body 2 2)) 4 * 4 || n == 8 + ofLe (slice i.body 2 2))
  | 2 => n == 20 | 3 => n == 16 | 4 => n == 40 | 5 => n == 96 | 6 => n == 4 | 7 => n == 4
  | 8 => decide (28 ≤ n) && n == 28 + ofLe (slice i.body 0x14 2) + ofLe (slice i.body 0x16 2) + ofLe (slice i.body 0x18 2)
  | 9 => n == 80
  | _ => false

/-- Read `n` items from a byte string that they fill exactly (R483). -/
def parseItems : Nat → Bytes → Option (List Item)
  | 0, b => if b.isEmpty then some [] else none
  | n + 1, b =>
    if b.length < 4 then none
    else
      let len := ofLe (slice b 2 2)
      let room := 4 + ceilDiv len 4 * 4
      if b.length < room then none
      else (parseItems n (b.drop room)).map fun l => ⟨b.headD 0, slice b 4 len⟩ :: l

/-- Bytes of a list of items, padding included. -/
def itemsBytes (l : List Item) : Nat := (l.map fun i => 4 + ceilDiv i.body.length 4 * 4).foldl (· + ·) 0

/-- A conflict: cause, and INDEX's high byte (R482). -/
abbrev Conflict := Nat × Nat

/-- A RECORD item (R72, R482, R483). -/
def applyRecordItem (src : Src) (b : Bytes) (s : State) : Except Conflict State :=
  let type := itemType b
  let inst := itemInst b
  let v := itemValue b
  if !stageable type || changesHeld s.cov.sys.records type inst v then .error (2, 0)
  else if !instanceOk type inst || !valueOk type v || slice b 6 2 != zeros 2 then .error (1, 0)
  else match type with
    | 0x0301 =>
      match applyStatic src s.work.log.tick v s with
      | (.ok, s) => .ok s
      | (.capacity, _) => .error (4, 0)
      | (.identity, _) => .error (7, 0)
    | 0x0302 =>
      match applyRoute src v s with
      | none => .error (4, 0)
      | some t => if trieFits (allRoutes t) then .ok t else .error (4, 0)
    | _ => .ok (putRecord src type (recordKey type inst v) (some v) s)

/-- A REMOVE item (R483). -/
def applyRemoveItem (src : Src) (b : Bytes) (s : State) : Except Conflict State :=
  let type := ofLe (slice b 0 2)
  let key := b.drop 4
  let width (n : Nat) : Bool := (key.drop n).all (· == 0)
  let one (n : Nat) : Except Conflict State :=
    let k := ofLe (key.take n)
    if !width n then .error (1, 0)
    else if (tget s.cov.sys.records (recKey type k)).isNone then .error (3, 0)
    else .ok (putRecord src type k none s)
  match type with
  | 0x0402 => one 2
  | 0x0403 => one 1
  | 0x0A01 => one 1
  | 0x0302 =>
    if !width 9 then .error (1, 0)
    else
      let bits := BitVec.ofNat 64 (ofBe (key.take 8))
      let len := ofLe (slice key 8 1)
      if s.cov.tables.routes.any fun q => q.bits == bits && q.length == len then .ok (removeRoute src bits len s) else .error (3, 0)
  | _ => .error (2, 0)

/-- An ENDPOINT item (R483, R312). -/
def applyEndpointItem (src : Src) (b : Bytes) (s : State) : Except Conflict State :=
  let m := ofLe (slice b 8 2)
  let port := ofLe (slice b 0xA 2)
  let cf := ofLe (slice b 0xC 1)
  let fp := ofLe (slice b 0xD 1)
  let k := ofLe (slice b 0xE 2)
  if 0x200 ≤ m ∨ (testBit m 0 ∧ (port = 0 ∨ port = 5 ∨ 0x106 < port)) then .error (1, 0)
  else match lookup s (euiOf (b.take 8)) with
    | none => .error (3, 0)
    | some slot =>
      let e := endpoint s slot
      let on (i : Nat) : Bool := testBit m i
      let st := if !on 3 then e.state else if testBit cf 4 then .barred else if e.state = .barred then .silent else e.state
      let e' : Endpoint :=
        { e with
          port := if on 0 then BitVec.ofNat 9 port else e.port
          cls := if on 1 then BitVec.ofNat 3 cf else e.cls
          sleeper := if on 2 then testBit cf 3 else e.sleeper
          state := st
          static := if on 4 then testBit cf 5 else e.static
          feeder := if on 5 then BitVec.ofNat 3 fp else e.feeder
          phase := if on 6 then BitVec.ofNat 2 (fp / 16) else e.phase
          keyGroup := if on 7 then BitVec.ofNat 12 k else e.keyGroup
          keyGen := if on 8 then testBit k 12 else e.keyGen }
      let s := if on 5 || on 6 then dropIdent src slot s else s
      .ok (putEndpoint src slot e' s)

/-- MODE_TX and SCHEDULE written into a radio entry (R195, R483). -/
def writeSchedule (mode : Byte) (sc : Bytes) (r : RadioPart) : RadioPart :=
  let w (off len : Nat) : Nat := ofLe (slice sc off len)
  { r with
    modeTx := mode
    anchorS := BitVec.ofNat 32 (w 0 4)
    anchorNs := BitVec.ofNat 32 (w 4 4)
    periodMs := BitVec.ofNat 32 (w 8 4)
    drift := BitVec.ofNat 16 (w 12 2)
    rxWindowMs := BitVec.ofNat 16 (w 14 2)
    setFirst := BitVec.ofNat 16 (w 16 2)
    setCount := BitVec.ofNat 16 (w 18 2)
    hop := BitVec.ofNat 16 (w 20 2)
    seed := BitVec.ofNat 16 (w 22 2)
    schedMode := BitVec.ofNat 8 (w 24 1)
    syncS := 0
    syncNs := 0
    misses := 0 }

/-- The radio link entry of an EUI-64. -/
def radioLinkOf (s : State) (x : BitVec 64) : Option Nat :=
  ((lookup s x).bind fun slot => linkOfSlot s.cov.tables.links slot).filter fun i => (linkEntry s i).radio?.isSome

/-- A LINK_SCHEDULE item (R483). -/
def applyScheduleItem (src : Src) (b : Bytes) (s : State) : Except Conflict State :=
  if slice b 9 3 ≠ zeros 3 then .error (1, 0)
  else match radioLinkOf s (euiOf (b.take 8)) with
    | none => .error (3, 0)
    | some i => .ok (modRadio src i (writeSchedule (BitVec.ofNat 8 (ofLe (slice b 8 1))) (slice b 0xC 28)) s)

/-- A KEY_INSTALL item (R407, R482). -/
def applyInstallItem (src : Src) (b : Bytes) (s : State) : Except Conflict State :=
  if !keyRecWf b then .error (1, 0)
  else match installCheck false (KeyRec.ofBytes b) s with
    | none => .ok (installKey src (KeyRec.ofBytes b) s)
    | some c => .error (5, c)

/-- A KEY_INVALIDATE item (R409). -/
def applyInvalidateItem (src : Src) (b : Bytes) (s : State) : Except Conflict State :=
  let slot := ofLe (slice b 0 2)
  if 8192 ≤ slot then .error (1, 0)
  else if (keyDesc s slot).type = 0 then .error (3, 0)
  else if (keyDesc s slot).gen = 0xFFFF then .error (5, 6)
  else .ok (invalidateKey src slot s)

/-- A CHILD_RELEASE item (R228). -/
def applyReleaseItem (src : Src) (b : Bytes) (s : State) : Except Conflict State :=
  let n := ofLe (slice b 0 1)
  let c := child s n
  if n = 0 then .error (1, 0)
  else if c.state = .free then .error (3, 0)
  else if endpointsOnPort s.cov.tables (7 + n) ≠ 0 ∨ (s.cov.tables.routes.any fun r => r.action == .toChild c.addr) then .error (6, 0)
  else .ok (putChild src n Child.blank s)

/-- One item (R483). -/
def applyItem (src : Src) (i : Item) (s : State) : Except Conflict State :=
  match i.kind.toNat with
  | 1 => applyRecordItem src i.body s
  | 2 => applyRemoveItem src i.body s
  | 3 => applyEndpointItem src i.body s
  | 4 => applyScheduleItem src i.body s
  | 5 => applyInstallItem src i.body s
  | 6 => applyInvalidateItem src i.body s
  | 7 => applyReleaseItem src i.body s
  | 8 => match tariffCheck i.body s with | some c => .error (c, 0) | none => .ok (tariffApply src i.body s)
  | 9 => match campaignCheck i.body s with | some c => .error (c, 0) | none => .ok (campaignApply src i.body s)
  | _ => .error (1, 0)

/-- The items of a set in set order, a later one building on an earlier; the first conflict with its index (R44, R483). -/
def applyItems (src : Src) : Nat → List Item → State → Except (Nat × Conflict) State
  | _, [], s => .ok s
  | n, i :: is, s =>
    match applyItem src i s with
    | .error c => .error (n, c)
    | .ok s => applyItems src (n + 1) is s

/-! ### Pending sets (R35, R43 to R45, R83) -/

/-- The value of a pending set object (R35). -/
def PendingSet.bytes (p : PendingSet) : Bytes :=
  le 6 p.boundary.toNat ++ zeros 2 ++ le 6 p.commit.toNat ++ zeros 2 ++ le 4 p.items.length ++ le 4 (itemsBytes p.items)

/-- The items of a set as changes, in set order. -/
def itemChanges (src : Src) (pos : Nat) (removed : Bool) : Nat → List Item → State → State
  | _, [], s => s
  | n, i :: is, s =>
    itemChanges src pos removed (n + 1) is (change src 0 3 (pos * 65536 + n) (if removed then [] else i.bytes) s)

/-- A set becomes pending in the lowest free position (R35). -/
def addSet (src : Src) (p : PendingSet) (s : State) : State :=
  let pos := lowestGap (s.cov.sys.sets.map (·.1)) 0
  itemChanges src pos false 0 p.items
    (change src 0 2 pos p.bytes { s with cov.sys.sets := tput s.cov.sys.sets pos p })

/-- A set leaves the pending list (R35). -/
def removeSet (src : Src) (pos : Nat) (s : State) : State :=
  match tget s.cov.sys.sets pos with
  | none => s
  | some p =>
    itemChanges src pos true 0 p.items (change src 0 2 pos [] { s with cov.sys.sets := tdel s.cov.sys.sets pos })

/-- Pending sets with a boundary up to `b`, in the order of their boundaries. -/
def setsUpTo (sets : Tab PendingSet) (b : Nat) : List (Nat × PendingSet) :=
  sortBy (fun x y => decide (x.2.boundary.toNat ≤ y.2.boundary.toNat)) (sets.filter fun p => decide (p.2.boundary.toNat ≤ b))

/-- The state against which a set for boundary `b` is checked: as of the answering seal, with the sets pending for earlier
boundaries applied; one that fails is left out (R43). (DEDUCED, log 94) -/
def checkState (s : State) (b : Nat) : State :=
  (setsUpTo s.cov.sys.sets (b - 1)).foldl (fun t p =>
    match applyItems Src.stagedSet 0 p.2.items t with
    | .ok t' => t'
    | .error _ => t) { s with cov := s.view }

/-- The journal bytes that the state, its pending sets and a new set need (R83). -/
def journalNeed (s : State) (items : List Item) : Nat :=
  let recs := s.view.sys.records.foldl (fun a r => a + 8 + ceilDiv r.2.length 4 * 4) 32
  s.cov.sys.sets.foldl (fun a p => a + 32 + itemsBytes p.2.items) recs + 32 + itemsBytes items

/-- The epoch record's value (R35). -/
def epochBytes (c : CovSys) : Bytes := le 4 c.epoch.toNat ++ zeros 2 ++ le 6 c.lastApplied.toNat

/-- The epoch rises by one, with this tick the latest to carry COMMIT (R29, R35). -/
def bumpEpoch (src : Src) (s : State) : State :=
  let s := { s with cov.sys.epoch := s.cov.sys.epoch + 1, cov.sys.lastApplied := s.work.log.tick, work.applied := true }
  change src 0 4 0 (epochBytes s.cov.sys) s

/-- A journal operation is due once the seal of this log is durable; none is once a write has failed (R81, R86). -/
def journalDue (op : JournalOp) (s : State) : State :=
  if s.nor.journal.frozen then s
  else
  { s with nor.journal.due := s.nor.journal.due ++ [(s.work.log.tick, op)] }

/-- A set applies whole at its boundary, or is abandoned (R44). -/
def applySet (p : Nat × PendingSet) (s : State) : State :=
  let src := Src.stagedSet
  let b := p.2.boundary.toNat
  let abandon (idx : Nat) : State :=
    journalDue (.drop p.2.boundary p.2.commit)
      (raise src 0x0022 [b % 2 ^ 32, idx] (removeSet src p.1 s))
  match applyItems src 0 p.2.items s with
  | .error (i, _) => abandon i
  | .ok t =>
    if 65456 < vaultBytes t ∧ vaultBytes s < vaultBytes t then abandon 0
    else
      let t := pairEvents src false (feederResets src s.cov.sys.records t.cov.sys.records t)
      let t := bumpEpoch src (removeSet src p.1 t)
      journalDue (.apply p.2.boundary p.2.commit t.cov.sys.epoch) (raise src 0x0021 [b % 2 ^ 32, t.cov.sys.epoch.toNat] t)

/-- Stage 7: the set for this boundary, after any whose boundary was skipped (R44, R45). (DEDUCED, log 94) -/
def applySets (s : State) : State :=
  (setsUpTo s.cov.sys.sets s.work.log.tick.toNat).foldl (fun s p => applySet p s) s

/-! ### What the hardware preloads (R41, R77) -/

/-- A record replaces or joins the records of the hardware. -/
def overlayRecord (type inst : Nat) (v : Bytes) (recs : Tab Bytes) : Tab Bytes :=
  if heldType type then tput recs (recKey type (recordKey type inst v)) v else recs

/-- The records of a changed image over those of the state (R77). -/
def overlayImage (quarantine : Bool) (img : List ImgRecord) (recs : Tab Bytes) : Tab Bytes :=
  let drops (t : Nat) : Bool := imageTypes.contains t || t == 0x0402 || t == 0x0403 || (t == 0x0A01 && !quarantine)
  img.foldl (fun recs r => if r.type = 0x0A01 ∧ quarantine then recs else overlayRecord r.type r.inst r.value recs)
    (recs.filter fun p => !drops (p.1 / 65536))

/-- A set's items over the records of the hardware. (DEDUCED, log 94) -/
def preloadRecords (items : List Item) (recs : Tab Bytes) : Tab Bytes :=
  items.foldl (fun recs i =>
    match i.kind.toNat with
    | 1 => overlayRecord (itemType i.body) (itemInst i.body) (itemValue i.body) recs
    | 2 =>
      let type := ofLe (slice i.body 0 2)
      if type = 0x0302 then recs else tdel recs (recKey type (ofLe (slice i.body 4 2)))
    | _ => recs) recs

/-- The hardware's settings for the tick that follows boundary `t`: the state, a changed image still to be applied, and the
sets committed for boundaries up to `t` (R41). -/
def loadHardware (t : Nat) (s : State) : State :=
  let sets := setsUpTo s.cov.sys.sets t
  let base := match s.sys.imageDue with
    | some img => overlayImage (lifeState s == .quarantine) img s.cov.sys.records
    | none => s.cov.sys.records
  let links := sets.foldl (fun (l : Tab LinkEntry) p => p.2.items.foldl (fun l (i : Item) =>
    if i.kind = 4 then
      match radioLinkOf s (euiOf (i.body.take 8)) with
      | some k => match tget l k with
        | some ⟨pe, .radio r⟩ => tput l k ⟨pe, .radio (writeSchedule (BitVec.ofNat 8 (ofLe (slice i.body 8 1))) (slice i.body 0xC 28) r)⟩
        | _ => l
      | none => l
    else l) l) s.cov.tables.links
  { s with hw.records := sets.foldl (fun r p => preloadRecords p.2.items r) base, hw.links := links }

/-! ### A changed image (R77) -/

/-- One record of a changed image beside the types that are replaced whole (R77, R223, R236, R408). -/
def applyImageRecord (src : Src) (r : ImgRecord) (s : State) : State :=
  match r.type with
  | 0x0301 =>
    (applyStatic src s.work.log.tick r.value s).2
  | 0x0302 =>
    match applyRoute src r.value s with
    | some t => t
    | none => { raise src 0x300A [0, ofBe (slice r.value 0x18 4)] s with tstat.childRefused := s.tstat.childRefused.inc }
  | 0x0801 => if lifeState s = .quarantine then s else installFromImage src r.value s
  | _ =>
    if r.type = 0x0A01 ∧ lifeState s = .quarantine then s
    else putRecord src r.type (recordKey r.type r.inst r.value) (some r.value) s

/-- Records that a changed image no longer holds leave the state (R77). -/
def dropImageRecords (src : Src) (img : List ImgRecord) (s : State) : State :=
  let keep := overlayImage (lifeState s == .quarantine) img s.cov.sys.records
  (s.cov.sys.records.filter fun p => (tget keep p.1).isNone).foldl
    (fun s p => putRecord src (p.1 / 65536) (p.1 % 65536) none s) s

/-- A changed image applies ahead of stage 1 (R77). (DEDUCED, log 23) -/
def applyImage (s : State) : State :=
  match s.sys.imageDue with
  | none => s
  | some img =>
    let src := Src.image
    let old := s.cov.sys.records
    let s := img.foldl (fun s r => applyImageRecord src r s) (dropImageRecords src img { s with sys.imageDue := none })
    let s := feederResets src old s.cov.sys.records s
    raise src 0x0042 [s.sys.image.prevSerial.toNat, s.sys.image.serial.toNat] (bumpEpoch src s)

end Sys2Proof.Machine
end

