-- ==== Sys2Proof/Machine/Observe.lean ====
section
/-!
DEFINITION. The observation space, the event recorder's grains and exports, and the journal of the staged-commit region
(chapters 2 and 15, R9, R10, R79 to R86, R523 to R534, and the status fields of every block).
-/
namespace Sys2Proof.Machine

open Sys2Proof

/-! ### The journal of the staged-commit region (R79 to R86) -/

/-- Bytes of a SET entry (R80). -/
def JournalEntry.size (e : JournalEntry) : Nat := 32 + itemsBytes e.items

/-- Bytes of a SNAPSHOT entry; none is written for no record (R80, R82). -/
def snapshotBytes (recs : Tab Bytes) : Nat :=
  if recs.isEmpty then 0 else recs.foldl (fun a r => a + 8 + ceilDiv r.2.length 4 * 4) 32

/-- Bytes in use in the active half (R79, R87). -/
def Journal.used (j : Journal) : Nat :=
  j.entries.foldl (fun a e => a + e.size) (64 + snapshotBytes j.snapshot)

/-- APPLIED entries in EPOCH order (R82, R84). -/
def Journal.applied (j : Journal) : List JournalEntry :=
  sortBy (fun a b => decide (a.epoch.toNat ≤ b.epoch.toNat)) (j.entries.filter fun e => e.state == .applied)

/-- Records with the APPLIED entries laid over them (R82, R84). -/
def Journal.overlay (j : Journal) (recs : Tab Bytes) : Tab Bytes :=
  j.applied.foldl (fun r e => preloadRecords e.items r) recs

/-- A new entry is written, into the other half with a snapshot where it does not fit (R82). -/
def Journal.add (j : Journal) (e : JournalEntry) : Journal :=
  if j.used + e.size ≤ 524288 then { j with entries := j.entries ++ [e] }
  else
    { j with halfB := !j.halfB, seq := j.seq + 1, snapshot := j.overlay j.snapshot,
             entries := (j.entries.filter fun x => x.state == .pending) ++ [e] }

/-- The PENDING entry of a set takes another state (R81). -/
def Journal.mark (j : Journal) (boundary commit : BitVec 48) (st : EntryState) (epoch : BitVec 32) : Journal :=
  { j with entries := j.entries.map fun e =>
      if e.boundary = boundary ∧ e.commit = commit ∧ e.state = .pending then { e with state := st, epoch := epoch } else e }

/-- The entry of a pending set (R80). -/
def JournalEntry.pending (boundary commit : BitVec 48) (items : List Item) : JournalEntry :=
  ⟨.pending, boundary, commit, 0xFFFFFFFF, items⟩

/-- The journal written anew in the other half: a snapshot, the pending sets and a digest (R85). (DESIGN CHOICE, log 102) -/
def Journal.rewritten (j : Journal) (digest : Bytes) (ledger : BitVec 64) (recs : Tab Bytes)
    (sets : List (BitVec 48 × BitVec 48 × List Item)) : Journal :=
  { j with halfB := !j.halfB, seq := j.seq + 1, digest := digest, ledgerId := ledger, snapshot := recs,
           entries := sets.map fun x => JournalEntry.pending x.1 x.2.1 x.2.2 }

/-- What a due journal operation writes (R81, R85). -/
def Journal.perform (j : Journal) (ledger : BitVec 64) : JournalOp → Journal
  | .commit tick boundary items => j.add (JournalEntry.pending boundary tick items)
  | .apply boundary commit epoch => j.mark boundary commit .applied epoch
  | .drop boundary commit => j.mark boundary commit .dropped 0xFFFFFFFF
  | .rewrite digest recs sets => j.rewritten digest ledger recs sets

/-- The NOR address of the half in use and the bytes used there (R79). -/
def Journal.address (j : Journal) : Nat := (if j.halfB then 0x8B0000 else 0x830000) + min j.used 524287

/-- JOURNAL_WRITE: the first due write, once its seal is durable and no vault write is due; a failure freezes the journal
(R56, R81, R86). -/
def execJournalWrite (ok : Bool) (s : State) : Answer :=
  done s (match s.nor.journal.due with
    | [] => s
    | (t, op) :: rest =>
      if !norOn s || s.nor.journal.frozen || !isDurable s t || !s.keys.vaultDue.isEmpty then s
      else if ok then
        let s : State := { s with nor.journal := { s.nor.journal.perform (s.sys.image.ledgerId.getD 0) op with due := rest } }
        match op with
        | .rewrite _ _ sets => raiseU 0x0044 [1 + sets.length] s
        | _ => s
      else
        raiseU 0x0046 [s.nor.journal.address]
          { s with nor.journal.due := [], nor.journal.frozen := true, nor.journal.fails := s.nor.journal.fails.inc })

/-! ### The recorder's grains (R523, R524, R530) -/

/-- RECORDER_GRAIN_PROGRAM: the 128 records of the next grain are programmed once staging holds them. A program that fails
retires the block, whose place a spare of the region takes; the records stay in staging (R354, R523). -/
def execRecorderGrainProgram (ok : Bool) (s : State) : Answer :=
  done s (
    let n := 128 - s.recorder.base % 128
    if !norOn s || s.store.writeProtect || s.recorder.noGrain || decide (s.recorder.staging.length < n) then s
    else if ok then { s with recorder := s.recorder.programmed n }
    else
      match s.store.recorderBlocks[s.recorder.base / 128 / max 1 s.store.perBlock]? with
      | none => s
      | some b =>
        let s := retire b 0 { s with store.programFails := s.store.programFails.inc,
                                     store.recorderBlocks := s.store.recorderBlocks.filter (· != b) }
        if s.store.recorderRoom < 2048 then { s with recorder := s.recorder.noSpare s.cap.tick } else s)

/-- The recorder clears as the seal closes: the region erased, the write position and every cursor at 0; what staging holds
is programmed first (R530). (DEDUCED, log 99) -/
def clearRecorder (s : State) : State :=
  let r := { s.recorder with written := [], base := 0, full := false, noGrain := false, bad := [], clearing := false,
                             clears := BitVec.ofNat 8 (sat 8 (s.recorder.clears.toNat + 1)) }
  let sess := s.bey.sessions.map fun p => (p.1, { p.2 with cursor := 0 })
  { s with recorder := r.flush, bey.sessions := sess }

/-! ### Reading the recorder (R527 to R529) -/

/-- The record at an index, programmed or in staging. -/
def Recorder.at (r : Recorder) (i : Nat) : Option EventRec :=
  if i < r.base then tget r.written i else r.staging[i - r.base]?

/-- What LENS_RECORDER returns: FIRST, NEXT and the records, or the first index of an unreadable grain. -/
inductive RecorderRead where
  | records (first next : Nat) (recs : List EventRec)
  | unreadable (index : Nat)
  deriving DecidableEq, Repr

/-- Up to `count` records from index `i` among those below `stop`, in index order; it ends ahead of an unreadable grain
(R527, R528). -/
def Recorder.collect (r : Recorder) (stop : Nat) : Nat → Nat → Nat → List (Nat × EventRec) × Nat × Bool
  | 0, _, i => ([], i, false)
  | fuel + 1, count, i =>
    if stop ≤ i ∨ count = 0 then ([], i, false)
    else if r.bad.contains (i / 128) then ([], i, true)
    else
      match r.at i with
      | none => r.collect stop fuel count (i + 1)
      | some e => let (es, n, b) := r.collect stop fuel (count - 1) (i + 1); ((i, e) :: es, n, b)

/-- LENS_RECORDER reads from an index (R527, R528). -/
def Recorder.read (r : Recorder) (start count : Nat) : RecorderRead :=
  match r.collect (min r.mark r.writePos) (r.writePos + 1 - start) count start with
  | ([], i, true) => .unreadable (i / 128 * 128)
  | ([], _, false) => .records start start []
  | ((f, e) :: es, n, _) => .records f n (e :: es.map (·.2))

/-- The signer of exports: 1 with a slot's key in FIELD, 2 with the export key of ROOT_Q in QUARANTINE (R529). -/
def exportSigner (s : State) : Option (Nat × Nat) :=
  match lifeState s with
  | .field =>
    match (usableSlots s 7).find? (fun k => decide ((keyDesc s k).flags % 4 ≠ 1)) with
    | some k => (privateKey s 7 k).map fun d => (1, d)
    | none => none
  | .quarantine => some (2, exportKeyQ s)
  | _ => none

/-! ### Fields that a read clears (R9, R10) -/

/-- An RC field of the observation space: its word, lowest bit and width, what a read returns, the clear it makes, and the
fold at the boundary that closes a seal. -/
structure RcField where
  addr  : Nat
  lo    : Nat
  width : Nat
  get   : State → Nat
  clear : State → State
  fold  : State → State

/-- A field that counts. -/
def rcf (addr lo : Nat) {w : Nat} (get : State → Rc w) (put : State → Rc w → State) : RcField :=
  ⟨addr, lo, w, fun s => (get s).sealed.toNat, fun s => put s (get s).clear, fun s => put s (get s).fold⟩

/-- A field that holds a maximum. -/
def rcm (addr lo : Nat) {w : Nat} (get : State → Rc w) (put : State → Rc w → State) : RcField :=
  ⟨addr, lo, w, fun s => (get s).sealed.toNat, fun s => put s (get s).clear, fun s => put s (get s).foldMax⟩

/-- A field of one bit for each channel. -/
def rcBits (addr lo : Nat) {w : Nat} (get : State → Rc w) (put : State → Rc w → State) : RcField :=
  ⟨addr, lo, w, fun s => (get s).sealed.toNat, fun s => put s (get s).clear,
    fun s => put s ⟨(get s).sealed ||| (get s).later, 0⟩⟩

/-- The RC fields of a phase of the powerline (R130). -/
def phaseRc (p : Nat) : List RcField :=
  let a := 0x10000 + 0x20 * (p - 1)
  let f (off lo : Nat) {w : Nat} (get : PhaseState → Rc w) (put : PhaseState → Rc w → PhaseState) : RcField :=
    rcf (a + off) lo (fun s => get (s.plc.phase p)) (fun s r => modPhase p (fun x => put x r) s)
  [f 0 8 (·.steps) (fun x r => { x with steps := r }),
   f 4 0 (·.rxOk) (fun x r => { x with rxOk := r }), f 4 16 (·.rxFailed) (fun x r => { x with rxFailed := r }),
   f 8 0 (·.fcFailed) (fun x r => { x with fcFailed := r }), f 8 16 (·.mapMiss) (fun x r => { x with mapMiss := r }),
   f 8 24 (·.rxPreempted) (fun x r => { x with rxPreempted := r }),
   f 0xC 0 (·.blankEvents) (fun x r => { x with blankEvents := r }),
   f 0xC 16 (·.erasedSymbols) (fun x r => { x with erasedSymbols := r }),
   f 0x10 0 (·.txSymbols) (fun x r => { x with txSymbols := r }), f 0x10 24 (·.govHolds) (fun x r => { x with govHolds := r })]

/-- The RC fields of a fault-injection link (R588). -/
def linkRc (n : Nat) : List RcField :=
  let a := 0xF0000 + 0x10 * n
  let f (off lo : Nat) {w : Nat} (get : FaultLink → Rc w) (put : FaultLink → Rc w → FaultLink) : RcField :=
    rcf (a + off) lo (fun s => get (faultLink s n))
      (fun s r => match tget s.test.links n with | some l => putFaultLink n (put l r) s | none => s)
  [f 0 0 (·.dropped) (fun x r => { x with dropped := r }), f 0 16 (·.corrupted) (fun x r => { x with corrupted := r }),
   f 0 24 (·.reordered) (fun x r => { x with reordered := r }),
   f 4 0 (·.txDropped) (fun x r => { x with txDropped := r }), f 4 16 (·.txCorrupted) (fun x r => { x with txCorrupted := r })]

/-- The RC fields of the system block (R51, R52, R87). -/
def systemRc : List RcField :=
  [rcf 0x00 8 (·.pll.lockLosses) (fun s r => { s with pll.lockLosses := r }),
   rcm 0x04 0 (·.sys.procMax) (fun s r => { s with sys.procMax := r }),
   rcf 0x04 16 (·.sys.logDeferred) (fun s r => { s with sys.logDeferred := r }),
   rcf 0x28 24 (·.nor.journal.fails) (fun s r => { s with nor.journal.fails := r }),
   rcf 0x40 0 (·.sys.captureDropped) (fun s r => { s with sys.captureDropped := r }),
   rcm 0x40 16 (·.sys.waitMax) (fun s r => { s with sys.waitMax := r })]

/-- The RC fields of the powerline link (R164). -/
def plcRc : List RcField :=
  [rcf 0x11008 0 (·.plc.attempts) (fun s r => { s with plc.attempts := r }),
   rcf 0x11008 16 (·.plc.delivered) (fun s r => { s with plc.delivered := r }),
   rcf 0x1100C 0 (·.plc.failed) (fun s r => { s with plc.failed := r }),
   rcf 0x1100C 16 (·.plc.txqFull) (fun s r => { s with plc.txqFull := r }),
   rcf 0x1100C 24 (·.plc.ackWithheld) (fun s r => { s with plc.ackWithheld := r }),
   rcf 0x11010 0 (·.plc.duplicates) (fun s r => { s with plc.duplicates := r }),
   rcf 0x11010 16 (·.plc.overheard) (fun s r => { s with plc.overheard := r }),
   rcf 0x11014 0 (·.plc.unknownSrc) (fun s r => { s with plc.unknownSrc := r }),
   rcf 0x11014 8 (·.plc.routeErrors) (fun s r => { s with plc.routeErrors := r }),
   rcf 0x11014 16 (·.plc.meshDropped) (fun s r => { s with plc.meshDropped := r }),
   rcf 0x11014 24 (·.plc.fragTimeouts) (fun s r => { s with plc.fragTimeouts := r }),
   rcf 0x11018 0 (·.plc.launchLate) (fun s r => { s with plc.launchLate := r }),
   rcf 0x11018 8 (·.plc.launchDropped) (fun s r => { s with plc.launchDropped := r }),
   rcf 0x11018 16 (·.plc.launchFull) (fun s r => { s with plc.launchFull := r }),
   rcf 0x1101C 0 (·.plc.joins) (fun s r => { s with plc.joins := r }),
   rcf 0x1101C 16 (·.plc.joinRefused) (fun s r => { s with plc.joinRefused := r }),
   rcf 0x1101C 24 (·.plc.reclaimed) (fun s r => { s with plc.reclaimed := r })]

/-- The RC fields of the radio (R204). -/
def radioRc : List RcField :=
  [rcm 0x20004 0 (·.radio.ctxMax) (fun s r => { s with radio.ctxMax := r }),
   rcf 0x20004 16 (·.radio.ctxExhausted) (fun s r => { s with radio.ctxExhausted := r }),
   rcf 0x20008 0 (·.radio.rxOk) (fun s r => { s with radio.rxOk := r }),
   rcf 0x20008 16 (·.radio.fcsFailed) (fun s r => { s with radio.fcsFailed := r }),
   rcf 0x2000C 0 (·.radio.syncLost) (fun s r => { s with radio.syncLost := r }),
   rcf 0x2000C 8 (·.radio.msDropped) (fun s r => { s with radio.msDropped := r }),
   rcf 0x2000C 16 (·.radio.hwReplay) (fun s r => { s with radio.hwReplay := r }),
   rcf 0x2000C 24 (·.radio.rxPreempted) (fun s r => { s with radio.rxPreempted := r }),
   rcf 0x20010 0 (·.radio.acksSent) (fun s r => { s with radio.acksSent := r }),
   rcf 0x20010 16 (·.radio.ackWithheld) (fun s r => { s with radio.ackWithheld := r }),
   rcf 0x20010 24 (·.radio.hwDup) (fun s r => { s with radio.hwDup := r }),
   rcf 0x20014 0 (·.radio.attempts) (fun s r => { s with radio.attempts := r }),
   rcf 0x20014 16 (·.radio.delivered) (fun s r => { s with radio.delivered := r }),
   rcf 0x20018 0 (·.radio.failed) (fun s r => { s with radio.failed := r }),
   rcf 0x20018 16 (·.radio.ccaFailed) (fun s r => { s with radio.ccaFailed := r }),
   rcf 0x20018 24 (·.radio.ledgerHolds) (fun s r => { s with radio.ledgerHolds := r }),
   rcf 0x2001C 24 (·.radio.armOverlap) (fun s r => { s with radio.armOverlap := r }),
   rcf 0x20024 0 (·.radio.meshDropped) (fun s r => { s with radio.meshDropped := r }),
   rcf 0x20024 8 (·.radio.fragTimeouts) (fun s r => { s with radio.fragTimeouts := r }),
   rcf 0x20024 16 (·.radio.launchLate) (fun s r => { s with radio.launchLate := r }),
   rcf 0x20024 24 (·.radio.launchFull) (fun s r => { s with radio.launchFull := r })]

/-- The RC fields of the tables (R240). -/
def tablesRc : List RcField :=
  [rcf 0x30010 0 (·.tstat.learned) (fun s r => { s with tstat.learned := r }),
   rcf 0x30010 16 (·.tstat.moves) (fun s r => { s with tstat.moves := r }),
   rcf 0x30014 0 (·.tstat.staticRefused) (fun s r => { s with tstat.staticRefused := r }),
   rcf 0x30014 8 (·.tstat.barredDrops) (fun s r => { s with tstat.barredDrops := r }),
   rcf 0x30014 16 (·.tstat.insertFails) (fun s r => { s with tstat.insertFails := r }),
   rcf 0x30014 24 (·.tstat.slotsExhausted) (fun s r => { s with tstat.slotsExhausted := r }),
   rcf 0x30018 0 (·.tstat.spillFloods) (fun s r => { s with tstat.spillFloods := r }),
   rcf 0x30018 16 (·.tstat.spillDropped) (fun s r => { s with tstat.spillDropped := r }),
   rcf 0x3001C 16 (·.tstat.noRoute) (fun s r => { s with tstat.noRoute := r }),
   rcf 0x30024 8 (·.tstat.childRefused) (fun s r => { s with tstat.childRefused := r }),
   rcf 0x30024 16 (·.tstat.parityErrors) (fun s r => { s with tstat.parityErrors := r })]

/-- The RC fields of ingest (R284). -/
def ingestRc : List RcField :=
  [rcm 0x40008 0 (·.ingest.builtMax) (fun s r => { s with ingest.builtMax := r }),
   rcm 0x40008 16 (·.ingest.parkedMax) (fun s r => { s with ingest.parkedMax := r }),
   rcf 0x40010 0 (·.ingest.replays) (fun s r => { s with ingest.replays := r }),
   rcf 0x40010 16 (·.ingest.retransmits) (fun s r => { s with ingest.retransmits := r }),
   rcf 0x40014 0 (·.ingest.authFailed) (fun s r => { s with ingest.authFailed := r }),
   rcf 0x40014 8 (·.ingest.unsecured) (fun s r => { s with ingest.unsecured := r }),
   rcf 0x40014 16 (·.ingest.typeRejected) (fun s r => { s with ingest.typeRejected := r }),
   rcf 0x40014 24 (·.ingest.noPlan) (fun s r => { s with ingest.noPlan := r }),
   rcf 0x40018 0 (·.ingest.valFlagged) (fun s r => { s with ingest.valFlagged := r }),
   rcf 0x40018 16 (·.ingest.valRejected) (fun s r => { s with ingest.valRejected := r }),
   rcf 0x4001C 0 (·.ingest.weirOverflow) (fun s r => { s with ingest.weirOverflow := r }),
   rcf 0x4001C 16 (·.ingest.sigNoKey) (fun s r => { s with ingest.sigNoKey := r }),
   rcf 0x4001C 24 (·.ingest.noRegister) (fun s r => { s with ingest.noRegister := r }),
   rcf 0x40020 0 (·.ingest.readFailed) (fun s r => { s with ingest.readFailed := r }),
   rcf 0x40020 16 (·.ingest.assocRefused) (fun s r => { s with ingest.assocRefused := r }),
   rcf 0x40020 24 (·.ingest.unknownSource) (fun s r => { s with ingest.unknownSource := r }),
   rcf 0x40024 0 (·.ingest.duplicates) (fun s r => { s with ingest.duplicates := r }),
   rcf 0x40028 0 (·.ingest.batches) (fun s r => { s with ingest.batches := r }),
   rcf 0x40028 16 (·.ingest.tribBusy) (fun s r => { s with ingest.tribBusy := r }),
   rcf 0x40028 24 (·.ingest.tribMalformed) (fun s r => { s with ingest.tribMalformed := r }),
   rcf 0x4002C 0 (·.ingest.tribDuplicates) (fun s r => { s with ingest.tribDuplicates := r })]

/-- The RC fields of metrology, the store and the recorder (R316, R361, R534). -/
def storeRc : List RcField :=
  [rcBits 0x50008 0 (·.metro.overrange) (fun s r => { s with metro.overrange := r }),
   rcf 0x5000C 0 (·.metro.lateShares) (fun s r => { s with metro.lateShares := r }),
   rcf 0x51400 0 (·.metro.assigned) (fun s r => { s with metro.assigned := r }),
   rcf 0x51400 16 (·.metro.failed) (fun s r => { s with metro.failed := r }),
   rcf 0x6001C 16 (·.store.ckptLate) (fun s r => { s with store.ckptLate := r }),
   rcf 0x60020 0 (·.store.written) (fun s r => { s with store.written := r }),
   rcf 0x60024 0 (·.store.copied) (fun s r => { s with store.copied := r }),
   rcf 0x60028 0 (·.store.programFails) (fun s r => { s with store.programFails := r }),
   rcf 0x60028 8 (·.store.eraseFails) (fun s r => { s with store.eraseFails := r }),
   rcf 0x60028 16 (·.store.uncorrectable) (fun s r => { s with store.uncorrectable := r }),
   rcf 0x60028 24 (·.store.earlyExpiries) (fun s r => { s with store.earlyExpiries := r }),
   rcf 0x6002C 0 (·.store.mapMisses) (fun s r => { s with store.mapMisses := r }),
   rcf 0x6002C 16 (·.store.fetches) (fun s r => { s with store.fetches := r }),
   rcm 0x60104 16 (·.recorder.stagedMax) (fun s r => { s with recorder.stagedMax := r }),
   rcf 0x60108 0 (·.recorder.lost) (fun s r => { s with recorder.lost := r }),
   rcf 0x60108 16 (·.recorder.droppedFull) (fun s r => { s with recorder.droppedFull := r }),
   rcf 0x6010C 0 (·.recorder.coalesced) (fun s r => { s with recorder.coalesced := r })]

/-- The RC fields of time and keys (R389, R422). -/
def timeRc : List RcField :=
  [rcf 0x70000 16 (·.time.steps) (fun s r => { s with time.steps := r }),
   rcf 0x70018 0 (·.time.syncs) (fun s r => { s with time.syncs := r }),
   rcf 0x70018 16 (·.time.announceTimeouts) (fun s r => { s with time.announceTimeouts := r }),
   rcf 0x70018 24 (·.time.ptpDropped) (fun s r => { s with time.ptpDropped := r }),
   rcf 0x7001C 0 (·.time.edges0) (fun s r => { s with time.edges0 := r }),
   rcf 0x7001C 8 (·.time.edges1) (fun s r => { s with time.edges1 := r }),
   rcf 0x7001C 16 (·.time.edges2) (fun s r => { s with time.edges2 := r }),
   rcf 0x7001C 24 (·.time.edges3) (fun s r => { s with time.edges3 := r }),
   rcf 0x70020 0 (·.time.timeSets) (fun s r => { s with time.timeSets := r }),
   rcf 0x70020 16 (·.time.timeSetRefused) (fun s r => { s with time.timeSetRefused := r }),
   rcf 0x70020 24 (·.time.serLate) (fun s r => { s with time.serLate := r }),
   rcf 0x70020 28 (·.time.serFull) (fun s r => { s with time.serFull := r }),
   rcf 0x8000C 24 (·.keys.writeFails) (fun s r => { s with keys.writeFails := r }),
   rcf 0x80010 20 (·.keys.alarms) (fun s r => { s with keys.alarms := r }),
   rcf 0x80014 0 (·.keys.derivations) (fun s r => { s with keys.derivations := r }),
   rcf 0x80014 16 (·.keys.aborted) (fun s r => { s with keys.aborted := r }),
   rcf 0x80014 24 (·.keys.exhausted) (fun s r => { s with keys.exhausted := r })]

/-- The RC fields of the twin block, Beysyn and updates (R452, R488, R512). -/
def linkageRc : List RcField :=
  [rcf 0x90014 16 (·.twin.swaps) (fun s r => { s with twin.swaps := r }),
   rcf 0x90014 24 (·.twin.swapRefused) (fun s r => { s with twin.swapRefused := r }),
   rcf 0x90018 0 (·.twin.compared) (fun s r => { s with twin.compared := r }),
   rcf 0x9001C 0 (·.twin.mismatches) (fun s r => { s with twin.mismatches := r }),
   rcf 0x9001C 16 (·.twin.rejoins) (fun s r => { s with twin.rejoins := r }),
   rcf 0x90020 0 (·.twin.retransmits) (fun s r => { s with twin.retransmits := r }),
   rcf 0x90020 16 (·.twin.crcErrors) (fun s r => { s with twin.crcErrors := r }),
   rcf 0x90020 24 (·.twin.linkDowns) (fun s r => { s with twin.linkDowns := r }),
   rcf 0xA0004 0 (·.bey.messages) (fun s r => { s with bey.messages := r }),
   rcf 0xA0004 16 (·.bey.dupRequests) (fun s r => { s with bey.dupRequests := r }),
   rcf 0xA0004 24 (·.bey.refused) (fun s r => { s with bey.refused := r }),
   rcf 0xA0008 0 (·.bey.denied) (fun s r => { s with bey.denied := r }),
   rcf 0xA0008 8 (·.bey.malformed) (fun s r => { s with bey.malformed := r }),
   rcf 0xA0008 16 (·.bey.busy) (fun s r => { s with bey.busy := r }),
   rcf 0xA0008 24 (·.bey.conflict) (fun s r => { s with bey.conflict := r }),
   rcf 0xB0028 16 (·.upd.tariffFailed) (fun s r => { s with upd.tariffFailed := r }),
   rcf 0xB002C 0 (·.upd.multicast) (fun s r => { s with upd.multicast := r }),
   rcf 0xB002C 16 (·.upd.unicast) (fun s r => { s with upd.unicast := r })]

/-- Every RC field of the observation space. -/
def rcFields : List RcField :=
  systemRc ++ phaseRc 1 ++ phaseRc 2 ++ phaseRc 3 ++ plcRc ++ radioRc ++ tablesRc ++ ingestRc ++ storeRc ++ timeRc ++ linkageRc
    ++ faultLinks.flatMap linkRc

/-- The boundary that closes a seal: what was counted since the boundary before belongs to it (R10). -/
def foldCounters (s : State) : State := rcFields.foldl (fun s f => f.fold s) s

/-! ### The other fields, sampled at the boundary that closes a seal -/

/-- A field of two words. -/
def two (a v : Nat) : List (Nat × Nat) := [(a, v % 2 ^ 32), (a + 4, v / 2 ^ 32 % 2 ^ 32)]

/-- Fields of a word from its lowest bit: width and value. -/
def packBits : List (Nat × Nat) → Nat
  | [] => 0
  | (w, v) :: fs => v % 2 ^ w + 2 ^ w * packBits fs

/-- The words of a byte string. -/
def wordsAt (a : Nat) (b : Bytes) : List (Nat × Nat) :=
  (List.range (ceilDiv b.length 4)).map fun i => (a + 4 * i, ofLe (slice b (4 * i) 4))

/-- The system block's words (R51, R52, R87, R573). (DEDUCED, log 12) (DEDUCED, log 75) -/
def systemWords (s : State) : List (Nat × Nat) :=
  let v := s.sys.vbat
  let staged := (s.bey.staging.map fun g => itemsBytes g.2.items).foldl (· + ·) 0
  [(0x00, packBits [(2, s.pll.lock.code), (1, bit (nominal60 s)), (1, bit s.pll.steering), (12, 0), (16, s.pll.prevLen.toNat)]),
   (0x08, packBits [(8, s.cov.sys.sets.length), (20, staged)]),
   (0x0C, packBits [(4, s.sys.cause.toNat), (1, bit s.sys.lgIncomplete), (11, bit s.sys.vbatFresh), (16, s.sys.bootMs.toNat)])]
  ++ two 0x10 s.sys.lastSigned.toNat
  ++ [(0x18, s.cov.sys.epoch.toNat),
   (0x1C, packBits [(1, bit v.valid), (1, bit v.xtalOk), (14, bit s.sys.vbatLow), (16, v.lgTime.toNat)]),
   (0x20, packBits [(8, s.sys.bootCause.toNat), (1, bit s.sys.image.blank), (1, bit (strapMismatch s.cov.sys.records s.sys.region)),
     (6, s.sys.region.toNat), (16, s.sys.image.records)]),
   (0x24, s.sys.image.serial.toNat),
   (0x28, packBits [(20, s.nor.journal.used), (1, bit s.nor.journal.halfB), (1, bit s.nor.journal.frozen)]),
   (0x30, s.bey.alert.toNat)]
  ++ two 0x38 s.bey.mark.toNat

/-- The powerline's words (R130, R164). -/
def plcWords (s : State) : List (Nat × Nat) :=
  let t := s.cap.tick.toNat
  let phase (p : Nat) : Nat × Nat :=
    let cap := 16 * hwCfg s 0x0101 p 8 4 200000
    let used := chargedIn (s.plc.phase p).charges (t + 1 - windowTicks s) t
    (0x10000 + 0x20 * (p - 1), packBits [(3, hwModes s p), (13, hwCfg s 0x0101 p 1 1 1 % 2),
      (10, if cap = 0 then 0 else min 1000 (used * 1000 / cap))])
  let valid := s.cov.tables.links.filter fun l => l.2.peer.valid && !l.2.peer.radio
  [phase 1, phase 2, phase 3,
   (0x11000, packBits [(12, valid.length), (12, (valid.filter fun l => l.2.peer.direct).length)]),
   (0x11004, packBits [(16, s.plc.queue.length), (7, s.plc.launches.length)])]

/-- WORST and WORST_INDEX: the ledger row with the highest window charge, in permille of its limit (R204).
(DEDUCED, log 100) -/
def worstRow (s : State) : Nat × Nat :=
  let p := profileOf s.cov.sys.records (band900 s)
  let rows := (s.radio.ledger.map (·.index)).eraseDups
  rows.foldl (fun best row =>
    let lim := ledgerLimit p row
    let c := if lim = 0 then 0 else min 1000 (windowCharge p row (nowNs s) s.radio.ledger * 1000 / lim)
    if best.1 < c ∨ (best.1 = c ∧ 0 < c ∧ row < best.2) then (c, row) else best) (0, 0)

/-- The radio's words (R204). -/
def radioWords (s : State) : List (Nat × Nat) :=
  let on := radioOnOf s.hw.records s.sys.region
  let b9 := band900 s
  let parts := s.cov.tables.links.filterMap fun l => if l.2.peer.valid then l.2.radio? else none
  let w := worstRow s
  [(0x20000, packBits [(2, if on then strapBand s.sys.region else 0), (2, profileOf s.hw.records b9), (7, radioModes s.hw.records),
     (1, hwCfg s 0x0201 0 3 1 1), (8, (channelsInUse s.hw.records b9).length), (1, bit (hwMayTransmit s))]),
   (0x2001C, packBits [(12, (parts.filter fun r => r.periodMs != 0).length), (12, (parts.filter fun r => r.lost).length)]),
   (0x20020, packBits [(16, w.1), (16, w.2)])]

/-- The words of the tables and of ingest (R240, R284). -/
def tableWords (s : State) : List (Nat × Nat) :=
  let e := s.cov.tables.endpoints
  let inState (x : EpState) : Nat := (e.filter fun p => p.2.state == x).length
  let buckets := (s.cov.tables.ways.map fun w => w.1 / 8).eraseDups
  let rs := allRoutes s
  [(0x30000, inState .active), (0x30004, inState .silent), (0x30008, 2 ^ 20 - (e.length - inState .free)),
   (0x3000C, (buckets.filter fun b => validWays s.cov.tables.ways b == 8).length),
   (0x3001C, packBits [(11, s.cov.tables.spills.length)]),
   (0x30020, packBits [(16, rs.length), (7, (List.range 6).foldl (fun m k => max m (trieNodes rs (k + 1))) 0)]),
   (0x30024, (s.cov.tables.children.filter fun c => c.2.state != .free).length),
   (0x40000, packBits [(16, s.ingest.plcQ.length), (13, s.ingest.radioQ.length)]),
   (0x40004, packBits [(16, s.ingest.serialQ.length), (15, s.ingest.tribQ.length)]),
   (0x4000C, s.cov.ledger.nextSeq.toNat)]

/-- Metrology's words (R316). -/
def metroWords (s : State) : List (Nat × Nat) :=
  let m := s.metro
  let u32 (v : Int) : Nat := (BitVec.ofInt 32 v).toNat
  let chan (c : Nat) : List (Nat × Nat) :=
    let q := m.quantities.getD c ⟨0, 0, 0, 0, false, true⟩
    let a := 0x50100 + 16 * c
    [(a, sat 32 q.rms), (a + 4, u32 q.mean), (a + 8, sat 32 q.fund),
     (a + 12, packBits [(16, q.angle), (1, bit (m.unsettled.getLsbD c)), (1, bit (m.lastOver.getLsbD c)), (1, bit q.noPhasor),
       (1, bit q.noData)])]
  let cond (k : Nat) : List (Nat × Nat) :=
    let q := m.conductors.getD k ⟨0, 0, true⟩
    let a := 0x50400 + 16 * k
    [(a, u32 q.p), (a + 4, u32 q.q), (a + 8, bit q.invalid)]
  let acc (k : Nat) : List (Nat × Nat) :=
    let e := s.cov.metro.energy.getD k Energy.zero
    let a := 0x50800 + 32 * k
    two a e.actImp.toNat ++ two (a + 8) e.actExp.toNat ++ two (a + 16) e.reaPos.toNat ++ two (a + 24) e.reaNeg.toNat
  let bal (i : Nat) : List (Nat × Nat) :=
    match tget s.cov.metro.balances (i + 1) with
    | some b => wordsAt (0x51000 + 0x80 * i) b.bytes
    | none => []
  [(0x50000, (List.range 32).foldl (fun v c => v + bit (decide ((chanCfg s.hw.records c).source ≠ 0)) * 2 ^ c) 0),
   (0x50004, m.unsettled.toNat), (0x5000C, packBits [(16, 0), (8, s.cov.metro.idents.length)])]
  ++ (List.range 32).flatMap chan ++ (List.range 21).flatMap cond ++ (List.range 21).flatMap acc ++ (List.range 7).flatMap bal

/-- The store's and the recorder's words (R361, R534). -/
def storeWords (s : State) : List (Nat × Nat) :=
  let st := s.store
  let mode := match st.mode with | .fine => 0 | .coarseStart => 1 | .coarseScan => 2 | .coarseTest => 3
  let sg := exportSigner s
  [(0x60000, packBits [(2, mode), (1, bit st.scanned), (1, bit (st.perPage == 4)), (5, st.lunSet.length)]),
   (0x60004, st.free), (0x60008, st.usable), (0x6000C, st.retired)]
  ++ two 0x60010 ((st.durable.map (·.toNat)).getD 0) ++ two 0x60018 st.rootTick
  ++ [(0x60100, packBits [(19, s.recorder.writePos), (1, bit s.recorder.full), (1, bit s.recorder.clearing),
        (2, (sg.map (·.1)).getD 0)]),
      (0x60104, s.recorder.staging.length), (0x6010C, packBits [(24, 0), (8, s.recorder.clears.toNat)]),
      (0x60110, s.recorder.nextSeq.toNat)]
  ++ (match sg with
      | some (_, d) => wordsAt 0x60140 (keyBytes (publicKey d))
      | none => [])

/-- The words of time and keys (R389, R422). -/
def timeWords (s : State) : List (Nat × Nat) :=
  let t := s.time
  let sat32 (v : Int) : Nat := int32 (if 2 ^ 31 - 1 < v then 2 ^ 31 - 1 else if v < -(2 ^ 31) then -(2 ^ 31) else v)
  let roots := (List.range 3).foldl (fun v i => v + bit (rootWritten s (i + 1)) * 2 ^ i) 0
  let inUse := if s.keys.inUseB then s.keys.copyB else s.keys.copyA
  let unusable := (s.cov.keys.slots.filter fun p => p.2.type != 0 && !((List.range 16).any fun op => usable s op p.1)).length
  [(0x70000, packBits [(3, t.servo.code), (1, bit (t.servo.synced)), (1, bit t.utcValid), (2, t.slave.getD 0), (1, bit t.slave.isNone),
     (8, utcOffset s)]),
   (0x70004, thetaParam t.theta), (0x70008, sat32 (t.rate * 1000 / 65536)), (0x7000C, sat32 (t.path / 65536))]
  ++ (match t.parent with | some a => wordsAt 0x70010 (euiBytes a.sender) | none => [])
  ++ [(0x80000, packBits [(3, (lifeState s).code), (3, roots), (2, revokeFuses s), (4, entriesOf (lifeFuses s)),
        (4, returnsOf (lifeFuses s)), (10, (tamperFuses s).toNat), (4, s.cov.keys.requests.length)]),
      (0x80004, packBits [(14, cellsInUse s), (14, unusable)]),
      (0x80008, (inUse.map (·.gen.toNat)).getD 0),
      (0x8000C, packBits [(16, vaultBytes s), (1, bit s.keys.inUseB), (1, bit s.keys.fromMirror), (1, bit s.keys.frozen)]),
      (0x80010, packBits [(10, s.keys.active.toNat), (10, (s.keys.latch.map (·.sources.toNat)).getD 0)])]

/-- Code of a standby state (R428). -/
def Standby.code : Standby → Nat
  | .starting => 0 | .rejoining => 1 | .synced => 2 | .orphaned => 3 | .held => 4 | .diverged => 5 | .fenced => 6

/-- ROLE of TWIN_STATUS: primary while a term lasts, mirror in the standby states 1 to 5, else none (R424, R428, R452). -/
def twinRoleCode (s : State) : Nat :=
  match s.twin.role, s.twin.standby with
  | .single, _ => 0
  | .primary, _ => if s.twin.waitAnswer.isSome then 0 else 1
  | .mirror, .starting | .mirror, .fenced => 0
  | .mirror, _ => 2

/-- The mirror meets the condition for a periodic swap at a log (R444). -/
def mirrorSwappable (s : State) (t : Nat) : Bool :=
  s.twin.mirror.any fun m => m.standby == 2 && m.isMatch && m.procVersion == s.upd.fw.procVersion && decide (t < m.logTick.toNat + 8)

/-- The words of the twin block and Beysyn (R452, R488). -/
def twinWords (s : State) : List (Nat × Nat) :=
  let w := s.twin
  let primary := w.role == .primary
  let standby := if primary then (w.mirror.map (·.standby)).getD 0 else w.standby.code
  let witness := if primary then w.ackTick != 0 && decide (s.cap.tick.toNat ≤ w.ackTick.toNat + 4) else w.silentTick.isSome
  let fillDone := if primary then w.mirror.any (·.fillDone) else w.fillDone
  [(0x90000, packBits [(2, twinRoleCode s), (3, standby), (1, bit w.linkUp), (1, bit w.peerN), (1, bit w.primaryN), (1, bit witness),
     (1, bit (primary && mirrorSwappable s s.cap.tick.toNat)), (6, bit fillDone), (16, s.upd.fw.procVersion.toNat)])]
  ++ two 0x90008 w.renewal.toNat ++ two 0x90010 ((w.swapAt.map (·.toNat)).getD 0)
  ++ [(0xA0000, packBits [(7, (s.bey.sessions.filter fun p => p.2.ended.isNone).length), (1, bit (s.bey.ephemeral.isSome && (usableSlots s 1).isEmpty)),
       (8, s.bey.staging.length), (7, s.bey.queries.length), (1, bit s.bey.witnessUp)])]

/-- The words of updates and test (R512, R588). -/
def updateWords (s : State) : List (Nat × Nat) :=
  let u := s.cov.upd
  let sess := match u.session with | none => 0 | some x => if x.pending then 3 else x.kind + 1
  let verify := match s.upd.verify with | .notStarted => 0 | .waiting => 1 | .running => 2 | .verified => 3 | .rejected => 4
  let c := u.campaign
  let count (l : List Nat) : Nat := match c with | some c => campCount s c l | none => 0
  [(0xB0000, packBits [(2, sess), (1, bit (u.session.any fun x => x.target == ownEui s)), (3, verify), (2, bit s.upd.deadWindow),
     (8, s.upd.cause)]),
   (0xB0004, (u.session.map (·.received)).getD 0)]
  ++ two 0xB0008 ((u.session.bind fun x => if x.pending then some x.boundary.toNat else none).getD 0)
  ++ [(0xB0010, ofLe (s.upd.fw.fwDigest.take 4)), (0xB0014, s.upd.fw.build.toNat),
      (0xB0018, match c with | some c => packBits [(8, c.phase), (8, c.round), (16, c.id)] | none => 0xFF),
      (0xB001C, (c.map (·.targets.length)).getD 0), (0xB0020, count [3, 4, 5]), (0xB0024, count [6, 7]),
      (0xB0028, u.tariffs.length),
      (0xF0000, packBits [(1, bit (s.store.mode == .coarseTest)),
        (1, bit (faultPermitted s && faultLinks.any fun l => faultOn s l true || faultOn s l false))])]

/-- Every word that holds a field other than an RC field. (DEDUCED, log 100) -/
def roWords (s : State) : List (Nat × Nat) :=
  systemWords s ++ plcWords s ++ radioWords s ++ tableWords s ++ metroWords s ++ storeWords s ++ timeWords s ++ twinWords s
    ++ updateWords s

/-- The fields are sampled at the boundary that closes a seal (R10, R531, R534). (DEDUCED, log 100) (DEDUCED, log 111) -/
def sampleFields (s : State) : State :=
  { s with obs := (roWords s).map fun p => (p.1, BitVec.ofNat 32 p.2) }

/-- A window is assigned to a block (R1). -/
def assignedBlock (b : Nat) : Bool := decide (b ≤ 0xB) || b == 0xF

/-- The word at an address, as of the answering seal (R2, R531 to R533). -/
def obsWord (s : State) (a : Nat) : Nat :=
  if a % 65536 = 0xFFF8 then (if assignedBlock (a / 65536) then a / 65536 + 0x100 else 0)
  else (rcFields.filter (·.addr == a)).foldl (fun v f => v + f.get s * 2 ^ f.lo) (tgetD s.obs a 0).toNat

/-- A LENS_OBSERVE: its bytes, and the RC fields in its range cleared (R10, R475, R531). (DEDUCED, log 100) -/
def observe (a len : Nat) (s : State) : Bytes × State :=
  ((List.range (len / 4)).flatMap fun i => le 4 (obsWord s (a + 4 * i)),
   (rcFields.filter fun f => decide (a ≤ f.addr) && decide (f.addr < a + len)).foldl (fun s f => f.clear s) s)

end Sys2Proof.Machine
end

