-- ==== Sys2Proof/Machine/Beysyn.lean ====
section
/-!
DEFINITION. Beysyn: sessions, access, messages and replies, queries, staging, subscriptions, and the DTLS engine
(chapter 13, R454 to R489, R271 to R273, R399, R494, R495, R526 to R530, R614).
-/
namespace Sys2Proof.Machine

open Sys2Proof

/-! ### Access (R459 to R462, R614) -/

/-- A state with what it held as of the answering seal (R39). -/
def asSealed (s : State) : State := { s with cov := s.view }

/-- Bits [31:0] of a digest: its last four bytes (R610). (DEDUCED, log 90) -/
def digestLow (d : Bytes) : Nat := ofBe (d.drop 28)

/-- The lowest ACCESS record whose KEY_SLOT is usable for DTLS_TRUST and holds a key of this digest (R460 rule 1). -/
def accessByKey (t : State) (digest : Bytes) : Option (Nat × Bytes) :=
  (recsOfType t.cov.sys.records 0x0A01).find? fun r =>
    let k := ofLe (slice r.2 2 2)
    k != 0xFFFF && usable t 2 k && (match slotValue t k with | some v => sha256 v == digest | none => false)

/-- The record and the rights of a key (R459, R460); no record at all gives QUERY, and QUARANTINE gives QUERY and LIFECYCLE. -/
def accessOf (t : State) (digest : Bytes) : Option (Nat × Bytes) × Nat :=
  if lifeState t = .quarantine then (none, 0x11)
  else
    let recs := recsOfType t.cov.sys.records 0x0A01
    if recs.isEmpty then (none, 1)
    else
      match (accessByKey t digest).orElse fun _ => recs.find? fun r => ofLe (slice r.2 2 2) == 0xFFFF with
      | some r => (some r, ofLe (slice r.2 4 2) % 128)
      | none => (none, 0)

/-- The session rights of a key as of the answering seal (R460, R614). -/
def rightsOf (s : State) (digest : Bytes) : Nat := (accessOf (asSealed s) digest).2

/-- A key holds a right of another kind: TRIBUTARY, PARENT or WITNESS (R274, R462, R614). -/
def keyGrants (s : State) (right : Nat) (digest : Bytes) : Bool :=
  match accessByKey (asSealed s) digest with
  | some r => testBit (ofLe (slice r.2 4 2)) right
  | none => false

/-! ### Message types and replies (R463 to R466) -/

/-- The bit of RIGHTS that a served message needs (R459, R466). -/
def typeRight (type : Nat) : Option Nat :=
  if type ∈ [0x10, 0x11, 0x12, 0x13, 0x14, 0x15, 0x18, 0x19, 0x20, 0x21] then some 0
  else if type = 0x28 then some 1
  else if type ∈ [0x30, 0x31, 0x32, 0x33, 0x34, 0x35] then some 2
  else if type ∈ [0x40, 0x41, 0x42, 0x43, 0x44] then some 3
  else if type = 0x38 then some 4
  else if type = 0x39 then some 5
  else if type = 0x1A then some 6
  else none

/-- A query, which a mirror answers too (R437, R466). -/
def isQuery (type : Nat) : Bool := type ∈ [0x10, 0x11, 0x12, 0x13, 0x14, 0x15, 0x18, 0x19]

/-- A query answered from the flash store (R466, R467). -/
def isStoreQuery (type : Nat) : Bool := type ∈ [0x10, 0x11, 0x12, 0x13, 0x19]

/-- A request held for repeats (R466, R468). -/
def isCached (type : Nat) : Bool := (typeRight type).isSome && !isQuery type

/-- The layout of a message's body: its length, and for items and data the lengths within (R465 step 1). (DEDUCED, log 85) -/
def layoutOk (type : Nat) (b : Bytes) : Bool :=
  let n := b.length
  match type with
  | 0x10 | 0x11 | 0x12 | 0x18 | 0x19 | 0x1A | 0x20 | 0x35 | 0x39 | 0x43 => n == 8
  | 0x13 => n == 32
  | 0x14 => n == 16
  | 0x15 | 0x21 | 0x30 | 0x42 | 0x44 => n == 0
  | 0x28 => n == 12
  | 0x31 => decide (4 ≤ n) && (parseItems (ofLe (slice b 2 2)) (b.drop 4)).isSome
  | 0x32 | 0x34 => n == 4
  | 0x33 => n == 10
  | 0x38 => n == 236
  | 0x40 => n == 20
  | 0x41 => decide (9 ≤ n) && decide (n ≤ 16360) && n == 8 + ofLe (slice b 4 2)
  | _ => false

/-- A reply: STATUS, the detail's CAUSE and INDEX, and the body of an OK reply (R464). -/
structure Reply where
  status : Nat
  cause  : Nat
  index  : Nat
  body   : Bytes
  deriving DecidableEq, Repr

/-- An OK reply. -/
def Reply.ok (b : Bytes) : Reply := ⟨0, 0, 0, b⟩
/-- BUSY. -/
def Reply.busy : Reply := ⟨1, 0, 0, []⟩
/-- CONFLICT with a cause. -/
def Reply.conflict (cause index : Nat) : Reply := ⟨2, cause, index, []⟩
/-- STALE. -/
def Reply.stale : Reply := ⟨3, 0, 0, []⟩
/-- DENIED. -/
def Reply.denied : Reply := ⟨4, 0, 0, []⟩
/-- MALFORMED. -/
def Reply.malformed : Reply := ⟨5, 0, 0, []⟩
/-- NOTFOUND. -/
def Reply.notFound : Reply := ⟨6, 0, 0, []⟩

/-- A message that the M20 sends: header and body (R463). -/
def messageBytes (type : Nat) (rid : BitVec 32) (tick : Option (BitVec 48)) (status : Nat) (body : Bytes) : Bytes :=
  [0xB5, 1] ++ le 2 type ++ le 4 rid.toNat ++ le 6 ((tick.map (·.toNat)).getD 0xFFFFFFFFFFFF) ++ le 2 status ++ body

/-- The message of a reply (R463, R464). -/
def Reply.message (r : Reply) (type : Nat) (rid : BitVec 32) (tick : Option (BitVec 48)) : Bytes :=
  messageBytes (type % 32768 + 32768) rid tick r.status
    (if r.status = 0 then r.body else le 2 r.cause ++ zeros 2 ++ le 4 r.index)

/-- Whose message it is: its place in the order of R46, its session, whether that session is a mirror's own (R437), and its
request. -/
structure MsgCtx where
  src     : Src
  session : Nat
  own     : Bool
  rid     : BitVec 32
  deriving DecidableEq, Repr

/-- The session of a message. -/
def MsgCtx.find (c : MsgCtx) (s : State) : Option Session := tget (if c.own then s.bey.own else s.bey.sessions) c.session

/-- Write the session of a message. -/
def MsgCtx.put (c : MsgCtx) (x : Session) (s : State) : State :=
  if c.own then { s with bey.own := tput s.bey.own c.session x } else { s with bey.sessions := tput s.bey.sessions c.session x }

/-- The seal that a reply names (R39, R437). -/
def MsgCtx.tick (c : MsgCtx) (s : State) : Option (BitVec 48) := if c.own then s.sys.prevSeal.map (·.1) else s.sys.answer

/-- A mirror that executes the primary's messages sends no replies to them. -/
def MsgCtx.sends (c : MsgCtx) (s : State) : Bool := c.own || s.twin.role != .mirror

/-- The DTLS session that carries the session of a message: the engine still holds it, and its number has not gone to another
client (R457, R458). (DEDUCED, log 69) (DEDUCED, log 87) -/
def MsgCtx.carrier (c : MsgCtx) (s : State) : Option DtlsSession :=
  match tget s.bey.dtls c.session, c.find s with
  | some d, some x =>
    if d.addr = x.addr ∧ d.udpPort = x.udpPort ∧ d.ethPort = x.ethPort ∧ d.digest = x.digest then some d else none
  | _, _ => none

/-- A message leaves on the session, where the DTLS engine still holds it with its keys (R419, R458). (DEDUCED, log 87) -/
def MsgCtx.send (c : MsgCtx) (m : Bytes) (s : State) : State :=
  match c.carrier s with
  | some d => if d.keyed && c.sends s then ethernetOut d.ethPort.toNat (.beysyn c.session m) s else s
  | none => s

/-- The reply's status is counted (R488). (DEDUCED, log 86) -/
def countStatus (status : Nat) (s : State) : State :=
  match status with
  | 1 => { s with bey.busy := s.bey.busy.inc }
  | 2 => { s with bey.conflict := s.bey.conflict.inc }
  | 4 => { s with bey.denied := s.bey.denied.inc }
  | 5 => { s with bey.malformed := s.bey.malformed.inc }
  | _ => s

/-! ### Queries (R467 to R476) -/

/-- Closed seals up to the answering one, ascending by tick. -/
def sealsUpTo (s : State) (ans : Option (BitVec 48)) : List SealSlot :=
  match ans with
  | none => []
  | some a => (s.store.seals.filter fun p => decide (p.1 ≤ a.toNat)).map (·.2)

/-- The 208 bytes of a seal, with zeros for a signature it lacks (R469). -/
def Seal.wide (x : Seal) : Bytes := fit 208 x.full

/-- SEAL_READ (R469). -/
def sealReadReply (ans : Option (BitVec 48)) (b : Bytes) (s : State) : Reply :=
  let count := ofLe (slice b 6 1)
  let signedOnly := testBit (ofLe (slice b 7 1)) 0
  if count = 0 ∨ 64 < count then .malformed
  else
    let found := ((sealsUpTo s ans).map (·.body)).filter fun x =>
      decide (ofLe (slice b 0 6) ≤ x.tick.toNat) && (!signedOnly || x.sig.isSome)
    let out := found.take count
    if out.isEmpty then .notFound else .ok (le 2 out.length ++ zeros 2 ++ out.flatMap Seal.wide)

/-- A reading record that is a leaf of a closed seal up to the answering one: the record and its seal's slot. -/
def recordAt (s : State) (ans : Option (BitVec 48)) (seq : Nat) : Option (StoredRecord × SealSlot) :=
  match tget s.store.records seq, ans with
  | some r, some a =>
    if r.tick.toNat ≤ a.toNat then (tget s.store.seals r.tick.toNat).map fun x => (r, x) else none
  | _, _ => none

/-- The leaf position of a reading record in its seal (R271). -/
def leafIndex (seq : Nat) (x : SealSlot) : Nat := (seq + 2 ^ 32 - x.firstSeq.toNat) % 2 ^ 32

/-- The 48 bytes of a record entry (R470). -/
def recordEntry (r : StoredRecord) (x : SealSlot) : Bytes :=
  let t := r.tick.toNat
  let capture := t - (t + 2 ^ 32 - r.record.tick.toNat) % 2 ^ 32
  r.record.bytes ++ le 6 t ++ le 2 (capture / 2 ^ 32) ++ le 4 (leafIndex r.record.seq.toNat x)
    ++ le 2 ((r.record.payload.map (·.length)).getD 0) ++ zeros 2

/-- Record entries from a SEQUENCE on, until one is missing (R470). -/
def recordEntries (s : State) (ans : Option (BitVec 48)) : Nat → Nat → List Bytes
  | 0, _ => []
  | n + 1, seq =>
    match recordAt s ans seq with
    | none => []
    | some (r, x) => recordEntry r x :: recordEntries s ans n ((seq + 1) % 2 ^ 32)

/-- RECORD_READ (R470). -/
def recordReadReply (ans : Option (BitVec 48)) (b : Bytes) (s : State) : Reply :=
  let first := ofLe (slice b 0 4)
  let count := ofLe (slice b 4 2)
  if count = 0 ∨ 320 < count then .malformed
  else
    let out := recordEntries s ans count first
    if out.isEmpty then .notFound else .ok (le 4 first ++ le 2 out.length ++ zeros 2 ++ out.flatten)

/-- PAYLOAD_READ (R471). -/
def payloadReadReply (ans : Option (BitVec 48)) (b : Bytes) (s : State) : Reply :=
  let seq := ofLe (slice b 0 4)
  match recordAt s ans seq with
  | none => .notFound
  | some (r, _) =>
    match r.record.payload with
    | some p => .ok (le 4 seq ++ le 2 p.length ++ zeros 2 ++ p)
    | none => .notFound

/-- The reading records of a seal, where all of them are held with their payloads (R271, R272). (DEDUCED, log 90) -/
def sealRecords (s : State) (x : SealSlot) : Option (List Record) :=
  (List.range x.body.readLeaves.toNat).mapM fun i =>
    match tget s.store.records ((x.firstSeq.toNat + i) % 2 ^ 32) with
    | some r => if r.record.flags.getLsbD 15 ∧ r.record.payload.isNone then none else some r.record
    | none => none

/-- The recorder still holds an event leaf. (DEDUCED, log 90) -/
def eventHeld (s : State) (b : Bytes) : Bool :=
  (s.recorder.written.any fun p => p.2.bytes == b) || s.recorder.staging.any fun e => e.bytes == b

/-- The leaf of a proof: RECORD, PAYLOAD_DIGEST with whether it is present, and the siblings (R273). -/
def proofLeaf (s : State) (kind : Nat) (x : SealSlot) (i : Nat) : Option (Bytes × Option Bytes × List Bytes) :=
  if kind = 2 then some (zeros 32, none, [])
  else
    (sealRecords s x).bind fun recs =>
      let leaves := recs.map Record.leaf ++ x.events.map eventLeaf
      let sib := siblings (depthOf leaves.length) (paddedLeaves leaves) i
      if kind = 0 then recs[i]?.map fun r => (r.bytes, r.payload.map sha256, sib)
      else
        if i < recs.length then none
        else (x.events[i - recs.length]?).bind fun e => if eventHeld s e then some (e, none, sib) else none

/-- Seal bodies in a chain: each names the hash of the one before it. -/
def chained : List Seal → Bool
  | a :: b :: t => a.hash == b.prevHash && chained (b :: t)
  | _ => true

/-- The bytes of a proof (R273). -/
def proofBytes (kind depth index : Nat) (leaf : Bytes × Option Bytes × List Bytes) (bodies : List Seal) (sig : Nat × Nat) : Bytes :=
  [1, BitVec.ofNat 8 kind, BitVec.ofNat 8 depth, BitVec.ofNat 8 (bit leaf.2.1.isSome)] ++ le 4 index ++ leaf.1
    ++ leaf.2.1.getD (zeros 32) ++ le 4 bodies.length ++ zeros 4 ++ leaf.2.2.flatten ++ bodies.flatMap Seal.bytes ++ sigBytes sig

/-- PROOF_READ, its tests in the order of R472. (DEDUCED, log 90) -/
def proofReadReply (ans : Option (BitVec 48)) (b : Bytes) (s : State) : Reply :=
  let kind := ofLe (slice b 0 1)
  let seq := ofLe (slice b 4 4)
  let target := ofLe (slice b 0x14 6)
  let off := ofLe (slice b 0x1C 4)
  let found := if kind = 0 then (recordAt s ans seq).map (·.2) else
    (sealsUpTo s ans).find? fun x => x.body.tick.toNat == ofLe (slice b 8 6)
  let early : Bool := match found with
    | some x => target != 0 && decide (target < x.body.tick.toNat)
    | none => kind != 0 && target != 0 && decide (target < ofLe (slice b 8 6))
  if 2 < kind ∨ early then .malformed
  else match found with
    | none => .notFound
    | some x =>
      let i := if kind = 0 then leafIndex seq x else if kind = 1 then ofLe (slice b 0x10 4) else 0
      let t := x.body.tick.toNat
      let later := ((sealsUpTo s ans).map (·.body)).filter fun y => decide (t ≤ y.tick.toNat)
      let goal := if target = 0 then later.find? (·.sig.isSome) else later.find? fun y => y.tick.toNat == target && y.sig.isSome
      match goal.bind fun g => g.sig.map fun sg => (g, sg), proofLeaf s kind x i with
      | some (g, sg), some leaf =>
        let bodies := later.filter fun y => decide (y.tick.toNat ≤ g.tick.toNat)
        if !chained bodies then .notFound
        else if 8192 < bodies.length then .conflict 1 0
        else
          let p := proofBytes kind leaf.2.2.length i leaf bodies sg
          if p.length ≤ off then .malformed
          else .ok (le 4 p.length ++ le 4 off ++ le 6 t ++ zeros 2 ++ le 6 g.tick.toNat ++ zeros 2 ++ slice p off 16000)
      | _, _ => .notFound

/-- ENDPOINT_GET, from the state as of the answering seal (R473). -/
def endpointGetReply (b : Bytes) (s : State) : Reply :=
  let t := asSealed s
  let by_ := ofLe (slice b 0 1)
  let given := ofLe (slice b 4 4)
  if 1 < by_ ∨ (by_ = 0 ∧ 2 ^ 20 ≤ given) then .malformed
  else
    match if by_ = 0 then some given else lookup t (euiOf (slice b 8 8)) with
    | none => .notFound
    | some slot =>
      let e := endpoint t slot
      if e.state = .free then .notFound
      else
        let eui := ((t.cov.tables.ways.find? fun w => w.2.slot.toNat == slot).map (·.2.eui)).getD 0
        let link := linkOfSlot t.cov.tables.links slot
        .ok (le 4 slot ++ zeros 4 ++ euiBytes eui ++ e.bytes ++ le 2 (link.getD 0xFFFF) ++ zeros 6
          ++ (match link with | some i => fit 256 (linkEntry t i).bytes | none => zeros 256))

/-- SET_LIST, from the state as of the answering seal (R474). -/
def setListReply (s : State) : Reply :=
  let sets := setsUpTo s.view.sys.sets (2 ^ 48)
  .ok (le 2 sets.length ++ zeros 2 ++ sets.flatMap fun p =>
    le 6 p.2.boundary.toNat ++ le 6 p.2.commit.toNat ++ le 2 p.2.items.length ++ zeros 2)

/-- An observation address: its upper byte zero, a multiple of 4 (R475, R478). -/
def addressOk (a : Nat) : Bool := decide (a < 2 ^ 24) && a % 4 == 0

/-- LENS_OBSERVE: the fields that a read clears are cleared by the unit that sends the reply (R10, R475). -/
def lensObserve (c : MsgCtx) (b : Bytes) (s : State) : Reply × State :=
  let a := ofLe (slice b 0 4)
  let len := ofLe (slice b 4 2)
  if !addressOk a ∨ len < 4 ∨ 8192 < len ∨ len % 4 ≠ 0 then (.malformed, s)
  else
    let (bytes, t) := observe a len s
    (.ok (le 4 a ++ le 2 len ++ zeros 2 ++ bytes), if c.sends s then t else s)

/-- LENS_RECORDER: the records, the cursor and the signature of the export (R526 to R529). (DEDUCED, log 99) -/
def lensRecorder (c : MsgCtx) (x : Session) (b : Bytes) (s : State) : Reply × State :=
  let start := ofLe (slice b 0 4)
  let count := ofLe (slice b 4 2)
  if count = 0 ∨ 256 < count ∨ (262143 < start ∧ start ≠ 0xFFFFFFFF) then (.malformed, s)
  else
    match s.recorder.read (if start = 0xFFFFFFFF then x.cursor else start) count with
    | .unreadable i => (⟨6, 0, i, []⟩, c.put { x with cursor := i + 128 } s)
    | .records first next recs =>
      let body := le 4 first ++ le 2 recs.length ++ zeros 2 ++ le 4 next ++ zeros 4 ++ recs.flatMap EventRec.bytes
      let trailer := match exportSigner (asSealed s) with
        | some (_, d) => sigBytes (ecdsaSign d (sha256 (euiBytes (ownEui s) ++ le 8 (s.sys.image.ledgerId.getD 0).toNat ++ body)))
        | none => []
      (.ok (body ++ trailer), c.put { x with cursor := next } s)

/-! ### Direct writes (R477, R478, R530) -/

/-- LENS_CLEAR: the first accepted in a log clears the recorder as the seal closes (R477, R530). -/
def lensClear (c : MsgCtx) (x : Session) (s : State) : Reply × State :=
  if lifeState (asSealed s) ≠ .field then (.denied, s)
  else if s.bey.clear.isSome then (.conflict 1 0, s)
  else
    (.ok [], raise c.src 0x0052 [s.recorder.writePos, c.session, digestLow x.digest]
      { s with bey.clear := some (c.session, x.digest) })

/-- The bits of a word that lie in a W1C field and in an RW field (R52). -/
def writable (a : Nat) : Nat × Nat :=
  if a = 0x30 then (0xFF, 0) else if a = 0x38 then (0, 0xFFFFFFFF) else if a = 0x3C then (0, 0xFFFF) else (0, 0)

/-- WRITE (R9, R11, R52, R478). -/
def directWrite (b : Bytes) (s : State) : Reply × State :=
  let a := ofLe (slice b 0 4)
  let mask := BitVec.ofNat 32 (ofLe (slice b 4 4))
  let v := BitVec.ofNat 32 (ofLe (slice b 8 4))
  let w := writable a
  let (w1c, rw) := (BitVec.ofNat 32 w.1, BitVec.ofNat 32 w.2)
  if !addressOk a ∨ mask &&& ~~~(w1c ||| rw) ≠ 0 then (.malformed, s)
  else if mask = 0 then (.notFound, s)
  else
    let mix (old : BitVec 32) : BitVec 32 := (old &&& ~~~mask) ||| (v &&& mask)
    let lo := s.bey.mark.truncate 32
    let hi := (s.bey.mark >>> 32).truncate 32
    (.ok [],
      if a = 0x30 then { s with bey.alert := s.bey.alert &&& ~~~((mask &&& v).truncate 8) }
      else if a = 0x38 then { s with bey.mark := ((hi.truncate 16) ++ (mix lo)) }
      else { s with bey.mark := (((mix hi).truncate 16) ++ lo) })

/-! ### Subscriptions (R479) -/

/-- SUBSCRIBE: from the first seal that closes after this processing, the seal of this log (R39, R479). (DEDUCED, log 89) -/
def subscribe (c : MsgCtx) (x : Session) (b : Bytes) (s : State) : Reply × State :=
  (.ok [], c.put { x with sub := some ⟨c.rid, testBit (ofLe (slice b 0 1)) 0, s.work.log.tick⟩ } s)

/-- UNSUBSCRIBE (R479). -/
def unsubscribe (c : MsgCtx) (x : Session) (s : State) : Reply × State := (.ok [], c.put { x with sub := none } s)

/-! ### Staging (R42, R43, R480 to R482) -/

/-- STAGE_OPEN: the lowest number from 1 to 8 that is free (R480). -/
def stageOpen (c : MsgCtx) (s : State) : Reply × State :=
  match [1, 2, 3, 4, 5, 6, 7, 8].find? fun n => (tget s.bey.staging n).isNone with
  | none => (.busy, s)
  | some n => (.ok (le 2 n ++ zeros 2), { s with bey.staging := tput s.bey.staging n ⟨c.session, []⟩ })

/-- The staging session that a message names, where it belongs to the message's own session (R481). -/
def MsgCtx.staging (c : MsgCtx) (b : Bytes) (s : State) : Option (Nat × Staging) :=
  let n := ofLe (slice b 0 2)
  ((tget s.bey.staging n).filter fun g => g.session == c.session).map fun g => (n, g)

/-- Bytes in use in the staging region (R42). -/
def stagedBytes (s : State) : Nat := (s.bey.staging.map fun g => itemsBytes g.2.items).foldl (· + ·) 0

/-- The first item of a list that does not fit into `room` bytes. -/
def firstBeyond : Nat → Nat → List Item → Option Nat
  | _, _, [] => none
  | room, n, i :: is => if room < itemsBytes [i] then some n else firstBeyond (room - itemsBytes [i]) (n + 1) is

/-- STAGE_ADD (R42, R481). -/
def stageAdd (c : MsgCtx) (b : Bytes) (s : State) : Reply × State :=
  match c.staging b s, parseItems (ofLe (slice b 2 2)) (b.drop 4) with
  | none, _ => (.notFound, s)
  | some _, none => (.malformed, s)
  | some (n, g), some items =>
    match items.findIdx? fun i => !itemEncodes i with
    | some k => (⟨5, 0, k, []⟩, s)
    | none =>
      if 4096 < g.items.length + items.length then (⟨5, 0, 4096 - g.items.length, []⟩, s)
      else
        match firstBeyond (524288 - stagedBytes s) 0 items with
        | some k => (⟨1, 0, k, []⟩, s)
        | none =>
          (.ok (le 4 (g.items.length + items.length)),
            { s with bey.staging := tput s.bey.staging n ⟨g.session, g.items ++ items⟩ })

/-- The check of R43: against the state `t`; a failure is CONFLICT with the conflict's cause and item (R482). -/
def checkItems (items : List Item) (t : State) : Except Reply State :=
  match applyItems Src.stagedSet 0 items t with
  | .ok t => .ok t
  | .error (i, cause, code) => .error (.conflict cause (i % 2 ^ 24 + code % 256 * 2 ^ 24))

/-- STAGE_CHECK: against the state as of the answering seal with the pending sets applied (R482). -/
def stageCheck (c : MsgCtx) (b : Bytes) (s : State) : Reply × State :=
  match c.staging b s with
  | none => (.notFound, s)
  | some (_, g) =>
    match checkItems g.items (checkState s (2 ^ 48)) with
    | .error r => (r, s)
    | .ok _ => (.ok [], s)

/-- The window of R43: the reply of a boundary outside it. -/
def windowReply (u b : Nat) : Option Reply := if boundaryWindow u b = 3 then some .stale else if boundaryWindow u b = 5 then some .malformed else none

/-- STAGE_COMMIT, its tests in the order of R43. (DEDUCED, log 94) -/
def stageCommit (c : MsgCtx) (b : Bytes) (s : State) : Reply × State :=
  let bound := ofLe (slice b 4 6)
  match c.staging b s with
  | none => (.notFound, s)
  | some (n, g) =>
    match windowReply s.work.log.tick.toNat bound with
    | some r => (r, s)
    | none =>
      if s.cov.sys.sets.any fun p => p.2.boundary.toNat == bound then (.conflict 8 0, s)
      else if 32 ≤ s.cov.sys.sets.length then (.busy, s)
      else
        let base := checkState s bound
        match checkItems g.items base with
        | .error r => (r, s)
        | .ok t =>
          if 458752 < journalNeed s g.items ∨ (65456 < vaultBytes t ∧ vaultBytes base < vaultBytes t) then (.busy, s)
          else
            let set : PendingSet := ⟨BitVec.ofNat 48 bound, s.work.log.tick, g.items⟩
            let s := addSet c.src set { s with bey.staging := tdel s.bey.staging n }
            (.ok (le 6 bound ++ zeros 2),
              journalDue (.commit set.commit set.boundary set.items) (raise c.src 0x0020 [bound % 2 ^ 32, g.items.length] s))

/-- A staging session ends without a commit (R480). (DEDUCED, log 88) -/
def discardStaging (src : Src) (cause : Nat) (p : Nat × Staging) (s : State) : State :=
  raise src 0xA005 [p.1, p.2.items.length, cause] { s with bey.staging := tdel s.bey.staging p.1 }

/-- STAGE_DISCARD (R480). -/
def stageDiscard (c : MsgCtx) (b : Bytes) (s : State) : Reply × State :=
  match c.staging b s with
  | none => (.notFound, s)
  | some p => (.ok [], discardStaging c.src 0 p s)

/-- SET_ABORT (R43, R482). -/
def setAbort (c : MsgCtx) (b : Bytes) (s : State) : Reply × State :=
  let bound := ofLe (slice b 0 6)
  match s.cov.sys.sets.find? fun p => p.2.boundary.toNat == bound with
  | none => (.notFound, s)
  | some (pos, p) =>
    if bound < s.work.log.tick.toNat + 4 then (.stale, s)
    else (.ok [], journalDue (.drop p.boundary p.commit) (raise c.src 0x0023 [bound % 2 ^ 32] (removeSet c.src pos s)))

/-! ### Life cycle and swaps (R399, R444, R484, R485) -/

/-- The action of a code (R484). -/
def actionOf (n : Nat) : Option LcAction :=
  [LcAction.advance, .quarantine, .returnUnit, .scrap, .writeRoot, .revoke, .enableTamper].find? fun a => actionCode a == n

/-- A LIFECYCLE body, where its fields are in range (R484). -/
def lcOfBody (b : Bytes) : Option LcRequest :=
  let units := ofLe (slice b 1 1)
  let p := slice b 0x5C 80
  (actionOf (ofLe (slice b 0 1))).bind fun a =>
    let target := ofLe (p.take 1)
    let bad : Bool := match a with
      | .writeRoot => target == 0 || decide (3 < target)
      | .revoke => decide (target < 2) || decide (3 < target)
      | _ => false
    if units = 0 ∨ 2 < units ∨ bad then none
    else some
      { action := a, units := units, euiA := euiOf (slice b 4 8), euiB := euiOf (slice b 0xC 8),
        boundary := BitVec.ofNat 48 (ofLe (slice b 0x14 6)), root := ofLe (slice b 0x1A 1), signerKey := slice b 0x1C 64,
        target := if a = .writeRoot ∨ a = .revoke then target else 0,
        wrapped := if a = .writeRoot then slice p 8 40 else [], digest := if a = .writeRoot then slice p 0x30 32 else [],
        sources := if a = .enableTamper then BitVec.ofNat 10 (ofLe (p.take 2)) else 0, body := b.take 0xAC,
        r := ofLe (slice b 0xAC 32), s := ofLe (slice b 0xCC 32) }

/-- The EUI-64s that a request names. -/
def LcRequest.names (q : LcRequest) (e : BitVec 64) : Bool := q.euiA == e || (q.units == 2 && q.euiB == e)

/-- The request is for this unit: none where it ignores it, and whether it must answer CONFLICT because a twin pair is not
named whole (R399). (DEDUCED, log 92) -/
def lcAddressed (q : LcRequest) (s : State) : Option Bool :=
  let own := ownEui s
  if cfgOf s.view.sys.records 0x0901 0 0 1 0 ≠ 1 then if LcRequest.names q own then some false else none
  else
    match s.twin.peer with
    | some p =>
      if LcRequest.names q own ∧ LcRequest.names q p.eui then some false
      else if LcRequest.names q own ∨ LcRequest.names q p.eui then some true else none
    | none => if LcRequest.names q own then some (q.units != 2) else none

/-- LIFECYCLE, its checks in the order of R399; no reply where the unit is not named. (DEDUCED, log 92) -/
def lifecycleRequest (c : MsgCtx) (b : Bytes) (s : State) : Option Reply × State :=
  match lcOfBody b with
  | none => (some .malformed, s)
  | some q =>
    match lcAddressed q s with
    | none => (none, s)
    | some true => (some (.conflict 0 0), s)
    | some false =>
      match windowReply s.work.log.tick.toNat q.boundary.toNat with
      | some r => (some r, s)
      | none =>
        let t := asSealed s
        let k := pointOf q.signerKey
        if !(requestRoots t q.action).contains q.root ∨ sha256 q.signerKey ≠ (rootFuses s.keys.fuses q.root).digest
            ∨ !ecdsaVerify k.1 k.2 (sha256 q.body) q.r q.s then (some .denied, s)
        else if !lcCondition (lcPendingApplied { t with cov.keys.requests := s.cov.keys.requests }) q then (some (.conflict 0 0), s)
        else if 8 ≤ s.cov.keys.requests.length then (some .busy, s)
        else (some (.ok []), lcAccept c.src q s)

/-- SWAP_REQUEST (R444, R485). -/
def swapRequest (c : MsgCtx) (b : Bytes) (s : State) : Reply × State :=
  let bound := ofLe (slice b 0 6)
  if cfgOf s.view.sys.records 0x0901 0 0 1 0 ≠ 1 then (.notFound, s)
  else
    match windowReply s.work.log.tick.toNat bound with
    | some r => (r, s)
    | none =>
      if s.twin.swapAt.isSome then (.conflict 0 0, s)
      else
        let st := (s.twin.mirror.map (·.standby)).getD 0
        if st ≠ 2 ∧ st ≠ 4 then (.conflict 3 0, s)
        else
          (.ok [], raise c.src 0x900A [bound % 2 ^ 32, 1]
            { s with twin.swapAt := some (BitVec.ofNat 48 bound), twin.swapTransfer := decide (st = 4) })

/-! ### Update messages (R494, R495) -/

/-- The reply of an update message. -/
def updReply (o : UpdOutcome × State) : Reply × State := (⟨o.1.status, o.1.cause, o.1.index, []⟩, o.2)

/-- UPDATE_OPEN with its fields' ranges (R494). -/
def updateOpenReply (c : MsgCtx) (x : Session) (b : Bytes) (s : State) : Reply × State :=
  let size := ofLe (slice b 0xC 4)
  if 1 < ofLe (slice b 0 1) ∨ size < 4 ∨ 2097152 < size then (.malformed, s) else updReply (updOpen c.src x.digest b s)

/-! ### One message (R463 to R468) -/

/-- What a served message does once the checks of R465 have passed; no reply where the request is not for this unit. -/
def serve (c : MsgCtx) (x : Session) (type : Nat) (b : Bytes) (s : State) : Option Reply × State :=
  let only (r : Reply) : Option Reply × State := (some r, s)
  let with_ (p : Reply × State) : Option Reply × State := (some p.1, p.2)
  match type with
  | 0x10 => only (sealReadReply (c.tick s) b s)
  | 0x11 => only (recordReadReply (c.tick s) b s)
  | 0x12 => only (payloadReadReply (c.tick s) b s)
  | 0x13 => only (proofReadReply (c.tick s) b s)
  | 0x14 => only (endpointGetReply b s)
  | 0x15 => only (setListReply s)
  | 0x18 => with_ (lensObserve c b s)
  | 0x19 => with_ (lensRecorder c x b s)
  | 0x1A => with_ (lensClear c x s)
  | 0x20 => with_ (subscribe c x b s)
  | 0x21 => with_ (unsubscribe c x s)
  | 0x28 => with_ (directWrite b s)
  | 0x30 => with_ (stageOpen c s)
  | 0x31 => with_ (stageAdd c b s)
  | 0x32 => with_ (stageCheck c b s)
  | 0x33 => with_ (stageCommit c b s)
  | 0x34 => with_ (stageDiscard c b s)
  | 0x35 => with_ (setAbort c b s)
  | 0x38 => lifecycleRequest c b s
  | 0x39 => with_ (swapRequest c b s)
  | 0x40 => with_ (updateOpenReply c x b s)
  | 0x41 => with_ (updReply (updData c.src x.digest b s))
  | 0x42 => with_ (updReply (updVerify c.src x.digest s))
  | 0x43 => with_ (updReply (updActivate c.src x.digest b s))
  | 0x44 => with_ (updReply (updAbort c.src s))
  | _ => only .malformed

/-- A store query beyond 64 in all or 8 of one session (R467). -/
def queriesFull (s : State) (session : Nat) : Bool :=
  decide (64 ≤ s.bey.queries.length) || decide (8 ≤ (s.bey.queries.filter fun q => q.session == session).length)

/-- The checks of R465, then the message itself: the reply, whether it is a store query's that leaves later, and the state.
(DEDUCED, log 85) -/
def checkedServe (c : MsgCtx) (x : Session) (type : Nat) (b : Bytes) (s : State) : Option Reply × Bool × State :=
  match typeRight type with
  | none => (some .malformed, false, s)
  | some right =>
    if !layoutOk type b then (some .malformed, false, s)
    else if !testBit (rightsOf s x.digest) right then
      (some .denied, false, s)
    else if c.own ∧ !isQuery type then (some .busy, false, s)
    else if isStoreQuery type ∧ c.sends s ∧ queriesFull s c.session then (some .busy, false, s)
    else
      let p := serve c x type b s
      (p.1, isStoreQuery type && c.sends s, p.2)

/-- A reply is counted, held for repeats, and sent, or waits as a store query's (R467, R468, R488). (DEDUCED, log 85) -/
def respond (c : MsgCtx) (type : Nat) (later cached : Bool) (r : Reply) (s : State) : State :=
  let m := r.message type c.rid (c.tick s)
  let s := countStatus r.status s
  let s := match c.find s with
    | some x => if cached then c.put { x with replies := ((c.rid, m) :: x.replies).take 16 } s else s
    | none => s
  if later then { s with bey.queries := s.bey.queries ++ [⟨c.session, s.work.log.tick, m⟩] } else c.send m s

/-- One message of a session (R463, R465, R468). (DEDUCED, log 85) -/
def takeMessage (c : MsgCtx) (version : Byte) (type : Nat) (b : Bytes) (s : State) : State :=
  match c.find s with
  | none => s
  | some x =>
    if x.ended.isSome then s
    else
      let s := { s with bey.messages := s.bey.messages.inc }
      if version ≠ 1 then respond c type false false .malformed s
      else
        match if isCached type then x.replies.find? (·.1 == c.rid) else none with
        | some held => c.send held.2 { s with bey.dupRequests := s.bey.dupRequests.inc }
        | none =>
          match checkedServe c x type b s with
          | (none, _, s) => s
          | (some r, later, s) =>
            respond c type later (isCached type) r (if r.status = 4 ∧ !c.own then raise c.src 0xA004 [c.session, type] s else s)

/-! ### Sessions as the log gives them (R457, R458, R461) -/

/-- A session of the log ends: its staging sessions are discarded, its queries and caches go (R457, R467, R468, R479, R480). -/
def dropSession (src : Src) (n : Nat) (s : State) : State :=
  let s := (s.bey.staging.filter fun g => g.2.session == n).foldl (fun s g => discardStaging src 1 g s) s
  { s with bey.sessions := tdel s.bey.sessions n, bey.queries := s.bey.queries.filter fun q => q.session != n }

/-- An open entry (R458, R489). (DEDUCED, log 87) -/
def takeOpen (src : Src) (n : Nat) (b : Bytes) (s : State) : State :=
  let digest := slice b 20 32
  let s := if (tget s.bey.sessions n).isSome then dropSession src n s else s
  let x : Session :=
    { addr := addrOf (b.take 16), udpPort := BitVec.ofNat 16 (ofLe (slice b 16 2)), ethPort := BitVec.ofNat 2 (ofLe (slice b 18 1)),
      digest := digest, cursor := 0, replies := [], sub := none, ended := none }
  let id := ((accessOf (asSealed s) digest).1.map (·.1)).getD 0xFF
  raise src 0xA001 [n, x.ethPort.toNat, id, digestLow digest] { s with bey.sessions := tput s.bey.sessions n x }

/-- A close entry (R457, R458, R489). (DEDUCED, log 87) (DEDUCED, log 88) -/
def takeClose (src : Src) (n : Nat) (b : Bytes) (s : State) : State :=
  if (tget s.bey.sessions n).isNone then s
  else dropSession src n (raise src 0xA002 [n, ofLe (b.take 1)] s)

/-- A Beysyn entry of the log, at its position (R458, R463); in last gasp no message is executed (R48). A message that is
short or has a bad MAGIC is counted and dropped. (DEDUCED, log 87) -/
def takeEntry (pos : Nat) (e : LogEntry) (s : State) : State :=
  let s := { s with work.handled := (0, pos) :: s.work.handled }
  let src := Src.c0 ⟨0, pos⟩
  let n := ofLe (e.body.take 1)
  let b := slice e.body 4 (ofLe (slice e.body 2 2))
  match ofLe (slice e.body 1 1) with
  | 0 =>
    if s.work.lastGasp then s
    else if b.length < 16 ∨ b.head? ≠ some 0xB5 then
      (match tget s.bey.sessions n with
       | some x => if x.ended.isSome then s else { s with bey.messages := s.bey.messages.inc }
       | none => s)
    else takeMessage ⟨src, n, false, BitVec.ofNat 32 (ofLe (slice b 4 4))⟩ (BitVec.ofNat 8 (ofLe (slice b 1 1))) (ofLe (slice b 2 2))
      (b.drop 16) s
  | 1 => takeOpen src n b s
  | 2 => takeClose src n b s
  | _ => s

/-- The Beysyn entries of the log under processing at positions below `stop` that nothing has handled, in log order. -/
def beysynUpTo (stop : Nat) (s : State) : State :=
  ((s.work.log.entries.zipIdx).filter fun p => p.1.kind == 2 && decide (p.2 < stop)).foldl
    (fun s p => if s.work.handled.contains (0, p.2) then s else takeEntry p.2 p.1 s) s

/-- A session whose record grants nothing any more is ended with cause 2 at the end of the processing (R461).
(DEDUCED, log 88) -/
def withdrawAccess (s : State) : State :=
  s.bey.sessions.foldl (fun s p =>
    if p.2.ended.isSome ∨ rightsOf s p.2.digest ≠ 0 then s
    else
      let s := { s with bey.sessions := tput s.bey.sessions p.1 { p.2 with ended := some s.work.log.tick } }
      if (tget s.bey.dtls p.1).isNone then s
      else
        let s := { s with bey.dtls := tdel s.bey.dtls p.1 }
        if capturing s then appendInput ⟨0, 2, s.time.ns, [BitVec.ofNat 8 p.1, 2] ++ le 2 4 ++ [2, 0, 0, 0], none⟩ s else s) s

/-! ### The messages as commands -/

/-- A message of the given type: on a unit that captures, an entry of the log under processing, after every Beysyn entry
before it (R46, R458); on a mirror, a message of its standby log, answered as of its latest closed seal (R437).
(DEDUCED, log 91) -/
def beysynMessage (type : Nat) (m : Msg) (s : State) : State :=
  if !running s then s
  else if s.twin.role = .mirror then
    takeMessage ⟨Src.c0 m.org, m.session, true, m.requestId⟩ m.version type m.body s
  else if !s.work.isOpen then s
  else
    let s := beysynUpTo m.org.pos s
    if s.work.handled.contains (0, m.org.pos) then s
    else
      let s := { s with work.handled := (0, m.org.pos) :: s.work.handled }
      if s.work.lastGasp then s
      else takeMessage ⟨Src.c0 m.org, m.session, false, m.requestId⟩ m.version type m.body s

/-- SEAL_READ (R469). -/
def execSealRead (m : Msg) (s : State) : Answer := done s (beysynMessage 0x10 m s)
/-- RECORD_READ (R470). -/
def execRecordRead (m : Msg) (s : State) : Answer := done s (beysynMessage 0x11 m s)
/-- PAYLOAD_READ (R471). -/
def execPayloadRead (m : Msg) (s : State) : Answer := done s (beysynMessage 0x12 m s)
/-- PROOF_READ (R472). -/
def execProofRead (m : Msg) (s : State) : Answer := done s (beysynMessage 0x13 m s)
/-- ENDPOINT_GET (R473). -/
def execEndpointGet (m : Msg) (s : State) : Answer := done s (beysynMessage 0x14 m s)
/-- SET_LIST (R474). -/
def execSetList (m : Msg) (s : State) : Answer := done s (beysynMessage 0x15 m s)
/-- LENS_OBSERVE (R475). -/
def execLensObserve (m : Msg) (s : State) : Answer := done s (beysynMessage 0x18 m s)
/-- LENS_RECORDER (R476, R526 to R529). -/
def execLensRecorder (m : Msg) (s : State) : Answer := done s (beysynMessage 0x19 m s)
/-- LENS_CLEAR (R477, R530). -/
def execLensClear (m : Msg) (s : State) : Answer := done s (beysynMessage 0x1A m s)
/-- SUBSCRIBE (R479). -/
def execSubscribe (m : Msg) (s : State) : Answer := done s (beysynMessage 0x20 m s)
/-- UNSUBSCRIBE (R479). -/
def execUnsubscribe (m : Msg) (s : State) : Answer := done s (beysynMessage 0x21 m s)
/-- WRITE (R478). -/
def execWrite (m : Msg) (s : State) : Answer := done s (beysynMessage 0x28 m s)
/-- STAGE_OPEN (R480). -/
def execStageOpen (m : Msg) (s : State) : Answer := done s (beysynMessage 0x30 m s)
/-- STAGE_ADD (R481). -/
def execStageAdd (m : Msg) (s : State) : Answer := done s (beysynMessage 0x31 m s)
/-- STAGE_CHECK (R482). -/
def execStageCheck (m : Msg) (s : State) : Answer := done s (beysynMessage 0x32 m s)
/-- STAGE_COMMIT (R43, R482). -/
def execStageCommit (m : Msg) (s : State) : Answer := done s (beysynMessage 0x33 m s)
/-- STAGE_DISCARD (R480). -/
def execStageDiscard (m : Msg) (s : State) : Answer := done s (beysynMessage 0x34 m s)
/-- SET_ABORT (R43, R482). -/
def execSetAbort (m : Msg) (s : State) : Answer := done s (beysynMessage 0x35 m s)
/-- LIFECYCLE (R399, R484). -/
def execLifecycle (m : Msg) (s : State) : Answer := done s (beysynMessage 0x38 m s)
/-- SWAP_REQUEST (R444, R485). -/
def execSwapRequest (m : Msg) (s : State) : Answer := done s (beysynMessage 0x39 m s)
/-- UPDATE_OPEN (R494, R495). -/
def execUpdateOpen (m : Msg) (s : State) : Answer := done s (beysynMessage 0x40 m s)
/-- UPDATE_DATA (R494 to R496). -/
def execUpdateData (m : Msg) (s : State) : Answer := done s (beysynMessage 0x41 m s)
/-- UPDATE_VERIFY (R495, R497, R498). -/
def execUpdateVerify (m : Msg) (s : State) : Answer := done s (beysynMessage 0x42 m s)
/-- UPDATE_ACTIVATE (R495). -/
def execUpdateActivate (m : Msg) (s : State) : Answer := done s (beysynMessage 0x43 m s)
/-- UPDATE_ABORT (R495). -/
def execUpdateAbort (m : Msg) (s : State) : Answer := done s (beysynMessage 0x44 m s)

/-! ### What leaves later (R467, R479) -/

/-- SEAL_NOTICE: the next durable seal that the subscription selects goes out; a mirror sends none (R40, R479). -/
def execSealNotice (session : Nat) (s : State) : Answer :=
  whenRunning s fun s =>
    match tget s.bey.sessions session with
    | none => s
    | some x =>
      match x.sub with
      | none => s
      | some sub =>
        match (sealsUpTo s s.store.durable).find? fun y =>
            decide (sub.next.toNat ≤ y.body.tick.toNat) && (!sub.signedOnly || y.body.sig.isSome) with
        | none => s
        | some y =>
          if s.twin.role = .mirror then s
          else
            let c : MsgCtx := ⟨Src.sweep 0, session, false, sub.requestId⟩
            c.send (messageBytes 0x22 sub.requestId (some y.body.tick) 0 y.body.wide)
              (c.put { x with sub := some { sub with next := y.body.tick + 1 } } s)

/-- STORE_QUERY_REPLY: the oldest outstanding store query of a session is answered (R467). -/
def execStoreQueryReply (session : Nat) (s : State) : Answer :=
  whenRunning s fun s =>
    match s.bey.queries.find? fun q => q.session == session with
    | none => s
    | some q =>
      (⟨Src.sweep 0, session, s.twin.role == .mirror, 0⟩ : MsgCtx).send q.reply { s with bey.queries := s.bey.queries.erase q }

/-! ### The DTLS engine (R454 to R458, R462) -/

/-- An Ethernet port that is on and up (R73). (DESIGN CHOICE, log 93) -/
def portOn (s : State) (port : Nat) : Bool :=
  hwCfg s 0x0002 port 0 1 1 != 0 && s.sys.ethUp.getD port false

/-- The unit's own DTLS key: the lowest usable slot with DTLS_IDENTITY, else the generated pair (R456). (DEDUCED, log 75) -/
def dtlsKey (s : State) : Option Nat :=
  ((usableSlots (asSealed s) 1).findSome? fun k => privateKey (asSealed s) 1 k).orElse fun _ => s.bey.ephemeral.map Config.freeKey

/-- DTLS_CLIENT_HELLO: a first one is answered with a HelloRetryRequest; one with its cookie starts a handshake, of which at
most 8 run (R455, R457). (DESIGN CHOICE, log 110) -/
def execDtlsClientHello (ethPort : BitVec 2) (addr : BitVec 128) (udpPort : BitVec 16) (cookie : Bool) (s : State) : Answer :=
  whenRunning s fun s =>
    if !portOn s ethPort.toNat then s
    else if !cookie then ethernetOut ethPort.toNat (.dtls addr udpPort 0) s
    else if 8 ≤ s.bey.handshakes then s
    else { s with bey.handshakes := s.bey.handshakes + 1 }

/-- A handshake is refused (R457, R460, R489). -/
def refuseHandshake (c : ClientIn) (cause : Nat) (s : State) : State :=
  raiseU 0xA003 [c.ethPort.toNat, c.addr.toNat % 2 ^ 32, cause] { s with bey.refused := s.bey.refused.inc }

/-- Sessions of the engine that hold a record. -/
def sessionsOf (s : State) (id : Nat) : Nat :=
  (s.bey.dtls.filter fun p => ((accessOf (asSealed s) p.2.digest).1.map (·.1)) == some id).length

/-- The body of an open entry (R458). -/
def openBody (n : Nat) (c : ClientIn) : Bytes :=
  [BitVec.ofNat 8 n, 1] ++ le 2 52 ++ be 16 c.addr.toNat ++ le 2 c.udpPort.toNat ++ le 1 c.ethPort.toNat ++ zeros 1 ++ sha256 c.key

/-- A session of a client at an address. -/
def Session.fresh (c : ClientIn) : Session :=
  { addr := c.addr, udpPort := c.udpPort, ethPort := c.ethPort, digest := sha256 c.key, cursor := 0, replies := [], sub := none,
    ended := none }

/-- The record of a key has as many sessions as it allows (R460). -/
def atLimit (record : Option (Nat × Bytes)) (s : State) : Bool :=
  match record with
  | some r => decide (ofLe (slice r.2 6 1) ≤ sessionsOf s r.1)
  | none => false

/-- A client of a head-end port is accepted or refused by its record and rights (R457, R458, R460). -/
def admitClient (c : ClientIn) (arrival : BitVec 32) (record : Option (Nat × Bytes)) (rights : Nat) (s : State) : State :=
  if rights = 0 then refuseHandshake c 0 s
  else if 64 ≤ s.bey.dtls.length ∨ atLimit record s then refuseHandshake c 1 s
  else
    let n := lowestGap (s.bey.dtls.map (·.1)) 0
    let u : State := { s with bey.dtls := tput s.bey.dtls n ⟨c.addr, c.udpPort, c.ethPort, sha256 c.key, 0, true⟩ }
    if s.twin.role = .mirror then { u with bey.own := tput s.bey.own n (Session.fresh c) }
    else if capturing s then appendInput ⟨0, 2, arrival, openBody n c, none⟩ u
    else u

/-- A handshake has ended: on a head-end port the access rules as of the latest seal decide (R454, R457, R458, R460); on a child
port, the TRIBUTARY right (R274, R614). -/
def completeHandshake (c : ClientIn) (arrival : BitVec 32) (s : State) : State :=
  let digest := sha256 c.key
  let port := c.ethPort.toNat
  if !c.proof ∨ !portOn s port ∨ (dtlsKey s).isNone then refuseHandshake c 2 s
  else if ethRole s.hw.records port ≠ 0 then
    if testBit (hwCfg s 0x0003 0 0x11 1 1) 1 ∧ keyGrants s 8 digest then
      { s with bey.tribClients := (s.bey.tribClients.filter fun x => x.addr != c.addr) ++ [⟨c.addr, c.ethPort, digest⟩] }
    else s
  else
    let a := accessOf (asSealed s) digest
    admitClient c arrival a.1 a.2 s

/-- DTLS_HANDSHAKE_COMPLETE: one handshake fewer is in progress (R454, R457, R458, R460, R274, R614). (DEDUCED, log 91)
(DESIGN CHOICE, log 110) -/
def execDtlsHandshakeComplete (c : ClientIn) (arrival : BitVec 32) (s : State) : Answer :=
  whenRunning s fun s =>
    if s.bey.handshakes = 0 then s
    else completeHandshake c arrival { s with bey.handshakes := s.bey.handshakes - 1 }

/-- A session of the engine ends, and a close entry says why (R457, R458). -/
def endSession (n cause : Nat) (arrival : BitVec 32) (s : State) : State :=
  if (tget s.bey.dtls n).isNone then s
  else
    let s := { s with bey.dtls := tdel s.bey.dtls n }
    if s.twin.role = .mirror then
      { s with bey.own := tdel s.bey.own n, bey.queries := s.bey.queries.filter fun q => q.session != n }
    else if capturing s then
      appendInput ⟨0, 2, arrival, [BitVec.ofNat 8 n, 2] ++ le 2 4 ++ [BitVec.ofNat 8 cause, 0, 0, 0], none⟩ s
    else s

/-- DTLS_CLOSE_NOTIFY (R457). -/
def execDtlsCloseNotify (session : Nat) (arrival : BitVec 32) (s : State) : Answer :=
  whenRunning s (endSession session 0 arrival)

/-- SESSION_IDLE_TIMEOUT: 600 s without a record in either direction (R457). -/
def execSessionIdleTimeout (session : Nat) (arrival : BitVec 32) (s : State) : Answer :=
  whenRunning s (endSession session 1 arrival)

/-- DTLS_KEY_UPDATE: accepted and answered (R455). (DEDUCED, log 69) (DESIGN CHOICE, log 110) -/
def execDtlsKeyUpdate (session : Nat) (s : State) : Answer :=
  whenRunning s fun s =>
    match tget s.bey.dtls session with
    | none => s
    | some d =>
      if !d.keyed then s
      else ethernetOut d.ethPort.toNat (.dtls d.addr d.udpPort 1)
        { s with bey.dtls := tput s.bey.dtls session { d with generation := d.generation + 1 } }

/-- A server is configured for the role (R73, R279, R439). -/
def serverNamed (s : State) : ServerRole → Bool
  | .parent => hwCfg s 0x0003 0 0x18 16 0 != 0
  | .witness => hwCfg s 0x0901 0 8 16 0 != 0 && hwCfg s 0x0901 0 0 1 0 == 1

/-- DTLS_CLIENT_RETRY: a connection to the Tributary parent or the witness presents a server key; it is accepted where rule 1 of
R460 finds a record with the right, and is retried 10 s later otherwise (R462). -/
def execDtlsClientRetry (role : ServerRole) (key : List Byte) (s : State) : Answer :=
  done s (
    if !(s.sys.mode == .running || s.sys.mode == .waiting) || !serverNamed s role then s
    else
      match role with
      | .parent =>
        let ok := keyGrants s 9 (sha256 key)
        { s with bey.parentUp := ok, bey.retryParent := !ok }
      | .witness =>
        let ok := keyGrants s 10 (sha256 key)
        { s with bey.witnessUp := ok, bey.retryWitness := !ok })

/-! ### IPv6: reassembly and neighbour discovery (R437, R454) -/

/-- The parts of a reassembly joined, where they follow one another up to its length. (DESIGN CHOICE, log 93) -/
def joinParts : Nat → List (Nat × Bytes) → Option Bytes
  | _, [] => some []
  | at_, (o, p) :: rest => if o = at_ then (joinParts (at_ + p.length) rest).map fun b => p ++ b else none

/-- An IPv6 datagram with a Fragment header right behind its own. -/
def isFragment (d : Bytes) : Bool := (slice d 6 1 == [44]) && decide (48 ≤ d.length)

/-- A fragment arrives: the datagram that it completes, if any, and what stays in reassembly. At most 32 are held, and none
above 16,500 bytes of UDP payload with its 8-byte header (R454). (DESIGN CHOICE, log 93) -/
def takeIpFragment (d : Bytes) (l : List Reassembly) : Option Bytes × List Reassembly :=
  let key := slice d 8 32 ++ slice d 44 4
  let word := ofBe (slice d 42 2)
  let off := word / 8 * 8
  let data := d.drop 48
  let old := l.find? fun r => r.key == key
  let r := old.getD ⟨key, d.take 40, d.getD 40 0, [], none⟩
  let joined : List (Nat × Bytes) := (r.parts.filter fun p => p.1 != off) ++ [(off, data)]
  let r := { r with parts := sortBy (fun (a b : Nat × Bytes) => decide (a.1 ≤ b.1)) joined
                    total := if word % 2 = 0 then some (off + data.length) else r.total }
  let rest := l.filter fun r => r.key != key
  if 16508 < off + data.length then (none, rest)
  else
    match r.total, joinParts 0 r.parts with
    | some n, some b =>
      if b.length = n then (some (r.head.take 4 ++ be 2 n ++ [r.next] ++ r.head.drop 7 ++ b), rest)
      else (none, if old.isNone ∧ 32 ≤ l.length then l else rest ++ [r])
    | _, _ => (none, if old.isNone ∧ 32 ≤ l.length then l else rest ++ [r])

/-- IPV6_REASSEMBLY_TIMEOUT: the oldest incomplete reassembly is dropped after 2 s (R454). -/
def execIpv6ReassemblyTimeout (s : State) : Answer :=
  whenRunning s fun s => { s with bey.reassembly := s.bey.reassembly.drop 1 }

/-- The modified EUI-64 interface identifier (R437, RFC 4291). -/
def interfaceId (s : State) : Nat := (ownEui s ^^^ 0x0200000000000000#64).toNat

/-- The addresses the unit answers for: its link-local address; IPV6_ADDR on a unit that is single or primary; on a mirror an
address of IPV6_ADDR's prefix and its own identifier (R437). -/
def ownAddresses (s : State) : List Nat :=
  let a := ofBe (cfgBytes s.hw.records 0x0003 0 0 16)
  let len := min 128 (hwCfg s 0x0003 0 0x10 1 64)
  let formed := a / 2 ^ (128 - len) * 2 ^ (128 - len) + interfaceId s % 2 ^ (128 - len)
  let global := if a = 0 then [] else
    match s.twin.role with
    | .single | .primary => [a]
    | .mirror => [formed]
  (0xFE80 * 2 ^ 112 + interfaceId s) :: global

/-- A neighbour advertisement for an address, with the override flag or without (RFC 4861). -/
def advertise (port addr : Nat) (override_ : Bool) (s : State) : State :=
  ethernetOut port (.ethernet port 0x88 (le 1 (bit override_) ++ be 16 addr)) s

/-- NEIGHBOUR_SOLICITATION (R437). -/
def execNeighbourSolicitation (ethPort : BitVec 2) (target : BitVec 128) (s : State) : Answer :=
  whenRunning s fun s =>
    if portOn s ethPort.toNat ∧ target.toNat ∈ ownAddresses s then advertise ethPort.toNat target.toNat false s else s

end Sys2Proof.Machine
end

