-- ==== Sys2Proof/Machine/Process.lean ====
section
/-!
DEFINITION. The processing of a log as a whole: its opening on the frozen log, what no command of its own performs, the
seal that it builds, and the close of that seal (R28 to R39, R52).
-/
namespace Sys2Proof.Machine

open Sys2Proof

/-! ### The opening (stage 1) -/

/-- Work on a frozen log, nothing done yet. -/
def Work.on (l : InputLog) : Work := { Work.init with isOpen := true, log := l, lastGasp := l.lastGasp }

/-- C0's work for the tick-start entry. -/
def tickStartSrc : Src := Src.c0 ⟨0, 0⟩

/-- The engine that raises an event that hardware noted with its tick: the bearer's frame engine, or C0 (R243). -/
def noteSrc (code : BitVec 16) (ps : List (BitVec 32)) : Src :=
  let p := ((ps.head?).map (·.toNat)).getD 0
  match code.toNat / 4096 with
  | 1 => Src.frame ⟨p, 0⟩
  | 2 => Src.frame ⟨4, 0⟩
  | _ => tickStartSrc

/-- Lock changes that a shipped log shows by its lock states: the measured frequency and the cause are not in a log, and
are free values (R15, R53, R438). (DEDUCED, log 14) -/
def lockEvents (s : State) : State :=
  let l := s.work.log
  if s.twin.role ≠ .mirror then s
  else if l.startLock ≠ .locked ∧ l.curLock = .locked then
    let (w, s) := drawWord s
    raise tickStartSrc 0x0010 [w.toNat] s
  else if l.startLock = .locked ∧ l.curLock ≠ .locked then
    let (w, s) := drawWord s
    raise tickStartSrc 0x0011 [w.toNat % 2] s
  else s

/-- The latest closed seal, as the parameter of the events below. -/
def sealedBefore (s : State) : Nat := ((s.sys.prevSeal.map (·.1.toNat)).getD 0) % 2 ^ 32

/-- The log's own tick, as the parameter of the events below. -/
def logBefore (s : State) : Nat := s.work.log.tick.toNat % 2 ^ 32

/-- The first log after an activation or a restart (R53, R513). -/
def restartEvents (s : State) : State :=
  match s.upd.activated with
  | some (a, x) =>
    raise tickStartSrc 0xB005 [a.toNat % 2 ^ 32, x.toNat % 2 ^ 32, ofLe (s.upd.fw.fwDigest.take 4)] { s with upd.activated := none }
  | none => if s.sys.recovery then raise tickStartSrc 0x0030 [sealedBefore s, logBefore s] s else s

/-- A last-gasp log (R53). -/
def gaspEvents (s : State) : State := if s.work.lastGasp then raise tickStartSrc 0x0031 [logBefore s] s else s

/-- The first log of a term (R53). -/
def termEvents (s : State) : State :=
  if s.sys.takeover then raise tickStartSrc 0x0032 [sealedBefore s, logBefore s] s else s

/-- What hardware noted with the tick. (DEDUCED, log 14) -/
def notedEvents (s : State) : State :=
  s.work.log.events.foldl (fun s e => raise (noteSrc e.1 e.2) e.1.toNat (e.2.map (·.toNat)) s) s

/-- A change of the SYNCED bit between two logs (R388). -/
def syncEvents (s : State) : State :=
  let w := s.work.log.sync
  let s := if s.time.anyLog && synced w != s.time.lastSync then
      raise tickStartSrc 0x7010 [bit (synced w), field w.toNat 0 3, field w.toNat 8 8] s
    else s
  { s with time.lastSync := synced w, time.anyLog := true }

/-- The events that the tick-start entry and the chain's place give (R53, R388, R513). (DEDUCED, log 67) -/
def openingEvents (s : State) : State :=
  syncEvents (lockEvents (notedEvents (termEvents (gaspEvents (restartEvents s)))))

/-- Processing of a log begins: a changed image, the life-cycle record and the slots that a start ends come ahead of
stage 1 (R28, R77, R405, R612). (DEDUCED, log 7) (DEDUCED, log 67) -/
def openWork (l : InputLog) (s : State) : State :=
  let s : State := { s with work := Work.on l, tstat.floods := 0,
                            sys.answer := if s.sys.genesis then none else s.sys.prevSeal.map (·.1) }
  let s := openingEvents s
  let s := lcCatchUp s
  if s.keys.starting then pairEvents Src.image true (applyImage (expireSlots s)) else s

/-! ### Frames and descriptors that no command handled (stages 3 and 4) -/

/-- Frames of the log that their own commands have not taken: resolved, authenticated and learned in the order of R46.
(DEDUCED, log 36) -/
def leftFrames (s : State) : State :=
  let es := s.work.log.entries.zipIdx.filterMap fun x => x.1.frame.map fun (u : Upstream) =>
    ({ u with org := ⟨x.1.port.toNat, x.2⟩ } : Upstream)
  let sorted := sortBy (fun (a b : Upstream) => (Src.onInput (euiEngine s a.eui) a.org).le (Src.onInput (euiEngine s b.eui) b.org)) es
  sorted.foldl (fun s u => (ingestFrame u none s).2) s

/-- Offset of an ARRIVAL stamp from the start of the log's tick, in ns; negative before it. (DEDUCED, log 36) -/
def arrivalOffset (l : InputLog) (a : Nat) : Int := (BitVec.ofNat 32 a - l.start.ns).toInt

/-- A descriptor with STEP holds its link's loads, raises PLC_IMPEDANCE_STEP and has a sounding exchange begin
(R114, R157). The stripe is that of STEP_SYMBOL under stripes of the nominal length. -/
def stepDescriptor (pos : Nat) (e : LogEntry) (s : State) : State :=
  let b := e.body
  let n (o l : Nat) : Nat := ofLe (slice b o l)
  if !(e.kind == 1 && decide (1 ≤ e.port.toNat) && decide (e.port.toNat ≤ 3) && decide (32 ≤ b.length) && n 0 1 == 0
      && testBit (n 1 1) 1) then s
  else
    let link := n 4 2 % 4096
    let off := arrivalOffset s.work.log (n 0xC 4)
    let at_ := off + 106666 + 1920000 + 480000 * n 0x12 1
    let stripe := (at_ % (nominalTickNs s : Int)).toNat * 8 / nominalTickNs s
    let tick := (s.work.log.tick.toNat - bit (decide (off < 0))) % 2 ^ 32
    let o : Org := ⟨e.port.toNat, pos⟩
    let src := if ((linkEntry s link).plc?).isSome then Src.slot (linkEntry s link).peer.slot.toNat o else Src.frame o
    let s := raise src 0x1001 [e.port.toNat, link, stripe, tick] s
    beginSounding src link (modPlc src link (fun p => { p with stepHold := true }) s)

/-- Every descriptor of the log with STEP. (DEDUCED, log 36) -/
def stepDescriptors (s : State) : State :=
  s.work.log.entries.zipIdx.foldl (fun s x => stepDescriptor x.2 x.1 s) s

/-- Fault reports of the log: FAULT_INJECTED where a count is nonzero (R582, R589). -/
def faultReports (s : State) : State :=
  s.work.log.entries.zipIdx.foldl (fun s x =>
    if x.1.kind ≠ 6 then s
    else
      let rows := (List.range 11).map fun i =>
        (ofLe (slice x.1.body (8 + 12 * i) 1), (List.range 5).map fun j => ofLe (slice x.1.body (10 + 12 * i + 2 * j) 2))
      let sum (js : List Nat) : Nat := (rows.map fun r => js.foldl (fun a j => a + r.2.getD j 0) 0).foldl (· + ·) 0
      let mask := rows.foldl (fun m r => m + bit (r.2.any (· != 0)) * 2 ^ r.1) 0
      if mask = 0 then s
      else raise (Src.c0 ⟨0, x.2⟩) 0xF001 [mask, sat 32 (sum [0, 3]), sat 32 (sum [1, 4]), sat 32 (sum [2])] s) s

/-! ### Twin entries and the periodic swap (R438, R444, R447, R451) -/

/-- A STATUS or REJOIN frame of the log (R438, R447). The mirror's seal hash is in no frame: it is a free value. -/
def holhamEntry (pos : Nat) (e : LogEntry) (s : State) : State :=
  let src := Src.c0 ⟨5, pos⟩
  let n (o l : Nat) : Nat := ofLe (slice e.body o l)
  if e.kind ≠ 7 then s
  else if n 0 1 = 5 then
    let m : MirrorStatus :=
      { standby := n 16 1, isMatch := testBit (n 17 1) 0, fillDone := testBit (n 17 1) 1, procVersion := BitVec.ofNat 16 (n 18 2),
        lastSeal := BitVec.ofNat 48 (n 20 6), logTick := s.work.log.tick }
    let s : State := { s with twin.mirror := some m }
    if m.isMatch then s
    else
      let (w, s) := drawWord s
      let own := ((sealAt s m.lastSeal.toNat).map fun x => ofLe (x.hash.take 4)).getD 0
      { raise src 0x9007 [m.lastSeal.toNat % 2 ^ 32, w.toNat, own] s with bey.alert := s.bey.alert ||| 0x80 }
  else if n 0 1 = 6 then
    let t := s.work.log.tick + 2
    raise src 0x9008 [t.toNat % 2 ^ 32]
      { s with twin.rejoinSeal := some t, twin.peerDurable := BitVec.ofNat 48 (n 16 6), twin.xferOut := [], twin.xferEnd := [],
               twin.fillNext := none, twin.xferSwap := false }
  else s

/-- Every Holham frame of the log, the last STATUS standing (R451). -/
def holhamEntries (s : State) : State := s.work.log.entries.zipIdx.foldl (fun s x => holhamEntry x.2 x.1 s) s

/-- A multiple of SWAP_PERIOD since 2020 passed between the tick-start times of the two logs, with a mirror fit to take over,
schedules a swap 16 ticks ahead (R444). -/
def periodicSwap (s : State) : State :=
  let p := cfg s 0x0901 0 4 4 86400
  let t := s.work.log.tick
  if s.twin.role = .single ∨ p = 0 ∨ s.twin.swapAt.isSome ∨ s.work.lastGasp ∨ !mirrorSwappable s t.toNat then s
  else if prevStartUtc s.work.log / p < (logUtc s.work.log).toNat / p then
    raise (Src.sweep 0) 0x900A [(t.toNat + 16) % 2 ^ 32, 0] { s with twin.swapAt := some (t + 16), twin.swapTransfer := false }
  else s

/-! ### The seal (stages 8 to 11) -/

/-- An event joins the earlier record of its CODE and SOURCE, or makes a record of its own (R521). (DEDUCED, log 15) -/
def coalesceRaised (tick : BitVec 48) (acc : List EventRec) (r : Raised) : List EventRec :=
  let code := BitVec.ofNat 16 r.code
  let src := BitVec.ofNat 8 r.src.engine
  let same (e : EventRec) : Bool := e.code == code && e.source == src
  if acc.any same then
    acc.map fun e =>
      if same e then
        { e with flags := e.flags ||| 2, p3 := BitVec.ofNat 32 (sat 32 ((if e.flags.getLsbD 1 then e.p3.toNat else 1) + 1)) }
      else e
  else acc ++ [{ EventRec.unsealed code src tick 0 r.params with flags := 1 }]

/-- The event records of a processing, after coalescing, in the order of emission (R46, R521). (DEDUCED, log 15) -/
def ownEvents (s : State) : List EventRec :=
  (sortBy (fun (a b : Raised) => a.src.le b.src) s.work.events.reverse).foldl (coalesceRaised s.work.log.tick) []

/-- Event leaves take their place as SEQUENCE (R518). (DEDUCED, log 7) (DEDUCED, log 15) -/
def numberEvents (l : List EventRec) : List EventRec := l.zipIdx.map fun x => { x.1 with seq := BitVec.ofNat 16 x.2 }

/-- The bits of ALERT_LATCH that a processing and its seal set (R52). (DEDUCED, log 17) -/
def alertBits (s : State) (unsync keyAbsent : Bool) : Nat :=
  let has (c : Nat) : Bool := s.work.events.any (·.code == c)
  bit (has 0x0011) + 2 * bit (has 0x0022) + 4 * bit (has 0x0012) + 8 * bit unsync + 16 * bit keyAbsent
    + 32 * bit s.work.log.deferred + 64 * bit (has 0x4004) + 128 * bit (has 0x9007)

/-- Signing interval N (R37). -/
def signInterval (s : State) : Nat := cfg s 0x0001 0 2 2 120

/-- Stages 8 to 11: the Merkle root, the digest, the body, the hash and the signature. `n` is the signing interval in force
before stage 7 and `key` the ledger key after the staged set, under the life-cycle state of this processing (R30 to R38, R271,
R400). -/
def buildSeal (n : Nat) (key : Option (Nat × Nat)) (s : State) : State :=
  let l := s.work.log
  let need := decide (l.tick.toNat % n = 0) || s.sys.genesis || s.work.applied || s.sys.recovery || s.sys.takeover || s.work.lastGasp
  let key := if need then key else none
  let s := match key with | some (k, _) => useSlot Src.stagedSet k s | none => s
  let all := s.cap.excess ++ ownEvents s
  let evs := numberEvents (all.take 2048)
  let leaves := s.work.leaves
  let unsync := !synced l.sync
  let absent := need && key.isNone
  let flags := bit key.isSome + 2 * bit s.sys.genesis + 4 * bit s.work.applied + 8 * bit s.sys.recovery + 16 * bit s.sys.takeover
    + 32 * bit s.work.lastGasp + 64 * bit absent + 128 * bit unsync
  let x : Seal :=
    { tick := l.tick, flags := BitVec.ofNat 8 flags, lock := BitVec.ofNat 8 l.curLock.code, start := l.start,
      readLeaves := BitVec.ofNat 32 leaves.length, eventLeaves := BitVec.ofNat 32 evs.length,
      merkleRoot := merkleRoot (leaves.map Record.leaf ++ evs.map fun e => eventLeaf e.bytes),
      stateDigest := stateDigest s.work.changes,
      prevHash := if s.sys.genesis then zeros 32 else (s.sys.prevSeal.map (·.2)).getD (zeros 32),
      epoch := s.cov.sys.epoch, ledgerId := s.sys.image.ledgerId.getD 0, sig := none, hash := [] }
  let h := sha256 x.bytes
  let x := { x with hash := h, sig := key.map fun k => ecdsaSign k.2 h }
  { s with closing := some (x, leaves, evs), cap.excess := (all.drop 2048).map fun e => { e with flags := e.flags ||| 4 },
           bey.alert := s.bey.alert ||| BitVec.ofNat 8 (alertBits s unsync absent),
           recorder.coalesced := s.recorder.coalesced.add (s.work.events.length - (ownEvents s).length),
           work.isOpen := false, keys.starting := false }

/-- What no command of a log has taken by the end of its processing: frames, sweeps, captures, reports, metrology and requests, in
the order of R28. (DEDUCED, log 7) -/
def restOfLog (s : State) : State :=
  let s := stepDescriptors (leftFrames (beysynUpTo 16384 s))
  let s := fillMailboxes (armSleepers (closeSleepers (chargeFromLog s)))
  let s := childSweepOnce (sweepOnce (admitOffers s))
  let s := capturesOnce s
  let s := (List.range 4).foldl (fun s n => pinStuck n s) s
  let s := holhamEntries (faultReports s)
  let s := evaluateDue (meterOnce s)
  let s := if s.work.lastGasp then s else issueRequests s
  periodicSwap (lockLapse (campaignDeadline (activateAtPassed s)))

/-- Stage 7: the staged sets, what the keys and sessions lose by them, and the life cycle. With it, the signing interval in force
before it and the ledger key after the sets (R37, R44, R400). -/
def lastStage (s : State) : Nat × Option (Nat × Nat) × State :=
  let n := signInterval s
  let s := withdrawAccess (reportMissing (applySets s))
  (n, ledgerKey s, activationBoundary (lcBoundary s))

/-- The rest of a processing, in the order of R28, once the commands of its log have been taken. (DEDUCED, log 7) -/
def finishProcessing (us : Nat) (s : State) : State :=
  if !s.work.isOpen then s
  else
    let x := lastStage (restOfLog s)
    buildSeal x.1 x.2.1 { x.2.2 with sys.procMax := x.2.2.sys.procMax.sample us }

/-! ### The close of a seal (R39, R520, R530) -/

/-- A seal closes: the recorder clears where the log asked for it, takes the event leaves, the state as of the seal becomes the
view of queries, the store takes the seal, and the observation fields are sampled (R10, R39, R40, R52). (DEDUCED, log 92) -/
def closeSeal (s : State) : State :=
  match s.closing with
  | none => s
  | some (x, recs, evs) =>
    let prev := if s.sys.genesis then none else s.sys.prevSeal.map (·.1)
    let s : State := if s.bey.clear.isSome && s.twin.role != .mirror then clearRecorder s else s
    let s : State := { s with recorder.mark := s.recorder.writePos, bey.clear := none }
    let s : State := { s with recorder := s.recorder.offer s.cap.tick evs }
    let s : State := { s with closing := none, view := s.cov, snaps := (x.tick, s.cov) :: s.snaps, seals := x :: s.seals }
    let s : State := { s with sys.prevSeal := some (x.tick, x.hash), sys.genesis := false, sys.recovery := false }
    let s : State := { s with sys.takeover := false, sys.lastSigned := if x.signed then x.tick else s.sys.lastSigned }
    let s := storeSeal x recs (evs.map EventRec.bytes) (finalChanges s.work.changes) prev s
    sampleFields (foldCounters s)

end Sys2Proof.Machine
end

