-- ==== Sys2Proof/Machine/Transfer.lean ====
section
/-!
DEFINITION. The state transfer of a twin pair: the stream of state objects, its reading back, the values that travel beside
the objects, and the seal slots of a fill (R447 to R449).
-/
namespace Sys2Proof.Machine

open Sys2Proof

/-! ### Values carried beside the state objects (R52, R161, R193, R282, R314, R451, R487, R511) -/

/-- The values that state transfer carries in entries of kinds 0x80 to 0xFF, key values apart. -/
structure Carried where
  plcQueue      : List PlcTx
  plcLaunches   : List PlcLaunchEntry
  plcWaiting    : List (Nat × PlcTx)
  plcNextQid    : BitVec 16
  sounding      : Option (Nat × BitVec 48)
  lastMap       : List (Nat × Nat)
  lastFail      : List (Nat × Nat)
  radioQueue    : List RadioTx
  radioLaunches : List RadioLaunchEntry
  mailboxes     : List Mailbox
  sleepQueue    : List Mailbox
  radioNextQid  : BitVec 16
  dwell         : List Charge
  arms          : List ArmWindow
  searches      : List (Nat × Nat × Nat)
  plcQ          : List Reading
  radioQ        : List Reading
  serialQ       : List Reading
  tribQ         : List Reading
  parked1       : List Reading
  parked2       : List Reading
  fetches       : List Nat
  fetched       : List Nat
  cache         : List (Nat × List Nat)
  queuedSeq     : List (Nat × BitVec 32)
  trib          : TribChild
  reads         : List (Nat × BitVec 48)
  retained      : Option (BitVec 48 × MetroReport)
  retainedLocked : Bool
  restartPrev   : BitVec 32
  quantities    : List ChanQty
  conductors    : List CondQty
  sessions      : List (Nat × Session)
  staging       : List (Nat × Staging)
  alert         : BitVec 8
  mark          : BitVec 48
  mirror        : Option MirrorStatus
  swapAt        : Option (BitVec 48)
  swapTransfer  : Bool
  running       : List Byte
  deriving DecidableEq, Repr, Inhabited

end Sys2Proof.Machine

namespace Sys2Proof.Config

open Sys2Proof.Machine

/-- The carried entries of a sender, header and value each: their layouts are not documented (R448), a free value.
(DESIGN CHOICE, log 79) -/
opaque carriedEntries : Carried → List (Nat × Nat × Nat × List Byte)

/-- What a receiver reads from carried entries, by block, kind, index and value: their layouts are not documented (R448), a
free value. (DESIGN CHOICE, log 79) -/
opaque carriedOf : List (Nat × Nat × Nat × List Byte) → Carried

end Sys2Proof.Config

namespace Sys2Proof.Machine

open Sys2Proof

/-- The values a unit carries. -/
def State.carried (s : State) : Carried :=
  { plcQueue := s.plc.queue, plcLaunches := s.plc.launches, plcWaiting := s.plc.waiting, plcNextQid := s.plc.nextQid,
    sounding := s.plc.sounding, lastMap := s.plc.lastMap, lastFail := s.plc.lastFail, radioQueue := s.radio.queue,
    radioLaunches := s.radio.launches, mailboxes := s.radio.mailboxes, sleepQueue := s.radio.sleepQueue,
    radioNextQid := s.radio.nextQid, dwell := s.radio.ledger, arms := s.radio.arms, searches := s.radio.searches,
    plcQ := s.ingest.plcQ, radioQ := s.ingest.radioQ, serialQ := s.ingest.serialQ, tribQ := s.ingest.tribQ,
    parked1 := s.ingest.parked1, parked2 := s.ingest.parked2, fetches := s.ingest.fetches, fetched := s.ingest.fetched,
    cache := s.ingest.cache, queuedSeq := s.ingest.queuedSeq, trib := s.ingest.trib, reads := s.ingest.reads,
    retained := s.metro.retained, retainedLocked := s.metro.retainedLocked, restartPrev := s.metro.restartPrev,
    quantities := s.metro.quantities, conductors := s.metro.conductors, sessions := s.bey.sessions,
    staging := s.bey.staging, alert := s.bey.alert, mark := s.bey.mark, mirror := s.twin.mirror, swapAt := s.twin.swapAt,
    swapTransfer := s.twin.swapTransfer, running := s.upd.running }

/-- A table of pairs in any order. -/
def tabOf {α : Type} (l : List (Nat × α)) : Tab α := l.foldl (fun t p => tput t p.1 p.2) []

/-- The carried values take their places. -/
def State.carry (c : Carried) (s : State) : State :=
  { s with
    plc := { s.plc with queue := c.plcQueue, launches := c.plcLaunches, waiting := c.plcWaiting, nextQid := c.plcNextQid,
                        sounding := c.sounding, lastMap := c.lastMap, lastFail := c.lastFail },
    radio := { s.radio with queue := c.radioQueue, launches := c.radioLaunches, mailboxes := c.mailboxes,
                            sleepQueue := c.sleepQueue, nextQid := c.radioNextQid, ledger := c.dwell, arms := c.arms,
                            searches := c.searches },
    ingest := { s.ingest with plcQ := c.plcQ, radioQ := c.radioQ, serialQ := c.serialQ, tribQ := c.tribQ,
                              parked1 := c.parked1, parked2 := c.parked2, fetches := c.fetches, fetched := c.fetched,
                              cache := tabOf c.cache, queuedSeq := tabOf c.queuedSeq, trib := c.trib, reads := c.reads },
    metro := { s.metro with retained := c.retained, retainedLocked := c.retainedLocked, restartPrev := c.restartPrev,
                            quantities := c.quantities, conductors := c.conductors },
    bey := { s.bey with sessions := tabOf c.sessions, staging := tabOf c.staging, alert := c.alert, mark := c.mark },
    twin := { s.twin with mirror := c.mirror, swapAt := c.swapAt, swapTransfer := c.swapTransfer },
    upd := { s.upd with running := c.running } }

/-! ### The objects of the stream (R33, R448) -/

/-- An entry of the stream: block, kind, index and value. -/
abbrev Entry := Nat × Nat × Nat × Bytes

/-- The bytes of an entry (R33). -/
def entryOf (e : Entry) : Bytes := [BitVec.ofNat 8 e.1, BitVec.ofNat 8 e.2.1] ++ le 2 e.2.2.2.length ++ le 4 e.2.2.1 ++ e.2.2.2

/-- `a` stands at or before `b` by block, kind and index. -/
def Entry.before (a b : Entry) : Bool :=
  let k (e : Entry) : List Nat := [e.1, e.2.1, e.2.2.1 % 2 ^ 32]
  !decide (k b < k a)

/-- The objects of a table as entries of a block and kind. -/
def tabEntries {α : Type} (block kind : Nat) (f : α → Bytes) (t : Tab α) : List Entry :=
  t.map fun p => (block, kind, p.1, f p.2)

/-- The system block's objects (R35). -/
def systemEntries (c : CovSys) : List Entry :=
  (c.records.map fun p => (0, 1, p.1, le 2 (p.1 / 65536) ++ le 2 p.2.length ++ le 2 (p.1 % 65536) ++ le 2 0 ++ p.2))
    ++ tabEntries 0 2 PendingSet.bytes c.sets
    ++ c.sets.flatMap (fun p => p.2.items.zipIdx.map fun i => (0, 3, p.1 * 65536 + i.2, Item.bytes i.1))
    ++ [(0, 4, 0, epochBytes c)]

/-- The table block's objects (R238). -/
def tableEntries (t : Tables) : List Entry :=
  tabEntries 3 1 Endpoint.bytes t.endpoints ++ tabEntries 3 2 Identity.bytes t.ways ++ tabEntries 3 3 LinkEntry.bytes t.links
    ++ t.routes.map (fun r => (3, 4, routeIndex r.bits r.length false, r.bytes)) ++ tabEntries 3 5 Child.bytes t.children
    ++ tabEntries 3 6 Spill.bytes t.spills

/-- A child's ledger state (R282). -/
def ChildLedger.bytes (c : ChildLedger) : Bytes :=
  le 8 c.ledger.toNat ++ le 4 ((c.lastSeq.map (·.toNat)).getD 0xFFFFFFFF) ++ zeros 4

/-- The ingest block's objects (R282). -/
def ledgerEntries (l : Ledger) : List Entry :=
  tabEntries 4 1 Record.bytes l.histories ++ [(4, 2, 0, le 4 l.nextSeq.toNat ++ zeros 4)] ++ tabEntries 4 3 ChildLedger.bytes l.children

/-- The metrology block's objects (R314). -/
def metroEntries (m : MetroObjs) : List Entry :=
  m.energy.zipIdx.map (fun p => (5, 1, p.2, p.1.bytes)) ++ tabEntries 5 2 Period.bytes m.periods
    ++ tabEntries 5 3 Balance.bytes m.balances ++ tabEntries 5 4 Ident.bytes m.idents
    ++ [(5, 5, 0, le 2 m.failedNext.toNat ++ zeros 2)] ++ tabEntries 5 6 (fun n => le 4 (n + 2 ^ 20)) m.failed
    ++ tabEntries 5 7 MinuteBin.bytes m.bins

/-- The keys block's objects (R420). -/
def keyEntries (k : KeyObjs) : List Entry :=
  tabEntries 8 1 KeyDesc.bytes k.slots ++ k.requests.map (fun p => (8, 2, p.1, lcBytes p.2)) ++ [(8, 3, 0, k.record.bytes)]

/-- The updates block's objects (R511). -/
def updEntries (u : UpdObjs) : List Entry :=
  [(0xB, 1, 0, sessionBytes u.session)] ++ (match u.campaign with | some c => [(0xB, 2, 0, c.bytes)] | none => [])
    ++ tabEntries 0xB 3 (fun t => Item.bytes ⟨8, t.item⟩) u.tariffs

/-- Every state object (R34). -/
def objectEntries (c : Covered) : List Entry :=
  systemEntries c.sys ++ tableEntries c.tables ++ ledgerEntries c.ledger ++ metroEntries c.metro ++ keyEntries c.keys
    ++ updEntries c.upd

/-- The key values: the secret or public value of each slot that holds one, wrapped under the import key of the lowest-coded
root for imports (R448). -/
def keyValueEntries (s : State) : List Entry :=
  match importRoots s with
  | [] => []
  | r :: _ => s.cov.keys.slots.filterMap fun p =>
    (slotValue s p.1).map fun v =>
      (8, 0x80, p.1, le 2 p.1 ++ le 2 p.2.gen.toNat ++ [BitVec.ofNat 8 r] ++ zeros 3 ++ keyWrap (importKey s r) (fit 64 v))

/-- The whole transfer of the state, in ascending order of block, kind and index (R448). -/
def transferEntries (s : State) : List Entry :=
  sortBy Entry.before (objectEntries s.cov ++ keyValueEntries s ++ Config.carriedEntries s.carried)

/-- Cut a byte string into parts of at most `k` bytes. -/
def cutBytes (k : Nat) : Nat → Bytes → List Bytes
  | 0, _ => []
  | n + 1, b => if b.isEmpty then [] else b.take k :: cutBytes k n (b.drop k)

/-- The XFER payloads of a stream: 8,192 bytes each, the last one shorter (R430, R432). (DESIGN CHOICE, log 79) -/
def xferPayloads (stream : Bytes) : List Bytes := cutBytes 8192 (stream.length / 8192 + 1) stream

/-- The XFER_END payload (R432). -/
def xferEndPayload (entries : Nat) (stream : Bytes) (x : Seal) : Bytes :=
  le 4 entries ++ le 4 stream.length ++ sha256 stream ++ x.bytes ++ (match x.sig with | some p => sigBytes p | none => zeros 64)
    ++ zeros 8

/-! ### Reading a stream back -/

/-- The entries of a stream, in order; what follows a cut entry is lost. -/
def streamEntries : Nat → Bytes → List Entry
  | 0, _ => []
  | n + 1, b =>
    if b.length < 8 then []
    else
      let len := ofLe (slice b 2 2)
      (ofLe (slice b 0 1), ofLe (slice b 1 1), ofLe (slice b 4 4), slice b 8 len) :: streamEntries n (b.drop (8 + len))

/-- A signed 64-bit field. -/
def int64At (b : Bytes) (off : Nat) : Int := (BitVec.ofNat 64 (ofLe (slice b off 8))).toInt

/-- A field of a byte string. -/
def at_ (b : Bytes) (off len : Nat) : Nat := ofLe (slice b off len)

/-- An endpoint entry of its 16 bytes (R208). -/
def endpointOf (b : Bytes) : Endpoint :=
  let w := at_ b 8 8
  { lastFc := BitVec.ofNat 32 (at_ b 0 4), lastHeard := BitVec.ofNat 24 (at_ b 4 3), lastDsn := BitVec.ofNat 8 (at_ b 7 1),
    way := BitVec.ofNat 21 w, port := BitVec.ofNat 9 (field w 21 9),
    state := (match field w 30 3 with | 1 => .active | 2 => .silent | 3 => .barred | _ => .free),
    static := testBit w 33, sleeper := testBit w 34, cls := BitVec.ofNat 3 (field w 35 3),
    keyGroup := BitVec.ofNat 12 (field w 38 12), keyGen := testBit w 50, feeder := BitVec.ofNat 3 (field w 51 3),
    phase := BitVec.ofNat 2 (field w 54 2), parity := testBit w 56 }

/-- The PEER word read back (R133). -/
def peerOf (w : Nat) : Peer :=
  ⟨BitVec.ofNat 20 w, testBit w 20, testBit w 21, testBit w 22, testBit w 23, testBit w 24⟩

/-- A repeater candidate read back (R133). -/
def candOf (b : Bytes) : Cand := ⟨BitVec.ofNat 12 (at_ b 0 2), testBit (at_ b 0 2) 12, BitVec.ofNat 32 (at_ b 2 4)⟩

/-- A local link entry of its 256 bytes (R104, R133, R195). -/
def linkEntryOf (b : Bytes) : LinkEntry :=
  let peer := peerOf (at_ b 216 4)
  let w (n off len : Nat) : BitVec n := BitVec.ofNat n (at_ b off len)
  if peer.radio then
    let f := at_ b 9 1
    ⟨peer, .radio
      { eui := euiOf (slice b 0 8), modeTx := w 8 8 1, sleeper := testBit f 0, enhAck := testBit f 1, search := testBit f 2,
        lost := testBit f 3, portB := testBit f 4, listenCh := w 16 10 2, rxMode := w 8 12 1, rssi := w 8 13 1,
        anchorS := w 32 16 4, anchorNs := w 32 20 4, periodMs := w 32 24 4, drift := w 16 28 2, rxWindowMs := w 16 30 2,
        setFirst := w 16 32 2, setCount := w 16 34 2, hop := w 16 36 2, seed := w 16 38 2, schedMode := w 8 40 1,
        wakeIndex := w 32 44 4, syncS := w 32 48 4, syncNs := w 32 52 4, lastOffset := w 32 56 4, misses := w 16 60 2,
        txDsn := w 8 220 1, fails := w 8 221 1 }⟩
  else
    let f := at_ b 209 1
    ⟨peer, .plc
      { map := (slice b 0 208).flatMap (fun (x : Byte) => [BitVec.ofNat 4 x.toNat, BitVec.ofNat 4 (x.toNat / 16)]), mapSet := w 8 208 1,
        rate := w 2 209 1, stepHold := testBit f 2, unconfirmed := testBit f 3, home := w 2 210 1, weight := slice b 212 3,
        directQ := w 32 220 4, cand := (List.range 4).map (fun i => candOf (slice b (224 + 6 * i) 6)), txDsn := w 8 248 1,
        fails := w 8 249 1 }⟩

/-- A route prefix of its 28 bytes (R236). -/
def routeOf (b : Bytes) : Route :=
  ⟨BitVec.ofNat 64 (ofBe (slice b 0 8)), at_ b 8 1,
    match at_ b 9 1 with | 1 => .toChild (addrOf (slice b 12 16)) | 2 => .discard | _ => .toLocal⟩

/-- A child entry of its 32 bytes (R226). -/
def childOf (b : Bytes) : Child :=
  { addr := addrOf (slice b 0 16), eui := euiOf (slice b 16 8), ethPort := BitVec.ofNat 2 (at_ b 24 1),
    state := (match at_ b 25 1 % 128 with | 1 => .active | 2 => .silent | _ => .free), static := testBit (at_ b 25 1) 7,
    lastHeard := BitVec.ofNat 24 (at_ b 28 4) }

/-- A reading record of its 32 bytes; its payload is none of them (R262). -/
def recordOfBytes (b : Bytes) (payload : Option Bytes) : Record :=
  { slotCode := BitVec.ofNat 32 (at_ b 0 4), value := BitVec.ofNat 64 (at_ b 4 8), time := BitVec.ofNat 32 (at_ b 12 4),
    tick := BitVec.ofNat 32 (at_ b 16 4), status := BitVec.ofNat 16 (at_ b 20 2), flags := BitVec.ofNat 16 (at_ b 22 2),
    seq := BitVec.ofNat 32 (at_ b 24 4), payload := payload }

/-- The suspects of a period or result (R307). -/
def suspectsOf (b : Bytes) (off n : Nat) : List (Nat × Nat) :=
  (List.range (min n 8)).map fun i => (at_ b (off + 4 * i) 4 % 2 ^ 20, at_ b (off + 4 * i) 4 / 2 ^ 20)

/-- A balance period of its 96 bytes (R307). -/
def periodOf (b : Bytes) : Period :=
  { periodEnd := at_ b 0 4, netMj := int64At b 8, i2tLine := at_ b 16 8, i2tNeutral := at_ b 24 8, meterMilli := int64At b 32,
    coverS := at_ b 40 8, metered := at_ b 48 8, suspectCount := at_ b 56 1, suspects := suspectsOf b 64 (at_ b 56 1) }

/-- A balance result of its 96 bytes (R307). -/
def balanceOfBytes (b : Bytes) : Balance :=
  { periodEnd := at_ b 0 4, flags := BitVec.ofNat 16 (at_ b 4 2), covMeters := at_ b 6 2, covTime := at_ b 8 2,
    meters := at_ b 10 2, feederMwh := int64At b 16, meterMwh := int64At b 24, lossMwh := int64At b 32,
    residual := int64At b 40, lateMilli := int64At b 48, suspectCount := at_ b 56 1, suspects := suspectsOf b 64 (at_ b 56 1) }

/-- An identification entry of its 576 bytes (R310). -/
def identOf (b : Bytes) : Ident :=
  { slot := at_ b 0 4 % 2 ^ 20, n := at_ b 4 2, phases := BitVec.ofNat 3 (at_ b 6 2),
    y := (List.range 3).map (fun i => (int64At b (16 + 16 * i), int64At b (24 + 16 * i))),
    cands := (List.range 21).map fun i => ⟨int64At b (64 + 24 * i), int64At b (72 + 24 * i), int64At b (80 + 24 * i)⟩ }

/-- A minute bin of its 200 bytes (R309). -/
def binOfBytes (b : Bytes) : MinuteBin :=
  { minute := at_ b 0 4, ticks := at_ b 4 4, v := (List.range 3).map (fun i => at_ b (8 + 8 * i) 8),
    i := (List.range 21).map fun i => at_ b (32 + 8 * i) 8 }

/-- A conductor's energies of its 64 bytes (R314). -/
def energyOf (b : Bytes) : Energy :=
  let w (i : Nat) : BitVec 64 := BitVec.ofNat 64 (at_ b (8 * i) 8)
  ⟨w 0, w 1, w 2, w 3, w 4, w 5, w 6, w 7⟩

/-- A key-slot descriptor of its 16 bytes (R403). -/
def keyDescOf (b : Bytes) : KeyDesc :=
  { type := at_ b 0 1, flags := at_ b 1 1, parent := BitVec.ofNat 16 (at_ b 2 2), parentGen := BitVec.ofNat 16 (at_ b 4 2),
    gen := BitVec.ofNat 16 (at_ b 6 2), uses := at_ b 8 4, ops := BitVec.ofNat 16 (at_ b 12 2), group := BitVec.ofNat 12 (at_ b 14 2) }

/-- The life-cycle record of its 8 bytes (R420). -/
def lcRecordOf (b : Bytes) : LcRecord :=
  { lifecycle := BitVec.ofNat 20 (at_ b 0 4), revoke := BitVec.ofNat 2 (field (at_ b 0 4) 20 2),
    tamper := BitVec.ofNat 10 (at_ b 4 2), written := BitVec.ofNat 3 (at_ b 6 1) }

/-- The update session of its 96 bytes (R511). -/
def updSessionOf (b : Bytes) : Option UpdSession :=
  if at_ b 0 1 = 0xFF then none
  else some
    { kind := at_ b 0 1, complete := testBit (at_ b 1 1) 0, pending := testBit (at_ b 1 1) 1, size := at_ b 4 4,
      received := at_ b 8 4, lastTick := BitVec.ofNat 32 (at_ b 12 4), target := euiOf (slice b 16 8), digest := slice b 24 32,
      boundary := BitVec.ofNat 48 (at_ b 56 6), imageDigest := slice b 64 32 }

/-- The campaign of its object (R511). Its targets are not in the object; its image's size is that of a complete image in the
update session with its digest, else what the bitmap spans. -/
def campaignOf (u : Option UpdSession) (b : Bytes) : Campaign :=
  let map := b.drop 88
  let held := u.filter fun x => x.kind == 1 && x.complete && x.imageDigest == slice b 8 32
  { body := slice b 0 80, size := (held.map (·.size)).getD (8 * map.length * at_ b 6 2), targets := [], round := at_ b 80 1, phase := at_ b 81 1,
    cursor := at_ b 84 4, blocks := (List.range (8 * map.length)).filter fun i => testBit (at_ map (i / 8) 1) (i % 8) }

/-- The slots whose history of a reserved code names a campaign or tariff (R503). -/
def slotsNaming (h : Tab Record) (code id : Nat) : List Nat :=
  (h.filter fun p => p.1 % 4096 == code && field p.2.value.toNat 16 16 == id).map fun p => p.1 / 4096

/-- An entry of the stream takes its place among the objects; one of an unknown block or kind is skipped (R448). -/
def loadEntry (c : Covered) (e : Entry) : Covered :=
  let v := e.2.2.2
  let i := e.2.2.1
  match e.1, e.2.1 with
  | 0, 1 => { c with sys.records := tput c.sys.records i (v.drop 8) }
  | 0, 2 => { c with sys.sets := tput c.sys.sets i ⟨BitVec.ofNat 48 (at_ v 0 6), BitVec.ofNat 48 (at_ v 8 6), []⟩ }
  | 0, 3 =>
    match tget c.sys.sets (i / 65536) with
    | some p =>
      let q : PendingSet := { p with items := p.items ++ [⟨BitVec.ofNat 8 (at_ v 0 1), slice v 4 (at_ v 2 2)⟩] }
      { c with sys.sets := tput c.sys.sets (i / 65536) q }
    | none => c
  | 0, 4 => { c with sys.epoch := BitVec.ofNat 32 (at_ v 0 4), sys.lastApplied := BitVec.ofNat 48 (at_ v 6 6) }
  | 3, 1 => { c with tables.endpoints := tput c.tables.endpoints i (endpointOf v) }
  | 3, 2 => { c with tables.ways := tput c.tables.ways i ⟨euiOf (slice v 0 8), BitVec.ofNat 20 (at_ v 8 4)⟩ }
  | 3, 3 => { c with tables.links := tput c.tables.links i (linkEntryOf v) }
  | 3, 4 => { c with tables.routes := c.tables.routes ++ [routeOf v] }
  | 3, 5 => { c with tables.children := tput c.tables.children i (childOf v) }
  | 3, 6 =>
    { c with tables.spills := tput c.tables.spills i ⟨euiOf (slice v 0 8), BitVec.ofNat 48 (at_ v 8 6), BitVec.ofNat 9 (at_ v 14 2)⟩ }
  | 4, 1 => { c with ledger.histories := tput c.ledger.histories i (recordOfBytes v none) }
  | 4, 2 => { c with ledger.nextSeq := BitVec.ofNat 32 (at_ v 0 4) }
  | 4, 3 =>
    let l : ChildLedger :=
      ⟨BitVec.ofNat 64 (at_ v 0 8), if at_ v 8 4 = 0xFFFFFFFF then none else some (BitVec.ofNat 32 (at_ v 8 4))⟩
    { c with ledger.children := tput c.ledger.children i l }
  | 5, 1 => { c with metro.energy := c.metro.energy.set i (energyOf v) }
  | 5, 2 => { c with metro.periods := tput c.metro.periods i (periodOf v) }
  | 5, 3 => { c with metro.balances := tput c.metro.balances i (balanceOfBytes v) }
  | 5, 4 => { c with metro.idents := tput c.metro.idents i (identOf v) }
  | 5, 5 => { c with metro.failedNext := BitVec.ofNat 16 (at_ v 0 2) }
  | 5, 6 => { c with metro.failed := tput c.metro.failed i (at_ v 0 4 % 2 ^ 20) }
  | 5, 7 => { c with metro.bins := tput c.metro.bins i (binOfBytes v) }
  | 8, 1 => { c with keys.slots := tput c.keys.slots i (keyDescOf v) }
  | 8, 2 => match lcOfBody v with | some q => { c with keys.requests := c.keys.requests ++ [(i, q)] } | none => c
  | 8, 3 => { c with keys.record := lcRecordOf v }
  | 0xB, 1 => { c with upd.session := updSessionOf v }
  | 0xB, 2 => { c with upd.campaign := some (campaignOf c.upd.session v) }
  | 0xB, 3 => { c with upd.tariffs := tput c.upd.tariffs i ⟨slice v 4 (at_ v 2 2), [], true, 0⟩ }
  | _, _ => c

/-- Campaign and tariffs take back the targets that the meter states name (R503, R511). -/
def withTargets (c : Covered) : Covered :=
  { c with
    upd.campaign := c.upd.campaign.map fun x => { x with targets := slotsNaming c.ledger.histories campCode x.id },
    upd.tariffs := c.upd.tariffs.map fun p => (p.1, { p.2 with targets := slotsNaming c.ledger.histories tariffCode p.2.id }) }

/-- The state objects that a stream carries. -/
def coveredOf (es : List Entry) : Covered := withTargets (es.foldl loadEntry Covered.init)

/-- A key value of the stream that unwraps enters its slot's cell; another leaves the slot without its value (R415, R448). -/
def loadKeyValue (s : State) (e : Entry) : State :=
  let v := e.2.2.2
  if e.1 = 8 ∧ e.2.1 = 0x80 then
    let slot := at_ v 0 2
    let d := keyDesc s slot
    if d.gen.toNat = at_ v 2 2 ∧ d.type ≠ 0 then
      match keyUnwrap (importKey s (at_ v 4 1)) (slice v 8 72) with
      | some x => storeValue slot d.type d.gen.toNat (x.take (valueLength d.type)) s
      | none => s
    else s
  else s

/-- A seal of its body and signature (R29, R38, R432). -/
def sealOf (body sig : Bytes) : Seal :=
  { tick := BitVec.ofNat 48 (at_ body 4 6), flags := BitVec.ofNat 8 (at_ body 1 1), lock := BitVec.ofNat 8 (at_ body 2 1),
    start := ⟨BitVec.ofNat 48 (at_ body 12 6), BitVec.ofNat 32 (at_ body 18 4)⟩, readLeaves := BitVec.ofNat 32 (at_ body 24 4),
    eventLeaves := BitVec.ofNat 32 (at_ body 28 4), merkleRoot := slice body 32 32, stateDigest := slice body 64 32,
    prevHash := slice body 96 32, epoch := BitVec.ofNat 32 (at_ body 128 4), ledgerId := BitVec.ofNat 64 (at_ body 136 8),
    sig := if testBit (at_ body 1 1) 0 then some (at_ sig 0 32, at_ sig 32 32) else none, hash := sha256 body }

/-- The store holds seal S behind its own latest durable seal; what it held beyond that one is another chain's (R447). -/
def transferStore (x : Seal) (s : State) : State :=
  let old := (s.store.durable.map (·.toNat)).getD 0
  let keep (t : Nat) : Bool := decide (t ≤ old)
  let slot : SealSlot := { body := x, firstSeq := s.cov.ledger.nextSeq, runs := [], expiry := 0, events := [] }
  let st : Store := { s.store with
    packages := [], ckptDue := none, stateDirty := [], dirtyPairs := [], writebacks := [],
    seals := tput (s.store.seals.filter fun p => keep p.1) x.tick.toNat slot,
    records := s.store.records.filter (fun p => keep p.2.tick.toNat), durable := some x.tick }
  { s with store := st, seals := [] }

/-- The state is written into the store as a checkpoint of seal S (R447). (DESIGN CHOICE, log 79) -/
def storeTransfer (x : Seal) (s : State) : State :=
  let grains := (objectEntries s.cov).filterMap fun e =>
    if e.1 = 4 ∧ e.2.1 = 1 then none else some (Config.stateGrain e.1 e.2.1 e.2.2.1 % 65536)
  let u := (s.cov.ledger.histories.map fun p => p.1 / 4096).eraseDups.foldl (fun s k => writeHistory k x.tick.toNat s)
    (transferStore x s)
  match u.store.finish ⟨x.tick, u.store.pageSeq, grains.eraseDups⟩ x.hash u.radio.ledger (storeNow u) with
  | some st => { u with store := st.eraseReleased }
  | none => u

/-- A transfer loads: the state objects, the key values and the carried values take the place of the unit's own, and seal S is
the head of its chain (R447, R448). (DESIGN CHOICE, log 79) (DEDUCED, log 80) -/
def loadTransfer (stream : Bytes) (x : Seal) (s : State) : State :=
  let es := streamEntries (stream.length / 8 + 1) stream
  let c := coveredOf es
  let s : State := { s with cov := c, view := c, snaps := [(x.tick, c)], seals := [], closing := none, work := Work.init,
                            sys.prevSeal := some (x.tick, x.hash), sys.genesis := false, sys.recovery := false,
                            sys.takeover := false, sys.lastSigned := if x.signed then x.tick else 0, sys.imageDue := none,
                            keys.cells := [], keys.starting := false, cap.excess := [] }
  let s := es.foldl loadKeyValue s
  let s := s.carry (Config.carriedOf (es.filter fun e => decide (0x80 ≤ e.2.1) && !(e.1 == 8 && e.2.1 == 0x80)))
  storeTransfer x s

/-! ### Fill (R449) -/

/-- What the primary sends of one tick: its seal slot, event leaves and reading records with payloads. The layout of a FILL
payload is not given; the frame carries these parts in this order, each with its length. (DESIGN CHOICE, log 79) -/
def fillPayload (s : State) (x : SealSlot) : Bytes :=
  let part (b : Bytes) : Bytes := le 4 b.length ++ b
  let recs := (s.store.records.filter fun p => p.2.tick == x.body.tick).map fun p =>
    part p.2.record.bytes ++ part (p.2.record.payload.getD [])
  part x.body.full ++ le 4 x.events.length ++ x.events.flatMap part ++ le 4 recs.length ++ recs.flatten

/-- A filled tick takes its place in the store (R449). -/
def placeFill (s : State) (f : FillSlot) : State :=
  let x := sealOf f.sealBody f.signature
  let t := x.tick.toNat
  let now := storeNow s
  let recs := f.records.map fun r => recordOfBytes r.1 r.2
  let p := recs.foldl (placeRecord s t now) ⟨s.store, [], [], [], 0⟩
  let slot : SealSlot :=
    { body := x, firstSeq := (recs.head?.map (·.seq)).getD 0, runs := p.runs.map (·.2), expiry := p.day, events := f.events }
  let st : Store := { p.st with seals := tput p.st.seals t slot }
  { s with store := (st.program hotStream 0 now [newGrain 5 (sealLga t) t]).getD st }

end Sys2Proof.Machine
end

