-- ==== Sys2Proof/Machine/TwinOps.lean ====
section
/-!
DEFINITION. What the units of a twin pair do at their boundaries: shipping, lease and heartbeat, transfer and fill, the
mirror's execution of logs and its comparison of seals, swaps and terms (R424 to R449).
-/
namespace Sys2Proof.Machine

open Sys2Proof

/-- The unit is a member of a twin pair (R424). -/
def twinMember (s : State) : Bool := hwCfg s 0x0901 0 0 1 0 == 1

/-- The configuration names a witness (R439). -/
def witnessSet (s : State) : Bool := hwCfg s 0x0901 0 8 16 0 != 0

/-- LEDGER_ID of the unit. -/
def ledgerIdOf (s : State) : Nat := (s.sys.image.ledgerId.map (·.toNat)).getD 0

/-- The latest durable seal, or zero. -/
def durableTick (s : State) : Nat := (s.store.durable.map (·.toNat)).getD 0

/-- The first 8 bytes of a digest. -/
def digest8 (d : Bytes) : Bytes := fit 8 d

/-- ROLE of this unit's HELLO (R432). -/
def helloRole (s : State) : Nat :=
  match s.twin.role, s.twin.standby with
  | .primary, _ => 1
  | .single, _ => 0
  | .mirror, .starting => 0
  | .mirror, .fenced => 3
  | .mirror, _ => 2

/-- The HELLO payload of this unit (R432). -/
def helloPayload (s : State) : Bytes :=
  euiBytes (ownEui s) ++ le 8 (ledgerIdOf s) ++ [BitVec.ofNat 8 (helloRole s), 0] ++ le 2 s.upd.fw.procVersion.toNat
    ++ digest8 s.upd.fw.fwDigest ++ digest8 s.sys.image.digest ++ le 6 (durableTick s) ++ zeros 6

/-- The HELLO frame of this unit (R432). -/
def sendHello (s : State) : State := holhamSend holHello s.cap.tick (helloPayload s) s

/-- A message to the witness (R486). The REQUEST_ID of a message that the M20 sends of itself is a free value.
(DESIGN CHOICE, log 78) -/
def toWitness (type : Nat) (body : Bytes) (s : State) : State :=
  if !s.bey.witnessUp then s
  else
    let (rid, s) := drawWord s
    ethernetOut (headPort s)
      (.beysynTo (addrOf (cfgBytes s.hw.records 0x0901 0 8 16)) (BitVec.ofNat 16 (hwCfg s 0x0003 0 0x12 2 49742))
        (messageBytes type rid (s.sys.prevSeal.map (·.1)) 0 body)) s

/-- TWIN_HEARTBEAT of a primary at a boundary (R439, R486). -/
def heartbeat (s : State) : State :=
  if s.twin.role = .primary ∧ witnessSet s = true then
    toWitness 0x60 (euiBytes (ownEui s) ++ le 8 (ledgerIdOf s) ++ le 6 ((s.sys.prevSeal.map (·.1.toNat)).getD 0) ++ [1, 0]) s
  else s

/-! ### The primary's boundary (R434, R439) -/

/-- LOG_END of the log of the ending tick, once its last entries are shipped (R434). (DEDUCED, log 77) -/
def shipEnd (last : Bool) (s : State) : State :=
  if s.twin.role ≠ .primary then s
  else
    let s := shipLog true s
    let bs := s.cap.log.entries.flatMap entryBytes
    holhamSend holLogEnd s.cap.tick
      (le 4 s.cap.log.entries.length ++ le 4 bs.length ++ sha256 bs ++ fit 32 ((s.sys.prevSeal.map (·.2)).getD [])
        ++ [BitVec.ofNat 8 (bit s.twin.firstM.isSome + 2 * bit last), 0] ++ le 6 ((s.twin.firstM.map (·.toNat)).getD 0))
      { s with twin.firstM := none }

/-- The lease is renewed for the boundary that ends the tick (R434, R439). (DEDUCED, log 81) -/
def renewLease (s : State) : State :=
  if s.twin.role ≠ .primary then s
  else holhamSend holLease s.cap.tick [] { s with twin.renewal := s.cap.tick }

/-! ### The primary's transfer and fill (R447, R449) -/

/-- Seal S has closed: its transfer is formed from the state as of it (R447, R448). -/
def beginTransfer (s : State) : State :=
  match s.twin.rejoinSeal, latestSeal s with
  | some t, some x =>
    if t = x.tick ∧ s.twin.xferOut.isEmpty ∧ s.twin.xferEnd.isEmpty then
      let es := transferEntries s
      let stream := es.flatMap entryOf
      { s with twin.xferOut := xferPayloads stream, twin.xferEnd := xferEndPayload es.length stream x }
    else s
  | _, _ => s

/-- Bytes of unacknowledged frames that transfer and fill leave free. -/
def pumpLimit : Nat := 262144

/-- XFER frames leave while less than half of the retransmit buffer is in use, XFER_END behind them.
(DESIGN CHOICE, log 79) -/
def pumpTransfer : Nat → State → State
  | 0, s => s
  | n + 1, s =>
    if !s.twin.linkUp || decide (pumpLimit < unackedBytes s.twin.unacked) then s
    else
      let t := s.twin.rejoinSeal.getD 0
      match s.twin.xferOut with
      | p :: rest => pumpTransfer n (holhamSend holXfer t p { s with twin.xferOut := rest })
      | [] =>
        if s.twin.xferEnd.isEmpty then s
        else
          let low := if (sealAt s s.twin.peerDurable.toNat).isSome then s.twin.peerDurable + 1 else 0
          holhamSend holXferEnd t s.twin.xferEnd
            { s with twin.xferEnd := [], twin.rejoinSeal := none, twin.fillNext := some t, twin.fillLow := low }

/-- FILL frames leave newest first once the mirror is SYNCED, below every other Holham traffic (R449).
(DESIGN CHOICE, log 79) -/
def pumpFill : Nat → State → State
  | 0, s => s
  | n + 1, s =>
    match s.twin.fillNext with
    | none => s
    | some t =>
      if !s.twin.linkUp || decide (pumpLimit < unackedBytes s.twin.unacked) || !s.twin.xferEnd.isEmpty then s
      else
        match (s.store.seals.filter fun p => decide (p.1 ≤ t.toNat) && decide (s.twin.fillLow.toNat ≤ p.1)).getLast? with
        | none => holhamSend holFill t [] { s with twin.fillNext := none }
        | some (k, x) =>
          let b := fillPayload s x
          let s := (cutBytes 8192 (b.length / 8192 + 1) b).foldl (fun s p => holhamSend holFill (BitVec.ofNat 48 k) p s) s
          pumpFill n { s with twin.fillNext := if k = 0 then none else some (BitVec.ofNat 48 (k - 1)) }

/-- What a primary still owes its mirror leaves as the link takes it. -/
def pump (s : State) : State :=
  let s := pumpTransfer 8192 s
  if s.twin.mirror.any (·.standby == 2) then pumpFill 64 s else s

/-! ### Role changes -/

/-- A term ends: transmission stops, TWIN_PRIMARY_N is deasserted, capture and every session end (R425, R426, R441, R445,
R457). (DEDUCED, log 82) -/
def endTerm (s : State) : State :=
  { s with twin.primaryN := false, twin.endDue := false, cap.isOn := false, plc.onAir := none, plc.reception := none,
           radio.chain0 := none, radio.chain1 := none, radio.ctx := List.replicate 32 none, bey.dtls := [],
           bey.tribClients := [], bey.handshakes := 0, bey.witnessUp := false, bey.parentUp := false }

/-- The unit is FENCED (R426, R441, R445). -/
def toFenced (s : State) : State :=
  { s with twin.role := .mirror, twin.standby := .fenced, twin.waitAnswer := none, twin.termAt := none, twin.swapAt := none,
           twin.asked := false }

/-- REJOIN goes to the primary (R432, R447). -/
def sendRejoin (s : State) : State :=
  if !s.twin.linkUp then s
  else holhamSend holRejoin s.cap.tick (le 6 (durableTick s) ++ zeros 2)
    { s with twin.asked := true, twin.xferIn := [], twin.xferCount := 0, twin.loaded := none }

/-- The mirror becomes REJOINING and sends REJOIN (R436, R442). -/
def toRejoining (s : State) : State :=
  sendRejoin { s with twin.standby := .rejoining, twin.termAt := none, twin.silentTick := none, twin.lapsed := false }

/-- The interval from boundary M to now that a new primary's dwell ledger counts as occupied, in µs (R194). The length of tick
M is taken as nominal. (DEDUCED, log 82) -/
def gapUs (s : State) : Nat :=
  match latestSeal s with
  | some x => (nowNs s - (stampNs x.start + nominalTickNs s)) / 1000
  | none => 0

/-- The dwell ledger and the governor of a unit that starts to transmit (R123, R194). (DEDUCED, log 82) -/
def startLedgers (us : Nat) (s : State) : State :=
  let s := chargeWindow s
  { s with radio.ledger := addCharges s.radio.ledger (gapCharges s.hw.records (band900 s) us (nowNs s)) }

/-- Every session that the logs hold ends in the first log of a term, with cause 3 (R457). (DEDUCED, log 82) -/
def closeSessions (s : State) : State :=
  let s := { s with bey.dtls := [], bey.own := [], bey.queries := [], bey.tribClients := [], bey.handshakes := 0 }
  (s.bey.sessions.filter fun p => p.2.ended.isNone).foldl
    (fun s p => appendInput ⟨0, 2, s.time.ns, [BitVec.ofNat 8 p.1, 2] ++ le 2 4 ++ [3, 0, 0, 0], none⟩ s) s

/-- Unsolicited neighbour advertisements for IPV6_ADDR on every head-end and child port (R443). -/
def advertiseAll (s : State) : State :=
  let a := ofBe (cfgBytes s.hw.records 0x0003 0 0 16)
  if a = 0 then s
  else [0, 1, 2, 3].foldl (fun s p => if portOn s p then advertise p a true s else s) s

/-- The unit is primary and captures the tick in progress under R50, naming its latest closed seal (R443, R445, R446). -/
def termTaken (s : State) : State :=
  { s with sys.mode := .running, sys.takeover := true, twin.role := .primary, twin.primaryN := true,
           twin.firstM := s.sys.prevSeal.map (·.1), twin.termAt := none, twin.waitAnswer := none,
           twin.handover := none, twin.lastLog := none, twin.logs := [], twin.silentTick := none,
           twin.lapsed := false, twin.mirror := none, twin.swapAt := none, twin.ackTick := s.cap.tick,
           twin.xferIn := [], twin.loaded := none, twin.rejoinSeal := none, twin.xferOut := [],
           twin.xferEnd := [], twin.fillNext := none, cap.isOn := true, cap.shipped := 0,
           radio.filters := loadFilters [] s.hw.links s.cov.tables [] }

/-- A term begins at the boundary just passed (R443, R445, R446). -/
def beginTerm (s : State) : State :=
  shipLog false (closeSessions (advertiseAll (startLedgers (gapUs s) (termTaken s))))

/-! ### The mirror's logs (R434 to R436) -/

/-- The log that the chain comes to next, complete or not (R50, R436). -/
def nextShipped (s : State) : Option ShippedLog :=
  match s.sys.prevSeal with
  | none => none
  | some (p, _) => s.twin.logs.find? fun l => l.tick == p + 1 || (l.first && l.complete && l.m == p)

/-- A lock state by its code (R29). -/
def lockOf (n : Nat) : LockState := match n with | 1 => .acquiring | 2 => .locked | _ => .freeRun

/-- The body of a log's tick-start entry. -/
def tickStartBody (es : List LogEntry) : Bytes := match es with | e :: _ => e.body | [] => []

/-- An input log of a shipped log. The lock state of the log's own tick stands in the next log's tick-start entry. -/
def shippedInput (s : State) (l : ShippedLog) : InputLog :=
  let b := tickStartBody l.entries
  let startLock := lockOf (at_ b 6 1)
  let next := s.twin.logs.find? fun n => decide (l.tick < n.tick) && !n.entries.isEmpty
  { tick := l.tick, entries := l.entries, startLock := startLock,
    curLock := (match next with | some n => lockOf (at_ (tickStartBody n.entries) 6 1) | none => startLock),
    start := ⟨BitVec.ofNat 48 (at_ b 0xC 6), BitVec.ofNat 32 (at_ b 0x14 4)⟩, sync := BitVec.ofNat 32 (at_ b 0x18 4),
    deferred := false, lastGasp := false, events := [] }

/-- The mirror executes logs: SYNCED, ORPHANED, or REJOINING with its transfer loaded (R428, R442, R447). -/
def executes (s : State) : Bool :=
  s.twin.role == .mirror && !s.upd.mirrorRewrite && match s.twin.standby with
    | .synced | .orphaned => true
    | .rejoining => s.twin.loaded.isSome
    | _ => false

/-- Processing of the next log begins where it is complete and its tick at or below `limit` (R436, R447).
(DESIGN CHOICE, log 78) -/
def openShipped (limit : Nat) (s : State) : State :=
  if !executes s || s.work.isOpen || s.closing.isSome then s
  else match nextShipped s with
    | none => s
    | some l =>
      if !l.complete || decide (limit < l.tick.toNat) then s
      else openWork (shippedInput s l) { s with sys.takeover := s.sys.takeover || l.first }

/-- A mirror's seal closes and is compared with the primary's hash of it, where that has come (R438). -/
def mirrorClose (s : State) : State :=
  if s.closing.isNone then s
  else
    let s := closeSeal s
    match s.sys.prevSeal with
    | none => s
    | some (t, h) =>
      let next := s.twin.logs.find? fun l => l.complete && (l.tick == t + 1 || (l.first && l.m == t))
      let theirs := match next, s.twin.handover with
        | some l, _ => some l.prevHash
        | none, some (u, g, _) => if u = t then some g else none
        | none, none => none
      let s := { s with twin.logs := s.twin.logs.filter fun l => decide (t < l.tick) }
      match theirs with
      | none => s
      | some g =>
        let s := { s with twin.compared := s.twin.compared.inc, twin.matched := decide (g = h) }
        if g = h then s
        else sendRejoin { s with twin.mismatches := s.twin.mismatches.inc, twin.standby := .diverged, twin.logs := [] }

/-- The mirror that closed seal S of a handover answers (R445). Of several causes the lowest is named. (DEDUCED, log 83) -/
def answerHandover (s : State) : State :=
  match s.twin.handover, s.sys.prevSeal with
  | some (t, h, false), some (p, own) =>
    if p ≠ t ∧ s.twin.standby = .synced then s
    else
      let version := s.twin.peer.any fun q => q.procVersion == s.upd.fw.procVersion
      let cause : Byte :=
        if p = t ∧ own ≠ h then 1 else if s.twin.peerN then 2 else if s.twin.standby ≠ .synced then 3
        else if !version then 4 else 0
      let s := holhamSend holAnswer t ([if cause = 0 then 0 else 1, cause] ++ zeros 6) { s with twin.handover := none }
      if cause = 0 then { s with twin.termAt := some (t + 2) } else s
  | _, _ => s

/-- A log's processing is done on a mirror: in a swap it answers at once; while it catches up it goes on to the next log it
holds, and the log it comes to in rhythm closes at the boundary (R445, R447). (DEDUCED, log 80) -/
def mirrorAdvance (s : State) : State :=
  if s.twin.role ≠ .mirror then s
  else
    let t := s.work.log.tick
    if s.twin.handover.any (fun h => h.1 == t && !h.2.2) then answerHandover (mirrorClose s)
    else if s.twin.standby = .rejoining ∧ t.toNat + 2 < s.cap.tick.toNat then
      openShipped (s.cap.tick.toNat - 2) (mirrorClose s)
    else s

/-- STATUS at a mirror's boundary (R438). -/
def sendStatus (s : State) : State :=
  if twinRoleCode s ≠ 2 then s
  else holhamSend holStatus s.cap.tick
    ([BitVec.ofNat 8 s.twin.standby.code, BitVec.ofNat 8 (bit s.twin.matched + 2 * bit s.twin.fillDone)]
      ++ le 2 s.upd.fw.procVersion.toNat ++ le 6 ((s.sys.prevSeal.map (·.1.toNat)).getD 0) ++ zeros 6) s

/-- The split decision table at an ORPHANED mirror's boundary (R442). -/
def splitDecision (s : State) : State :=
  if s.twin.role ≠ .mirror ∨ s.twin.standby ≠ .orphaned then s
  else if s.twin.renewed then toRejoining s
  else if s.twin.peerN then { s with twin.silentTick := none, twin.termAt := none }
  else match witnessSet s, s.twin.silentTick with
    | true, some c => { s with twin.termAt := some (if s.twin.renewal + 50 < c + 8 then c + 8 else s.twin.renewal + 50) }
    | _, _ => { s with twin.termAt := none }

/-- The boundary of a mirror that has just ended tick `u`: the seal of log u-2 closes and is compared, the rhythm is found,
the split decision table is evaluated and STATUS goes out (R436, R438, R442, R447). -/
def mirrorBoundary (u : BitVec 48) (s : State) : State :=
  let s := answerHandover (mirrorClose s)
  let s := match s.sys.prevSeal with
    | some (t, _) =>
      if s.twin.standby = .rejoining ∧ s.twin.loaded.isSome ∧ u = t + 2 ∧ s.twin.loaded ≠ some t then
        raiseU 0x9009 [t.toNat % 2 ^ 32] { s with twin.standby := .synced, twin.loaded := none, twin.asked := false }
      else s
    | none => s
  let s := sendStatus (splitDecision s)
  { s with twin.renewed := false }

end Sys2Proof.Machine
end

