-- ==== Sys2Proof/Machine/Tick.lean ====
section
/-!
DEFINITION. The tick: the tick PLL, the boundary that ends one tick and begins the next, the inputs of a log, and the end of a
processing (R12 to R28, R41).
-/
namespace Sys2Proof.Machine

open Sys2Proof

/-! ### The tick PLL (R13 to R17) -/

/-- An interval, or the mean of `n` intervals of that sum, lies within 1/138 s to 1/85 s (R14, R15). -/
def periodsOk (n sum : Nat) : Bool := decide (n * 1000000000 ≤ 138 * sum) && decide (85 * sum ≤ n * 1000000000)

/-- The average over the latest intervals measured, at most 8, lies within 42.5 Hz to 69 Hz (R15). -/
def averageOk (l : List Nat) : Bool := periodsOk l.length (l.foldl (· + ·) 0)

/-- Two intervals in succession lie within 2 % (R15). (DEDUCED, log 11) -/
def within2 (prev i : Nat) : Bool := decide (50 * (max prev i - min prev i) ≤ prev)

/-- Lock is lost: FREE_RUN. A loss from LOCKED counts and is noted for the processing of the next tick's log (R15, R53). -/
def loseLock (cause : LockLossCause) (s : State) : State :=
  let code : BitVec 32 := match cause with | .missed => 0 | .outOfRange => 1
  let lost : State := { s with pll.lock := .freeRun, pll.run := 0, pll.steering := false, pll.phase60 := 0 }
  match s.pll.lock with
  | .freeRun => s
  | .acquiring => lost
  | .locked => { lost with pll.lockLosses := s.pll.lockLosses.inc, pll.events := s.pll.events ++ [(0x0011, [code])] }

/-- The measured frequency in mHz: half the rate of the crossings (R53). (DEDUCED, log 10) -/
def measuredMilliHz (l : List Nat) : Nat :=
  let sum := l.foldl (· + ·) 0
  if sum = 0 then 0 else (l.length * 1000000000000 + sum) / (2 * sum)

/-- A valid crossing `i` ns after the one before it (R15). (DEDUCED, log 11) -/
def takeInterval (i : Nat) (s : State) : State :=
  let prev := s.pll.intervals.headD i
  let l := (i :: s.pll.intervals).take 8
  let s : State := { s with pll.intervals := l }
  let full := decide (l.length = 8)
  match s.pll.lock with
  | .freeRun =>
    if periodsOk 1 i && averageOk l then { s with pll.lock := .acquiring, pll.run := 1 } else s
  | .acquiring =>
    if full && !averageOk l then loseLock .outOfRange s
    else
      let run := if periodsOk 1 i then (if within2 prev i then s.pll.run + 1 else 1) else 0
      if 32 ≤ run then
        { s with pll.lock := .locked, pll.run := run, pll.steering := true,
                 pll.events := s.pll.events ++ [(0x0010, [BitVec.ofNat 32 (measuredMilliHz l)])] }
      else { s with pll.run := run }
  | .locked => if full && !averageOk l then loseLock .outOfRange s else s

/-- ZERO_CROSSING (R15): a fitted crossing, with its interval from the one before it where there is one. -/
def execZeroCrossing (intervalNs : Option Nat) (s : State) : Answer :=
  whenClock s fun s => match intervalNs with | some i => takeInterval i s | none => s

/-- CROSSING_MISSED (R15): 3 consecutive predicted crossings have passed without a valid one, or the frequency has left its
range. -/
def execCrossingMissed (cause : LockLossCause) (s : State) : Answer := whenClock s (loseLock cause)

/-- The predicted length of the tick that begins, `fit` ns being the boundary less the fitted crossing (R15 to R18).
(DEDUCED, log 11) -/
def predictTick (fit : Int) (s : State) : State :=
  let sixty := nominal60Of s.hw.records s.sys.region
  let p := s.pll
  let nominal := if !sixty then 10000000 else if p.phase60 = 2 then 8333360 else 8333320
  let steering := p.steering && decide (2000 < fit.natAbs)
  let n := p.intervals.length
  let mean := if n = 0 then nominal else (p.intervals.foldl (· + ·) 0 + n / 2) / n
  let lim : Int := if sixty then 416666 else 500000
  let corr : Int := if steering then max (-lim) (min lim (-fit)) else 0
  let len := match p.lock with
    | .locked => min 11764705 (max 7246377 ((mean : Int) + corr).toNat)
    | _ => nominal
  { s with pll := { p with steering := steering, tickNs := len, stripeNs := (len + 8) / 16 * 2,
                           phase60 := if p.lock = .locked || !sixty then 0 else (p.phase60 + 1) % 3 } }

/-! ### The ending tick (R19 to R25, R125, R188, R295, R582) -/

/-- The line report of a phase for the ending tick (R125). (DESIGN CHOICE, log 35) -/
def lineReport (p : Nat) (noise : List Byte) (s : State) : Bytes :=
  let x := s.plc.phase p
  let stripes := (List.range 8).flatMap fun i =>
    [noise.getD i 0, BitVec.ofNat 8 (sat 8 (x.tickBlank.getD i 0)), BitVec.ofNat 8 (sat 8 (ceilDiv (x.tickZeroed.getD i 0) 4)),
     BitVec.ofNat 8 (sat 8 (x.tickErased.getD i 0))]
  [BitVec.ofNat 8 p, BitVec.ofNat 8 (bit x.tickTx)] ++ le 2 (sat 16 x.tickFcFail)
    ++ le 4 (ceilDiv (chargedTo x.charges s.cap.tick.toNat) 16) ++ stripes

/-- A link has ENABLE set in the hardware's records (R576). -/
def faultEnabled (s : State) (link : Nat) : Bool := testBit (hwCfg s 0x0F01 link 0 1 0) 0

/-- The fault report of the ending tick (R582). (DEDUCED, log 101) -/
def faultReport (s : State) : Bytes :=
  let mask := faultLinks.foldl (fun m k => m + bit (faultEnabled s k) * 2 ^ k) 0
  le 4 mask ++ zeros 4 ++ faultLinks.flatMap fun k =>
    [BitVec.ofNat 8 k, 0] ++ (List.range 5).flatMap fun i =>
      le 2 (if faultEnabled s k then (faultLink s k).tick.getD i 0 else 0)

/-- The inputs that the boundary of the ending tick makes, in the order of R21, and the channels still unsettled. -/
def boundaryReports (b : BoundaryIn) (s : State) : List LogEntry × List Nat :=
  let at0 := b.stamp.ns
  let (m, settle) := metroReport s.hw.records s.metro (stampNs s.cap.log.start) (stampNs b.stamp) (8 * s.pll.stripeNs) b.outputs
  let metro : LogEntry := ⟨0, 3, at0, m.bytes, none⟩
  let fault : List LogEntry :=
    if faultPermitted s && faultLinks.any (faultEnabled s) then [⟨0, 6, at0, faultReport s, none⟩] else []
  let lines := ([1, 2, 3].filter fun p => hwModes s p != 0).map fun p =>
    (⟨BitVec.ofNat 9 p, 1, at0, lineReport p (b.noise.getD (p - 1) []) s, none⟩ : LogEntry)
  let radio : List LogEntry :=
    if radioOnOf s.hw.records s.sys.region then [⟨4, 1, at0, radioTickReport s, none⟩] else []
  (metro :: fault ++ lines ++ radio, settle)

/-- The capture of a tick ends at its boundary: every input has its place, the reports of the tick are made, and the log is
shipped and frozen (R19, R23, R25, R434). -/
def endCapture (b : BoundaryIn) (s : State) : State :=
  let s := closeCaptures b.stamp (settleLog s)
  let (reports, settle) := boundaryReports b s
  let s := heartbeat (renewLease (shipEnd (s.twin.swapAt == some s.cap.tick || s.twin.endDue) s))
  { s with cap.reports := reports, metro.settle := settle, cap.frozen := s.cap.log, cap.hasFrozen := true,
           sys.waitMax := s.sys.waitMax.sample s.cap.queue.length }

/-! ### The new tick (R20, R41, R577) -/

/-- The tick-start body (R22). -/
def tickStart (tick : BitVec 48) (before : LockState) (lengthNs : Nat) (at_ : Stamp) (sync : BitVec 32) : Bytes :=
  le 6 tick.toNat ++ [BitVec.ofNat 8 before.code, 0] ++ le 4 (lengthNs / 200) ++ le 6 at_.sec.toNat ++ zeros 2 ++ le 4 at_.ns.toNat
    ++ le 4 sync.toNat ++ zeros 4

/-- Frames held for reorder are released, and every link's draws begin afresh (R577, R580, R582). -/
def faultBoundary (tick : Nat) (s : State) : State :=
  let port (k : Nat) : Nat := if k = 5 then 5 else if 0x10 ≤ k then 0 else k
  let held := faultLinks.filterMap fun k => (faultLink s k).held.map fun e => (port k, e)
  let s : State := { s with cap.released := (sortBy (fun (a b : Nat × LogEntry) => decide (a.2.port.toNat ≤ b.2.port.toNat)) held).map (·.2) }
  faultLinks.foldl (fun s k =>
    let seed := hwCfg s 0x0F01 k 8 4 0
    putFaultLink k { faultLink s k with rx := lfsrStart seed tick k 0, tx := lfsrStart seed tick k 1, held := none,
                                        tick := List.replicate 5 0 } s) s

/-- The test modes that are asked for and refused: fault injection and the store's test format (R584). -/
def refusedModes (s : State) : List Nat :=
  let test := match hwLifeState s with | .manufacture | .provision => true | _ => false
  (if faultLinks.any (faultEnabled s) && !faultPermitted s then [0] else [])
    ++ (if testBit (hwCfg s 0x0F01 0 0 1 0) 0 && !test then [1] else [])

/-- TEST_REFUSED as a refusal begins (R584, R589). -/
def testRefusals (s : State) : State :=
  let now := refusedModes s
  let s := (now.filter fun m => !s.test.refused.contains m).foldl (fun s m => raiseU 0xF002 [m, (hwLifeState s).code] s) s
  { s with test.refused := now }

/-- A phase begins a tick. -/
def PhaseState.newTick (x : PhaseState) : PhaseState :=
  { x with tickFcFail := 0, tickTx := false, tickBlank := List.replicate 8 0, tickZeroed := List.replicate 8 0,
           tickErased := List.replicate 8 0 }

/-- The radio at a boundary: windows still to open, charges, filters and the tick's counts (R181, R188, R189, R203). -/
def radioBoundary (old : Tab LinkEntry) (now : Nat) (s : State) : State :=
  let s := armUntil now s
  { s with radio := { s.radio with
      armsHw := s.radio.arms.filter (fun w => decide (now < w.openNs)), ledgerHw := s.radio.ledger, ownPrev := s.radio.ownCur,
      ownCur := [], filters := loadFilters old s.hw.links s.cov.tables s.radio.filters,
      tick := { RadioTick.init with ctxMax := busyContexts s } } }

/-- RADIO_PROFILE_REFUSED at a start and where the channel set changes (R191). -/
def profileRefused (old : Tab Bytes) (s : State) : List (BitVec 16 × List (BitVec 32)) :=
  let b9 := band900 s
  let n := txChannels s.hw.records b9
  if radioOnOf s.hw.records s.sys.region && profileOf s.hw.records b9 == 1 && decide (n < 50)
      && (s.sys.firstTick || channelsInUse old b9 != channelsInUse s.hw.records b9) then
    [(0x2007, [BitVec.ofNat 32 n])]
  else []

/-- The log of tick `tick` opens with its tick-start entry, on the hardware as it is (R20, R22). -/
def openLog (b : BoundaryIn) (tick : BitVec 48) (oldRecs : Tab Bytes) (s : State) : State :=
  let sync := syncWord s
  let entry : LogEntry := ⟨0, 0, b.stamp.ns, tickStart tick s.cap.log.curLock b.lengthNs b.stamp sync, none⟩
  let log : InputLog :=
    { tick := tick, entries := [entry], startLock := s.cap.log.curLock, curLock := s.pll.lock, start := b.stamp, sync := sync,
      deferred := false, lastGasp := false, events := s.pll.events ++ profileRefused oldRecs s }
  { s with cap.tick := tick, cap.log := log, cap.shipped := 0, cap.carried := s.cap.queue.length, pll.events := [],
           pll.prevLen := BitVec.ofNat 32 (b.lengthNs / 200) }

/-- The time base takes the boundary's stamp, and the channels that restart settle again (R41, R290). (DEDUCED, log 12) -/
def tickClock (b : BoundaryIn) (oldRecs : Tab Bytes) (s : State) : State :=
  let restart := if s.sys.firstTick then 0xFFFFFFFF else restartMask oldRecs s.hw.records
  setClock (fullNs ⟨b.stamp.sec, b.stamp.ns, 0⟩)
    { s with metro.settle := restartChannels s.hw.records restart s.metro.settle, metro.negStart := b.negative,
             metro.timeStep := false, time.stepped := false }

/-- The hardware's blocks at the boundary that begins tick `tick`, `oldRecs` being the records they held before it
(R18, R41). -/
def tickHardware (b : BoundaryIn) (tick : BitVec 48) (oldRecs : Tab Bytes) (oldLinks : Tab LinkEntry) (s : State) : State :=
  let s := keysBoundary (tick.toNat - 1) (ptpSwitch oldRecs (leapWindow (tickClock b oldRecs s)))
  let s := modPhase 3 PhaseState.newTick (modPhase 2 PhaseState.newTick (modPhase 1 PhaseState.newTick s))
  predictTick b.fitNs (testRefusals (faultBoundary tick.toNat (radioBoundary oldLinks (stampNs b.stamp) s)))

/-- Tick `tick` begins: the hardware takes its settings, and the log opens with its tick-start entry (R18, R20, R41). -/
def newTick (b : BoundaryIn) (tick : BitVec 48) (s : State) : State :=
  tickHardware b tick s.hw.records s.hw.links (openLog b tick s.hw.records (loadHardware (tick.toNat - 1) s))

/-- With nothing waiting ahead of them the boundary's inputs enter the new log at once (R23, R580). -/
def settleAtOnce (s : State) : State :=
  let s := shipLog false s
  if s.cap.carried = 0 && s.cap.released.isEmpty then settleLog s else s

/-! ### The boundary (R12, R39) -/

/-- The tick that a start resumes at: two above the latest durable seal, or 0 (R31, R49). -/
def resumeTick (s : State) : BitVec 48 := match s.sys.prevSeal with | some (l, _) => l + 2 | none => 0

/-- Interval that a restart or activation charges to the dwell ledger: from the tick of the latest checkpoint to one past the
latest seal, in µs of nominal ticks (R194, R499). -/
def restartGapUs (s : State) : Nat :=
  match s.sys.prevSeal with
  | some (l, _) => (l.toNat + 1 - s.store.rootTick) * (nominalTickNs s / 1000)
  | none => 0

/-- The arm list from the recovered entries, for the windows that open from now on (R201, R203). -/
def rebuildArms (now : Nat) (s : State) : State :=
  let back := now - 2 * 1000000000 / ticksPerS s
  let x := armSleepers { s with work.log.start := ⟨BitVec.ofNat 48 (back / 1000000000), BitVec.ofNat 32 (back % 1000000000)⟩ }
  let searching (i : Nat) : Bool := ((linkEntry s i).radio?).any (·.search)
  { s with radio.arms := x.radio.arms, radio.searches := x.radio.searches.filter fun y => searching y.1 }

/-- The first tick that a unit captures after a start or an activation (R49, R123, R176, R194, R203, R425). -/
def firstCapture (b : BoundaryIn) (s : State) : State :=
  let s := newTick b s.cap.tick (rebuildArms (stampNs b.stamp) s)
  let s := startLedgers (restartGapUs s) s
  let s : State := { s with radio.ledgerHw := s.radio.ledger, radio.armsHw := s.radio.arms, cap.isOn := true, sys.firstTick := false }
  settleAtOnce (if s.twin.role = .primary then
    { s with twin.primaryN := true, twin.firstM := s.sys.prevSeal.map (·.1), twin.ackTick := s.cap.tick } else s)

/-- A captured tick ends: its log goes to processing, and the next tick begins, unless a swap, an activation or the end of a
term stops capture (R39, R441, R445, R499). -/
def capturedBoundary (b : BoundaryIn) (s : State) : State :=
  let t := s.cap.tick
  let stop := s.twin.swapAt == some t && s.twin.role == .primary
  let act := activates s t
  let s := newTick b (t + 1) (endCapture b s)
  let s := if act then { s with cap.isOn := false, plc.onAir := none, radio.chain0 := none, radio.chain1 := none, cap.queue := [] }
    else if s.twin.endDue then raiseU 0x9006 [s.twin.ackTick.toNat % 2 ^ 32] (toFenced (endTerm s))
    else if stop then { endTerm s with twin.waitAnswer := some t, twin.swapAt := none, cap.queue := [] }
    else settleAtOnce s
  openWork s.cap.frozen s

/-- Seal S of a swap has closed: HANDOVER goes to the mirror, with a state transfer behind it in a transfer swap
(R445, R446). -/
def handOver (s : State) : State :=
  match s.twin.waitAnswer, s.sys.prevSeal with
  | some t, some (p, h) =>
    if p ≠ t ∨ s.cap.tick ≠ t + 1 then s
    else
      let s := holhamSend holHandover t ([if s.twin.swapTransfer then 1 else 0] ++ zeros 7 ++ fit 32 h) s
      if s.twin.swapTransfer then beginTransfer { s with twin.rejoinSeal := some t, twin.xferOut := [], twin.xferEnd := [] } else s
  | _, _ => s

/-- Transmit, launch and bearer queues, and what the logs had built beside the state, start empty (R161, R203, R256, R282,
R499). -/
def emptyQueues (s : State) : State :=
  { s with
    plc := { s.plc with queue := [], launches := [], waiting := [], sounding := none, lastMap := [], lastFail := [], frags := [],
                        shadows := [], onAir := none, reception := none },
    radio := { s.radio with queue := [], launches := [], mailboxes := [], sleepQueue := [], arms := [], armsHw := [],
                            searches := [], filters := [], frags := [], chain0 := none, chain1 := none,
                            ctx := List.replicate 32 none, held := List.replicate 7 none, ownPrev := [], ownCur := [] },
    ingest := { s.ingest with plcQ := [], radioQ := [], serialQ := [], tribQ := [], parked1 := [], parked2 := [], fetches := [],
                              fetched := [], cache := [], queuedSeq := [], reads := [], serialA := [], serialB := [],
                              deferred := [], trib := TribChild.init },
    metro := { s.metro with retained := none, quantities := [], conductors := [] },
    bey := { s.bey with sessions := [], own := [], staging := [], queries := [], clear := none, alert := 0, mark := 0 },
    upd := { s.upd with requests := [], attrs := [], missing := [], polled := [] },
    time := { s.time with msgs := [], serialA := [], serialB := [] } }

/-- Seal A of an activation has closed: the pause begins, a checkpoint of A falls due and every DTLS session ends (R499).
(DEDUCED, log 97) -/
def beginPause (a : BitVec 48) (s : State) : State :=
  { s with sys.mode := .pause, store.ckptDue := some a, bey.dtls := [], bey.own := [], bey.tribClients := [],
           bey.handshakes := 0, bey.witnessUp := false, bey.parentUp := false }

/-- The new firmware resumes at tick X: the hardware is rebuilt and queues start empty (R499). (DEDUCED, log 97) -/
def resumeActivated (b : BoundaryIn) (a : BitVec 48) (s : State) : State :=
  let x := s.cap.tick + 1
  let s := emptyQueues s
  let s : State := { s with sys.mode := .running, sys.firstTick := true, sys.recovery := true, cap.tick := x,
                            upd.activation := none, upd.activated := some (a, x), upd.rewriteDue := some x,
                            keys.starting := true, radio.ledger := (s.store.roots.head?.map (·.ledger)).getD [] }
  firstCapture b s

/-- A boundary of a unit that runs. -/
def runningBoundary (b : BoundaryIn) (s : State) : State :=
  let t := s.cap.tick
  if s.twin.role = .mirror then
    openShipped (t.toNat - 1) (newTick b (t + 1) (mirrorBoundary t s))
  else
    let s := handOver (pump (beginTransfer (closeSeal s)))
    if s.cap.isOn then capturedBoundary b s
    else if s.sys.firstTick then firstCapture b s
    else match s.twin.waitAnswer, s.upd.activation with
      | some _, _ => newTick b (t + 1) s
      | none, some a => newTick b (t + 1) (beginPause a s)
      | none, none => settleAtOnce { newTick b (t + 1) s with cap.isOn := true }

/-- A boundary: processing that is still open ends, the seal of the log before closes, and the next tick begins
(R12, R26, R39). -/
def boundary (b : BoundaryIn) (s : State) : State :=
  let s := finishProcessing 0 { s with out := [], twin.peerN := b.peerLow }
  match s.sys.mode with
  | .running => runningBoundary b s
  | .waiting => newTick b s.cap.tick { s with twin.ownTick := s.twin.ownTick + 1 }
  | .pause =>
    match s.upd.activation with
    | some a => if s.upd.deadWindow then resumeActivated b a s else newTick b (s.cap.tick + 1) s
    | none => newTick b (s.cap.tick + 1) s
  | _ => s

/-- TICK_BOUNDARY (R12). (DEDUCED, log 9) -/
def execTickBoundary (b : BoundaryIn) (s : State) : Answer := whenClock s fun s => settlePins (boundary b s)

/-- PROCESS_LOG (R26, R28): the processing of the frozen log ends with its seal built and, where R37 calls for it, signed. -/
def execProcessLog (p : ProcessIn) (s : State) : Answer :=
  whenProcessing s fun s =>
    if s.twin.role = .mirror then mirrorAdvance (finishProcessing p.durationUs s) else finishProcessing p.durationUs s

/-! ### Inputs of a log (R19, R23, R580) -/

/-- An input under the faults drawn for its frame; one that its line or bearer has failed makes no input (R579, R581).
(DESIGN CHOICE, log 105) -/
def faultedInput (e : LogEntry) (d : Option FaultDraw) (s : State) : State :=
  match d with
  | none => appendInput e s
  | some d =>
    let (eff, s) := injectFault d.link true d.failed s
    if d.failed then s
    else match eff with
      | .corrupt _ _ => s
      | eff => receiveInput d.link eff e s

/-- INPUT_APPEND (R19): an input that no command of its own makes. A serial port that is off receives nothing; a fragment of
an IPv6 datagram makes no input until its datagram is complete (R249, R454). (DESIGN CHOICE, log 13)
(DESIGN CHOICE, log 105) -/
def execInputAppend (e : LogEntry) (draw : Option FaultDraw) (s : State) : Answer :=
  whenCapturing s fun s =>
    let p := e.port.toNat
    if (p = 6 ∨ p = 7) ∧ hwCfg s 0x0401 (p - 6) 4 1 0 = 0 then s
    else if p = 0 ∧ e.kind = 5 ∧ isFragment e.body = true then
      let (whole, l) := takeIpFragment e.body s.bey.reassembly
      let s : State := { s with bey.reassembly := l }
      match whole with
      | some d => faultedInput { e with body := d } draw s
      | none => s
    else faultedInput e draw s

/-- DEFERRED_INPUT_ENTRY (R23). -/
def execDeferredInputEntry (s : State) : Answer := whenCapturing s takeDeferred

/-- REORDER_BOUNDARY_RELEASE (R580). -/
def execReorderBoundaryRelease (s : State) : Answer :=
  whenCapturing s fun s => placeReleased (takeDeferredAll s.cap.carried s)

end Sys2Proof.Machine
end

