-- ==== Sys2Proof/Machine/Twin.lean ====
section
/-!
DEFINITION. The commands of the Holham link, the lease, the witness and the role changes of a twin pair (chapter 12).
-/
namespace Sys2Proof.Machine

open Sys2Proof

/-! ### The link (R429 to R431) -/

/-- The link takes frames while the unit runs, or waits for its peer, as a member of a pair (R424, R433). -/
def linkOn (s : State) : Bool := (s.sys.mode == .running || s.sys.mode == .waiting) && twinMember s

/-- HOLHAM_LINK_UP: numbering starts again and HELLO goes out (R429, R431). -/
def execHolhamLinkUp (s : State) : Answer :=
  done s (if linkOn s && !s.twin.linkUp then
    sendHello { s with twin.linkUp := true, twin.txSeq := 0, twin.rxSeq := 0, twin.unacked := [] }
  else s)

/-- HOLHAM_LINK_DOWN (R429). -/
def execHolhamLinkDown (cause : LinkDownCause) (s : State) : Answer :=
  done s (if linkOn s then holhamDown cause s else s)

/-- Every frame not acknowledged is sent again, with RETRY (R431). (DEDUCED, log 76) -/
def resend (s : State) : State :=
  s.twin.unacked.foldl (fun s f => holhamOut f true s)
    { s with twin.retransmits := s.twin.retransmits.add s.twin.unacked.length }

/-- HOLHAM_RETRANSMIT_TIMEOUT (R431). -/
def execHolhamRetransmitTimeout (s : State) : Answer :=
  done s (if linkOn s && s.twin.linkUp then resend s else s)

/-- HOLHAM_IDLE_ACK (R429). -/
def execHolhamIdleAck (s : State) : Answer := done s (if linkOn s then holhamAck s else s)

/-- A frame arrives under the faults injected on the link: a dropped one is lost, a reordered one too, which the delivery
recovers; one whose CRC fails counts (R430, R431, R579). -/
def holhamFrame (h : HolhamHdr) (f : State → State) (s : State) : Answer :=
  done s (if !linkOn s || !s.twin.linkUp then s
    else match injectFault 5 true (!h.crcOk) s with
      | (.drop, s) => s
      | (.reorder, s) => s
      | (.corrupt _ _, s) => { s with twin.crcErrors := s.twin.crcErrors.inc }
      | (.pass, s) => if h.crcOk then f s else { s with twin.crcErrors := s.twin.crcErrors.inc })

/-- A numbered frame: taken in order only, and acknowledged (R431). (DEDUCED, log 76) -/
def holhamIn (h : HolhamHdr) (f : State → State) (s : State) : Answer :=
  holhamFrame h (fun s => if h.seq ≠ s.twin.rxSeq then holhamAck s else f (holhamAck { s with twin.rxSeq := s.twin.rxSeq + 1 })) s

/-- HOLHAM_ACK: frames up to the number are let go; an ACK that acknowledges nothing while frames are outstanding shows a
gap (R431). (DEDUCED, log 76) -/
def execHolhamAck (h : HolhamHdr) (seqAck : BitVec 32) (s : State) : Answer :=
  holhamFrame h (fun s =>
    let l := s.twin.unacked
    match l.findIdx? (·.seq == seqAck) with
    | some i => pump { s with twin.unacked := l.drop (i + 1) }
    | none => if l.isEmpty then s else resend s) s

/-! ### Pairing (R433) -/

/-- The unit becomes primary and resumes its own recovered chain at the next boundary (R433, R49). -/
def becomePrimary (s : State) : State :=
  { s with sys.mode := .running, sys.firstTick := true, cap.isOn := false, cap.tick := resumeTick s, twin.role := .primary,
           twin.waitingHello := false, twin.termAt := none }

/-- The unit becomes STARTING (R428, R433). -/
def becomeStarting (s : State) : State :=
  { s with sys.mode := .running, twin.role := .mirror, twin.standby := .starting, twin.waitingHello := false,
           twin.termAt := none, twin.asked := false }

/-- The peer's configuration image is this unit's, by the first 8 bytes of its digest (R432). -/
def sameImage (p : HelloIn) (s : State) : Bool := digest8 p.imageDigest == digest8 s.sys.image.digest

/-- The pairing table, a HELLO having come; in QUARANTINE the unit pairs only as HELD (R428, R433). (DEDUCED, log 83) -/
def pairingTable (p : HelloIn) (s : State) : State :=
  let own := ownEui s
  let quarantined := lifeState s == .quarantine
  if sameImage p s then
    if quarantined then raiseU 0x900F [1] { becomeStarting s with twin.standby := .held }
    else match p.role with
      | 1 => sendRejoin (becomeStarting s)
      | 0 =>
        let d := durableTick s
        if p.durable.toNat < d ∨ (p.durable.toNat = d ∧ own < p.eui) then becomePrimary s else becomeStarting s
      | _ => becomePrimary s
  else if p.role = 0 ∧ own < p.eui ∧ quarantined = false then becomePrimary s
  else toFenced { s with sys.mode := .running, twin.waitingHello := false }

/-- Role named by TWIN_PAIRED: as ROLE of TWIN_STATUS. -/
def pairedEvent (p : HelloIn) (s : State) : State :=
  if s.twin.paired then s
  else raiseU 0x9001 [euiLow p.eui, p.eui.toNat / 2 ^ 32, twinRoleCode s] { s with twin.paired := true }

/-- A HELLO is kept and reported, with what differs (R432, R453). -/
def noteHello (p : HelloIn) (s : State) : State :=
  let s := raiseU 0x9003 [p.role] { s with twin.peer := some p }
  if sameImage p s then s else raiseU 0x900E [ofLe (s.sys.image.digest.take 4), ofLe (p.imageDigest.take 4)] s

/-- The pairing is open: the unit waits for HELLO, or is STARTING (R433). -/
def pairingOpen (s : State) : Bool := s.sys.mode == .waiting || (s.twin.role == .mirror && s.twin.standby == .starting)

/-- What a HELLO decides (R433, R442, R447). -/
def settleHello (p : HelloIn) (s : State) : State :=
  if pairingOpen s then pairingTable p s
  else if sameImage p s && p.role == 1 && s.twin.role == .mirror && s.twin.standby != .synced && s.twin.standby != .held then
    toRejoining s
  else s

/-- HELLO (R432, R433, R442, R447). -/
def takeHello (p : HelloIn) (s : State) : State :=
  let s := noteHello p s
  if sameImage p s then pairedEvent p (settleHello p s) else settleHello p s

/-- HELLO. -/
def execHello (h : HolhamHdr) (p : HelloIn) (s : State) : Answer := holhamIn h (takeHello p) s

/-- HELLO_WAIT_TIMEOUT (R433): with TWIN_PEER_N asserted the unit becomes STARTING; else it waits, and queries the witness where
there is one. -/
def execHelloWaitTimeout (peerLow : Bool) (s : State) : Answer :=
  done s (if s.sys.mode = .waiting ∧ s.twin.waitingHello = true then
    let s : State := { s with twin.waitingHello := false, twin.peerN := peerLow }
    if peerLow then becomeStarting s else s
  else s)

/-! ### Logs, lease and comparison at the mirror (R434 to R439) -/

/-- Bytes of the logs that a unit holds. (DEDUCED, log 84) -/
def heldBytes (l : List ShippedLog) : Nat := (l.flatMap fun x => x.entries.map entrySize).foldl (· + ·) 0

/-- The unit keeps the logs it receives: every standby state but HELD (R428, R434, R447). (DEDUCED, log 84) -/
def keepsLogs (s : State) : Bool := s.twin.role == .mirror && s.twin.standby != .held

/-- What a mirror holds stays within 4 MiB: a transfer in progress is dropped and asked for again, else the oldest log goes
(R447). (DEDUCED, log 84) -/
def boundLogs (s : State) : State :=
  if heldBytes s.twin.logs ≤ 4194304 then s
  else if s.twin.standby = .rejoining ∧ (s.twin.xferCount ≠ 0 ∨ s.twin.loaded.isSome) then sendRejoin { s with twin.logs := [] }
  else { s with twin.logs := s.twin.logs.drop 1 }

/-- The log of a tick that is being received. -/
def modShipped (t : BitVec 48) (f : ShippedLog → ShippedLog) (s : State) : State :=
  if s.twin.logs.any (·.tick == t) then
    { s with twin.logs := s.twin.logs.map fun l => if l.tick == t then f l else l }
  else { s with twin.logs := s.twin.logs ++ [f ⟨t, [], false, false, false, 0, []⟩] }

/-- LOG (R434). (DESIGN CHOICE, log 107) -/
def execLog (h : HolhamHdr) (entries : List LogEntry) (s : State) : Answer :=
  holhamIn h (fun s =>
    if !keepsLogs s then s
    else boundLogs (modShipped h.tick (fun l => { l with entries := l.entries ++ entries }) s)) s

/-- A unit FENCED for want of an answer becomes SYNCED with a LEASE and a log that continues its chain (R445). -/
def fencedSynced (s : State) : State :=
  if s.twin.role = .mirror ∧ s.twin.standby = .fenced ∧ s.twin.renewed = true then
    match nextShipped s with
    | some l => if l.first && l.complete then { s with twin.standby := .synced, twin.matched := true } else s
    | none => s
  else s

/-- LOG_END: the log is complete where count, bytes and hash agree (R434). -/
def execLogEnd (h : HolhamHdr) (p : LogEndIn) (s : State) : Answer :=
  holhamIn h (fun s =>
    if !keepsLogs s then s
    else
      let s := modShipped h.tick (fun l =>
        let bs := l.entries.flatMap entryBytes
        { l with complete := decide (l.entries.length = p.entries) && decide (bs.length = p.bytes) && decide (sha256 bs = p.logHash),
                 first := p.first, last := p.last, m := p.m, prevHash := p.prevHash }) s
      fencedSynced (if p.last then { s with twin.lastLog := some h.tick } else s)) s

/-- LEASE: the renewed boundary, from which a unit that is no primary counts its ticks; a standing PEER_SILENT is void
(R435, R439, R442). A unit paired as STARTING with a starting peer sends REJOIN at the first one (R433). (DEDUCED, log 81) -/
def takeLease (t : BitVec 48) (s : State) : State :=
  if s.twin.role ≠ .mirror then s
  else
    let tick := if s.cap.tick = t ∨ s.cap.tick = t + 1 then s.cap.tick else t + 1
    let s : State := { s with twin.renewal := t, twin.renewed := true, twin.silentTick := none, cap.tick := tick }
    let s := if s.twin.standby = .starting ∧ s.twin.asked = false then sendRejoin s else s
    fencedSynced s

/-- LEASE. (DESIGN CHOICE, log 107) -/
def execLease (h : HolhamHdr) (s : State) : Answer := holhamIn h (takeLease h.tick) s

/-- MIRROR_LOG_INCOMPLETE (R436): at its boundary T+1 a SYNCED mirror lacks log T while renewals arrive. (DEDUCED, log 81) -/
def execMirrorLogIncomplete (s : State) : Answer :=
  done s (if s.sys.mode = .running ∧ s.twin.role = .mirror ∧ s.twin.standby = .synced ∧ s.work.isOpen = false
      ∧ s.cap.tick.toNat ≤ s.twin.renewal.toNat + 2
      ∧ (s.sys.prevSeal.any fun p => decide (p.1.toNat + 3 ≤ s.cap.tick.toNat)) = true
      ∧ ((nextShipped s).any fun l => l.complete) = false ∧ s.twin.lastLog = none then
    toRejoining s
  else s)

/-- ORPHAN_DETECT (R439): 2 ms past boundary A+1 with no LEASE for it. Between the last log of a term and the first of the next
no renewal is due. (DEDUCED, log 81) -/
def execOrphanDetect (s : State) : Answer :=
  done s (if s.sys.mode = .running ∧ s.twin.role = .mirror ∧ s.twin.standby = .synced
      ∧ s.twin.renewal.toNat + 2 ≤ s.cap.tick.toNat ∧ s.twin.termAt = none
      ∧ (s.twin.lastLog.any fun l => decide (s.cap.tick.toNat ≤ l.toNat + 4)) = false then
    raiseU 0x9004 [s.twin.renewal.toNat % 2 ^ 32]
      { s with twin.standby := .orphaned, twin.queryTick := none, twin.silentTick := none, twin.lapsed := false }
  else s)

/-- LEASE_LAPSE (R439): boundary A+50. -/
def execLeaseLapse (s : State) : Answer :=
  done s (if s.twin.role = .mirror ∧ s.twin.standby = .orphaned ∧ s.twin.renewal.toNat + 51 ≤ s.cap.tick.toNat then
    { s with twin.lapsed := true }
  else s)

/-! ### STATUS and REJOIN at the primary (R438, R447) -/

/-- The frame as the log holds it: its header and payload (R22, R430). -/
def holhamBody (h : HolhamHdr) (type : Nat) (payload : Bytes) : Bytes :=
  (⟨type, h.tick, h.seq, payload⟩ : HolhamTx).header h.retry ++ payload

/-- STATUS: it enters the primary's log (R19, R438). (DESIGN CHOICE, log 107) -/
def execStatus (h : HolhamHdr) (p : StatusIn) (arrival : BitVec 32) (s : State) : Answer :=
  holhamIn h (fun s =>
    if !capturing s then s
    else
      let b := [BitVec.ofNat 8 p.standby, BitVec.ofNat 8 (bit p.isMatch + 2 * bit p.fillDone)] ++ le 2 p.procVersion.toNat
        ++ le 6 p.lastSeal.toNat ++ zeros 6
      appendInput ⟨5, 7, arrival, holhamBody h holStatus b, none⟩ s) s

/-- REJOIN: it enters the primary's log (R19, R447). -/
def execRejoin (h : HolhamHdr) (durable : BitVec 48) (arrival : BitVec 32) (s : State) : Answer :=
  holhamIn h (fun s =>
    if !capturing s then s
    else appendInput ⟨5, 7, arrival, holhamBody h holRejoin (le 6 durable.toNat ++ zeros 2), none⟩ s) s

/-! ### Swaps (R445, R446) -/

/-- HANDOVER: answered once seal S has closed here; in a transfer swap, once the transfer is verified (R445, R446). -/
def execHandover (h : HolhamHdr) (transfer : Bool) (sealHash : List Byte) (s : State) : Answer :=
  holhamIn h (fun s =>
    if s.twin.role ≠ .mirror then s
    else
      let s : State := { s with twin.handover := some (h.tick, sealHash, transfer), twin.xferIn := [], twin.xferCount := 0 }
      if transfer then
        if s.twin.standby = .held then { s with twin.xferSwap := true }
        else holhamSend holAnswer h.tick ([1, 3] ++ zeros 6) { s with twin.handover := none }
      else if s.closing.any (fun c => c.1.tick == h.tick) then answerHandover (mirrorClose s)
      else answerHandover s) s

/-- The processing versions of the units differ (R450). (DEDUCED, log 83) -/
def versionsDiffer (s : State) : Bool := s.twin.peer.any fun p => p.procVersion != s.upd.fw.procVersion

/-- The old primary is a mirror of the new one: SYNCED, or HELD when the versions differ (R445, R446). (DEDUCED, log 81) -/
def becomeMirror (t : BitVec 48) (s : State) : State :=
  { s with twin.role := .mirror, twin.standby := if versionsDiffer s then .held else .synced, twin.waitAnswer := none,
           twin.swapAt := none, twin.matched := true, twin.logs := [], twin.renewal := t, twin.lastLog := none,
           twin.renewed := false, twin.asked := false, twin.fillDone := true }

/-- An answer for seal `t` (R445, R446). -/
def takeAnswer (t : BitVec 48) (accept : Bool) (cause : Nat) (s : State) : State :=
  if s.twin.waitAnswer ≠ some t ∨ s.twin.termAt.isSome then s
  else if accept then
    let first := if s.twin.swapTransfer then s.cap.tick + 1 else t + 3
    raiseU 0x900B [t.toNat % 2 ^ 32, first.toNat % 2 ^ 32] (becomeMirror (first - 1) { s with twin.swaps := s.twin.swaps.inc })
  else
    { s with twin.swapRefused := s.twin.swapRefused.inc,
             twin.termAt := if s.twin.swapTransfer then none else some (t + 2),
             pll.events := s.pll.events ++ [(0x900C, [BitVec.ofNat 32 t.toNat, BitVec.ofNat 32 cause])] }

/-- ANSWER (R445, R446). -/
def execAnswer (h : HolhamHdr) (accept : Bool) (cause : Nat) (s : State) : Answer :=
  holhamIn h (takeAnswer h.tick accept cause) s

/-- SWAP_ANSWER_TIMEOUT: no ANSWER by boundary S+2 (R445). -/
def execSwapAnswerTimeout (s : State) : Answer :=
  whenRunning s fun s =>
    match s.twin.waitAnswer with
    | some t =>
      if s.twin.swapTransfer ∨ s.twin.termAt.isSome ∨ s.cap.tick.toNat < t.toNat + 3 then s else toFenced s
    | none => s

/-- TRANSFER_SWAP_TIMEOUT: no ACCEPT by boundary S+59 (R446). -/
def execTransferSwapTimeout (s : State) : Answer :=
  whenRunning s fun s =>
    match s.twin.waitAnswer with
    | some t =>
      if !s.twin.swapTransfer || decide (s.cap.tick.toNat < t.toNat + 60) then s
      else if s.twin.peerN then becomeMirror s.cap.tick s
      else { s with twin.termAt := some (t + 59) }
    | none => s

/-- A starting unit that waited takes the tick in progress as primary of its own recovered chain (R433, R49). -/
def startingTerm (s : State) : State :=
  let u := startLedgers (restartGapUs s) { rebuildArms (stampNs s.cap.log.start) (becomePrimary s) with cap.tick := s.cap.log.tick }
  { u with cap.isOn := true, sys.firstTick := false, twin.primaryN := true, twin.ackTick := u.cap.tick,
           twin.firstM := u.sys.prevSeal.map (·.1), radio.ledgerHw := u.radio.ledger, radio.armsHw := u.radio.arms }

/-- TERM_BEGIN at the boundary fixed for it, TWIN_PEER_N being deasserted (R426, R433, R442, R443, R445, R446). -/
def execTermBegin (s : State) : Answer :=
  done s (match s.twin.termAt with
    | none => s
    | some t =>
      if s.twin.peerN || lifeState s == .quarantine then s
      else if s.sys.mode = .waiting then
        if s.twin.ownTick ≤ t then s
        else settlePins (shipLog false (startingTerm s))
      else if s.sys.mode ≠ .running ∨ s.cap.tick ≤ t then s
      else if s.twin.standby = .orphaned ∧ s.twin.role = .mirror ∧ s.twin.renewed = true then s
      else
        let swap := s.twin.role == .mirror && s.twin.standby != .orphaned
        let old := match s.sys.prevSeal with | some (p, _) => p.toNat | none => 0
        let s := settlePins (beginTerm s)
        if swap then raiseU 0x900B [old % 2 ^ 32, s.cap.tick.toNat % 2 ^ 32] { s with twin.swaps := s.twin.swaps.inc } else s)

/-! ### Transfer and fill at the mirror (R447 to R449) -/

/-- XFER (R448). -/
def execXfer (h : HolhamHdr) (payload : List Byte) (s : State) : Answer :=
  holhamIn h (fun s =>
    if s.twin.role ≠ .mirror ∨ !(s.twin.asked || s.twin.xferSwap) then s
    else
      { s with twin.xferIn := s.twin.xferIn ++ payload, twin.xferCount := s.twin.xferCount + 1,
               twin.standby := if s.twin.xferSwap then s.twin.standby else .rejoining }) s

/-- What a received transfer took is cleared as it loads: seal `x` heads the chain, and older logs go (R447). -/
def transferDone (x : Seal) (s : State) : State :=
  { s with twin.xferIn := [], twin.xferCount := 0, twin.asked := false, twin.xferSwap := false,
           twin.handover := none, twin.fillDone := false, twin.rejoins := s.twin.rejoins.inc,
           twin.logs := s.twin.logs.filter fun l => decide (x.tick < l.tick) }

/-- The life-cycle record differs from the unit's own fuses (R447). -/
def lifeDiffers (s : State) : Bool :=
  let r := s.cov.keys.record
  let f := s.keys.fuses
  decide (r.lifecycle ≠ f.lifecycle ∨ r.revoke ≠ f.revoke ∨ r.tamper ≠ f.tamper)

/-- The unit is HELD, for a life-cycle difference (1) or a version difference (0) (R428, R453). -/
def toHeld (cause : Nat) (s : State) : State := raiseU 0x900F [cause] { s with twin.standby := .held, twin.logs := [] }

/-- A verified transfer is loaded: a life-cycle or version difference holds the unit, a transfer swap is answered, and else the
logs held are processed back to back (R446 to R448, R450). (DEDUCED, log 80) -/
def takeTransfer (x : Seal) (s : State) : State :=
  let u := loadTransfer s.twin.xferIn x (transferDone x s)
  match s.twin.handover.filter fun h => h.2.2 && h.1 == x.tick with
  | some _ =>
    if lifeDiffers u then holhamSend holAnswer x.tick ([1, 5] ++ zeros 6) (toHeld 1 u)
    else if u.twin.peerN then holhamSend holAnswer x.tick ([1, 2] ++ zeros 6) u
    else if x.tick.toNat + 58 < u.cap.tick.toNat then u
    else holhamSend holAnswer x.tick (zeros 8) { u with twin.standby := .rejoining, twin.termAt := some u.cap.tick }
  | none =>
    if lifeDiffers u then toHeld 1 u
    else if versionsDiffer u then toHeld 0 u
    else
      openShipped (u.cap.tick.toNat - 2)
        { u with twin.standby := .rejoining, twin.loaded := some x.tick, twin.matched := true, twin.lastLog := none }

/-- XFER_END (R447): the transfer counts where its entries, bytes and hash agree. -/
def execXferEnd (h : HolhamHdr) (p : XferEndIn) (s : State) : Answer :=
  holhamIn h (fun s =>
    if s.twin.role ≠ .mirror ∨ !(s.twin.asked || s.twin.xferSwap) then s
    else
      let b := s.twin.xferIn
      let ok := decide (b.length = p.bytes) && decide ((streamEntries (b.length / 8 + 1) b).length = p.entries)
        && decide (sha256 b = p.hash)
      if ok then takeTransfer (sealOf p.sealBody p.signature) s
      else if s.twin.xferSwap then
        holhamSend holAnswer h.tick ([1, 5] ++ zeros 6)
          { s with twin.xferSwap := false, twin.handover := none, twin.xferIn := [], twin.xferCount := 0 }
      else sendRejoin s) s

/-- FILL (R449). -/
def execFill (h : HolhamHdr) (slots : List FillSlot) (done_ : Bool) (s : State) : Answer :=
  holhamIn h (fun s =>
    if s.twin.role ≠ .mirror then s
    else
      let s := if storeOn s then slots.foldl placeFill s else s
      if done_ then { s with twin.fillDone := true } else s) s

/-! ### The witness (R439 to R442, R486) -/

/-- The tick by which a unit counts its queries. -/
def queryClock (s : State) : BitVec 48 := if s.sys.mode = .waiting then s.twin.ownTick else s.cap.tick

/-- The unit queries the witness: ORPHANED, or starting after its wait for HELLO (R433, R439). -/
def queries (s : State) : Bool :=
  witnessSet s && ((s.sys.mode == .waiting && !s.twin.waitingHello)
    || (s.sys.mode == .running && s.twin.role == .mirror && s.twin.standby == .orphaned))

/-- KIND of the unit's query: 0 from an ORPHANED mirror, 1 from a starting unit (R439). -/
def queryKind (s : State) : Nat := if s.sys.mode = .waiting then 1 else 0

/-- WITNESS_QUERY: on entry and every 10 ticks until the outcome is settled; a PEER_SILENT from before it stands no more
(R439, R442). -/
def execWitnessQuery (s : State) : Answer :=
  done s (if queries s && s.twin.termAt.isNone && (s.twin.queryTick.all fun q => decide (q + 10 ≤ queryClock s)) then
    let k := queryKind s
    toWitness 0x61
      ([BitVec.ofNat 8 k] ++ zeros 7 ++ euiBytes (ownEui s) ++ le 8 (ledgerIdOf s) ++ le 6 (if k = 1 then durableTick s else 0) ++ zeros 2)
      { s with twin.queryTick := some (queryClock s), twin.silentTick := none }
  else s)

/-- WITNESS_ANSWER enters the standby log (R433, R442). -/
def execWitnessAnswer (silent : Bool) (s : State) : Answer :=
  done s (if queries s && s.twin.queryTick.isSome then
    let s := raiseU 0x9005 [bit silent, queryKind s] s
    if s.sys.mode = .waiting then
      if silent ∧ s.twin.peerN = false then { s with twin.termAt := some (s.twin.ownTick + 8) } else s
    else { s with twin.silentTick := if silent ∧ s.twin.peerN = false then some s.cap.tick else none }
  else s)

/-- HEARTBEAT_ACK (R439). -/
def execHeartbeatAck (s : State) : Answer :=
  whenRunning s fun s => if s.twin.role = .primary then { s with twin.ackTick := s.cap.tick } else s

/-- HEARTBEAT_ACK_TIMEOUT: with the link down and no acknowledgement for 4 ticks, the term ends at the next boundary
(R441). -/
def execHeartbeatAckTimeout (s : State) : Answer :=
  whenCapturing s fun s =>
    if s.twin.role = .primary ∧ s.twin.linkUp = false ∧ witnessSet s = true ∧ s.twin.ackTick.toNat + 4 < s.cap.tick.toNat then
      { s with twin.endDue := true }
    else s

/-- PEER_CONFLICT: TWIN_PEER_N asserted for 1 ms at a primary; the higher EUI-64 ends its term at once (R426).
(DEDUCED, log 83) -/
def execPeerConflict (peer : BitVec 64) (s : State) : Answer :=
  whenRunning s fun s =>
    if s.twin.role = .primary ∧ s.twin.primaryN = true ∧ peer < ownEui s then
      settlePins (raiseU 0x900D [euiLow peer, peer.toNat / 2 ^ 32] (toFenced (endTerm { s with twin.peerN := true })))
    else s

end Sys2Proof.Machine
end

