-- ==== Sys2Proof/Machine/Power.lean ====
section
/-!
DEFINITION. Last gasp, the resets, the VBAT domain, and the links of the Ethernet ports (R48, R73, R552 to R572).
-/
namespace Sys2Proof.Machine

open Sys2Proof

/-! ### Last gasp (R48, R565 to R569) -/

/-- Capture ends at the edge and the log of tick P is closed: what waits for a later log is lost, and nothing transmits any more
(R48, R580). (DEDUCED, log 30) -/
def closeEdgeLog (s : State) : State :=
  let s := settleLog s
  let links := s.test.links.map fun l => (l.1, { l.2 with held := none })
  { s with cap.isOn := false, cap.frozen := { s.cap.log with lastGasp := true }, cap.hasFrozen := true, cap.queue := [],
           cap.reports := [], cap.released := [], test.links := links, plc.onAir := none, plc.reception := none,
           radio.chain0 := none, radio.chain1 := none, radio.ctx := List.replicate 32 none }

/-- The processing in progress completes and its seal closes (R48 step 1, R569). -/
def completeSeal (s : State) : State := closeSeal (finishProcessing 0 s)

/-- Log P is processed in last-gasp form, and seal P closes (R48 steps 2 and 3). (DEDUCED, log 30) -/
def gaspSeal (s : State) : State := completeSeal (openWork s.cap.frozen s)

/-- The flush, with write protect and the marker behind it (R48 step 4, R353, R566). (DEDUCED, log 30) -/
def gaspFlush (deciMs : BitVec 16) (s : State) : State :=
  let last := match s.sys.prevSeal with | some (p, _) => p | none => 0
  let s := storeFlush last s
  { s with recorder := if s.recorder.noGrain then s.recorder else s.recorder.flush, sys.vbat.stage := 3,
           sys.vbat.lgTime := deciMs }

/-- Last-gasp mode up to the stage it reaches before its energy ends: 1 log P closed, 2 the last seal closed, 3 complete.
Nothing leaves the part (R566). (DEDUCED, log 30) -/
def gaspTo (stage : Nat) (deciMs : BitVec 16) (s : State) : State :=
  let captured := capturing s
  let s := if captured then closeEdgeLog s else { s with cap.isOn := false }
  let s : State := { s with sys.vbat.stage := 1 }
  let s := if stage < 2 then s else
    let s := completeSeal s
    { (if captured then gaspSeal s else s) with sys.vbat.stage := 2 }
  if stage < 3 then s else gaspFlush deciMs s

/-- LAST_GASP (R48, R565, R569): a recognised PFAIL_N edge. In the dead window it leaves the M20 dead; ahead of the first tick
captured it only ends programming; a unit that is not primary completes what it processes and flushes. (DEDUCED, log 30) -/
def execLastGasp (stage : Nat) (deciMs : BitVec 16) (s : State) : Answer :=
  done s (if !clockOn s then s
    else if s.upd.deadWindow then settlePins { s with sys.mode := .dead, cap.isOn := false }
    else if s.sys.mode = .running ∧ s.sys.firstTick = true ∧ s.twin.role ≠ .mirror then
      settlePins { s with sys.mode := .gaspDone, store.writeProtect := true }
    else
      let t := gaspTo stage deciMs s
      settlePins { t with sys.mode := .gaspDone, out := s.out, twin.primaryN := false })

/-- PFAIL_RETURN (R568): PFAIL_N high for 100 ms behind a completed last gasp, or behind an edge that ended a start.
(DEDUCED, log 31) -/
def execPfailReturn (s : State) : Answer :=
  done s (if s.sys.mode = .gaspDone ∧ (s.sys.vbat.stage = 3 ∨ s.sys.vbat.stage = 0) then resetUnit 4 s else s)

/-! ### Resets (R553, R558, R559) -/

/-- BROWN_OUT_RESET (R553, R559): cause LAST_GASP behind a completed last gasp, else BROWN_OUT. The supply of the test access
port goes with it. -/
def execBrownOutReset (s : State) : Answer :=
  done s { resetUnit (if s.sys.vbat.stage = 3 then 3 else 2) s with test.tap := Tap.init }

/-- RESET_PIN (R559): RESET_N held low for 10 µs, or released. -/
def execResetPin (low : Bool) (s : State) : Answer :=
  done s (if low then { resetUnit 1 s with test.resetLow := true } else { s with test.resetLow := false })

/-- The core die runs: in service, or in last-gasp mode that has not completed. (DEDUCED, log 32) -/
def coreRuns (s : State) : Bool :=
  clockOn s || s.sys.mode == .halted || (s.sys.mode == .gaspDone && s.sys.vbat.stage != 3)

/-- The CLOCK tamper source acts on a loss of the reference: response, burn and clear of the latch come ahead of the reset
(R418, R558). (DEDUCED, log 32) -/
def clockAlarm (s : State) : State :=
  let t := alarm 8 s
  match t.keys.burns with
  | .mk _ (.quarantineEntry _) :: rest =>
    if t.keys.burns = s.keys.burns then t else clearLatch (burnEntry { t with keys.burns := rest })
  | _ => t

/-- CLOCK_LOSS (R558). (DEDUCED, log 32) -/
def execClockLoss (fault : ClockFault) (s : State) : Answer :=
  doneEntry s (if !coreRuns s then s
    else match fault with
      | .reference => resetUnit 5 (clockAlarm s)
      | .pll => resetUnit 6 s)

/-- WATCHDOG_RESET (R559): an engine silent for 20 ms. (DEDUCED, log 32) -/
def execWatchdogReset (s : State) : Answer := done s (if clockOn s then resetUnit 7 s else s)

/-- OVERRUN_RESET (R559): the processing of a log is not complete at the next boundary. (DEDUCED, log 9)
(DESIGN CHOICE, log 106) -/
def execOverrunReset (s : State) : Answer :=
  done s (if running s && s.work.isOpen then resetUnit 8 s else s)

/-- PFAIL_AT_START (R561): a start held in reset goes on once PFAIL_N has been high for 100 ms. -/
def execPfailAtStart (ms : Nat) (s : State) : Answer :=
  done s (if s.sys.mode = .pfailHeld then { s with sys.mode := .inReset, sys.pfailWait := some ms } else s)

/-! ### The VBAT domain (R570 to R572) -/

/-- VBAT_POWER_ON (R570): every item cleared, VBAT_LOST trips. (DEDUCED, log 33) -/
def execVbatPowerOn (s : State) : Answer :=
  done s (alarm 9 { s with sys.vbat := Vbat.init, keys.latch := none, keys.active := 0 })

/-- VBAT_SAMPLE (R572). -/
def execVbatSample (millivolts : Nat) (s : State) : Answer :=
  whenClock s fun s =>
    let low := decide (millivolts < 2500)
    let t : State := { s with sys.vbatLow := low }
    if low && !s.sys.vbatLowSeen then raiseU 0x0062 [millivolts] { t with sys.vbatLowSeen := true } else t

/-- XTAL32K_STOP (R416, R571): the seconds counter becomes invalid, and the CLOCK tamper source trips. (DEDUCED, log 33) -/
def execXtal32kStop (s : State) : Answer :=
  let t : State := { s with sys.vbat.xtalOk := false, sys.vbat.valid := false }
  done s (if s.keys.active.getLsbD 8 then t else alarm 8 { t with keys.active := t.keys.active ||| 256 })

/-! ### Ethernet links (R73) -/

/-- ETHERNET_LINK_CHANGE (R73): the link of a port with a PHY. A port without one is taken as up. (DESIGN CHOICE, log 34) -/
def execEthernetLinkChange (ethPort : BitVec 2) (up : Bool) (s : State) : Answer :=
  whenClock s fun s =>
    let p := ethPort.toNat
    if hwCfg s 0x0002 p 2 1 0xFF = 0xFF ∨ hwCfg s 0x0002 p 0 1 1 = 0 then s
    else { s with sys.ethUp := s.sys.ethUp.set p up }

end Sys2Proof.Machine
end

