-- ==== Sys2Proof/Machine/TestPort.lean ====
section
/-!
DEFINITION. The test access port and boundary scan (R584, R586, R587).
-/
namespace Sys2Proof.Machine

open Sys2Proof

/-- Value of the IDCODE register (R586). (PRESUMED, log 104) -/
def idcodeValue : Nat := 0x14D20A3B

/-- The instructions that take the balls, EXTEST, CLAMP and HIGHZ, are permitted (R584). (DEDUCED, log 74)
(DEDUCED, log 103) -/
def scanPermitted (s : State) : Bool :=
  match hwLifeState s with | .manufacture | .provision => true | _ => false

/-- Boundary scan holds the balls: one of its instructions is in force and RESET_N is low (R587). (DEDUCED, log 103) -/
def scanTakes (s : State) : Bool :=
  s.test.resetLow && (s.test.tap.inst == 0 || s.test.tap.inst == 3 || s.test.tap.inst == 4)

/-- BYPASS is selected: its one-bit register captures a 0. -/
def selectBypass (s : State) : State := { s with test.tap := { s.test.tap with inst := 15, shifted := 0 } }

/-- A refused instruction selects BYPASS and raises TEST_REFUSED (R584, R586, R589). (DEDUCED, log 103) -/
def refuseInstruction (s : State) : State := raiseU 0xF002 [2, (hwLifeState s).code] (selectBypass s)

/-- An instruction that takes the balls is loaded where the life-cycle state permits it (R584, R587). (DEDUCED, log 103) -/
def loadScan (code : BitVec 4) (s : State) : State :=
  if scanPermitted s then { s with test.tap := { s.test.tap with inst := code, shifted := 0 } } else refuseInstruction s

/-- TAP_RESET (R586): IDCODE is selected. (PRESUMED, log 104) -/
def execTapReset (s : State) : Answer :=
  done s { s with test.tap := { s.test.tap with inst := 2, shifted := idcodeValue } }

/-- EXTEST (R587). -/
def execExtest (s : State) : Answer := done s (loadScan 0 s)

/-- CLAMP (R587). -/
def execClamp (s : State) : Answer := done s (loadScan 3 s)

/-- HIGHZ (R587). -/
def execHighz (s : State) : Answer := done s (loadScan 4 s)

/-- SAMPLE/PRELOAD (R586, R587): the sampled cells leave at TDO while the preloaded ones take their place. -/
def execSamplePreload (balls preload : List Bool) (s : State) : Answer :=
  let cells := (balls ++ List.replicate 166 false).take 166
  let value := cells.foldr (fun b v => 2 * v + bit b) 0
  done s (emit (.tdo value 166) { s with test.tap := { s.test.tap with inst := 1, boundary := (preload ++ List.replicate 166 false).take 166 } })

/-- IDCODE (R586). -/
def execIdcode (s : State) : Answer :=
  done s (emit (.tdo idcodeValue 32) { s with test.tap := { s.test.tap with inst := 2, shifted := idcodeValue } })

/-- BYPASS (R586). -/
def execBypass (s : State) : Answer := done s (emit (.tdo 0 1) (selectBypass s))

/-- TEST_RESET (R586): a reset with cause TEST, except in SCRAP. -/
def execTestReset (s : State) : Answer :=
  done s (if hwLifeState s = .scrap then refuseInstruction s
    else resetUnit 11 { s with test.tap := { s.test.tap with inst := 8, shifted := 0 } })

end Sys2Proof.Machine
end

