-- ==== Sys2Proof/Machine/Start.lean ====
section
/-!
DEFINITION. The start sequence from reset release to the first tick (R57 to R88, R349 to R359, R401, R415, R418, R525, R561 to
R564, R574, R585).
-/
namespace Sys2Proof.Machine

open Sys2Proof

/-! ### The configuration image (R62 to R71) -/

/-- Bytes of the image region: what the region does not hold reads as erased. (DEDUCED, log 27) -/
def imageBytes (img : Bytes) (off len : Nat) : Bytes :=
  ((img ++ List.replicate (off + len - img.length) 0xFF).drop off).take len

/-- A little-endian field of the image region. (DEDUCED, log 24) -/
def imageField (img : Bytes) (off len : Nat) : Nat := ofLe (imageBytes img off len)

/-- The first 128 bytes are all 0xFF (R62). -/
def imageBlank (img : Bytes) : Bool := (imageBytes img 0 128).all (· == 0xFF)

/-- A record of the image as it stands: TYPE with its OPTIONAL bit, LENGTH, INSTANCE and value (R69). -/
structure RawRecord where
  type  : Nat
  len   : Nat
  inst  : Nat
  value : Bytes
  deriving DecidableEq, Repr

/-- TYPE[14:0]. -/
def RawRecord.code (r : RawRecord) : Nat := r.type % 32768

/-- Records that fill a byte string exactly (R69, R70). -/
def parseRecords : Nat → Bytes → Option (List RawRecord)
  | 0, b => if b.isEmpty then some [] else none
  | n + 1, b =>
    if b.isEmpty then some []
    else
      let len := ofLe (slice b 2 2)
      let room := 8 + ceilDiv len 4 * 4
      if b.length < room then none
      else (parseRecords n (b.drop room)).map fun l => ⟨ofLe (slice b 0 2), len, ofLe (slice b 4 2), slice b 8 len⟩ :: l

/-- Types with one record for each instance (R72). -/
def perInstance (t : Nat) : Bool := [0x0002, 0x0101, 0x0401, 0x0501, 0x0502, 0x0F01].contains t

/-- Types of which an image may hold any number of records (R72). -/
def repeatable (t : Nat) : Bool := [0x0301, 0x0302, 0x0402, 0x0403, 0x0801, 0x0A01].contains t

/-- No two records of the list take the place that only one may take (R70). -/
def uniqueRecords : List RawRecord → Bool
  | [] => true
  | r :: rs =>
    (repeatable r.code || (recordLength r.code).isNone || rs.all fun q => q.code != r.code || (perInstance r.code && q.inst != r.inst))
      && uniqueRecords rs

/-- The record structure is valid (R70). -/
def structureOk (count : Nat) (l : List RawRecord) : Bool :=
  decide (l.length = count) && (match l.getLast? with | some e => e.type == 0 && e.len == 0 | none => false)
    && (l.dropLast.all fun r =>
      r.code != 0 && (match recordLength r.code with
        | some n => decide (r.len = n) && (!perInstance r.code || instanceOk r.code r.inst)
        | none => decide (32768 ≤ r.type)))
    && uniqueRecords l

/-- The records that an image gives: END and skipped records apart (R70, R87). (DEDUCED, log 28) -/
def takenRecords (l : List RawRecord) : List ImgRecord :=
  (l.filter fun r => r.code != 0 && (recordLength r.code).isSome).map fun r =>
    ⟨r.code, if perInstance r.code || repeatable r.code then r.inst else 0, r.value⟩

/-- The records of an image region whose header passed its checks (R64, R69). -/
def imageRecords (img : Bytes) : List ImgRecord :=
  let body := imageBytes img 0x80 (imageField img 8 4 - 0xC0)
  takenRecords ((parseRecords body.length body).getD [])

/-- KEY_SEL is permitted in the life-cycle state (R66). (DEDUCED, log 27) -/
def keySelOk (life : LifeCycle) (k : Nat) : Bool :=
  match life with
  | .manufacture => k == 0 || k == 0xFF
  | .provision => k == 1
  | .field => k == 2 || k == 3
  | _ => true

/-- The checks 5 to 9 of R65 in order, on the fuses of `s`; the cause of the first that fails, 0 for none. -/
def checkBody (s : State) (img : Bytes) (records : Option (List RawRecord)) : Nat :=
  let size := imageField img 8 4
  let life := lifeState s
  let sel := imageField img 0x14 1
  let free := life == .quarantine
  let signed := !free && sel != 0xFF
  let key := imageBytes img 0x28 64
  let sig := imageBytes img (size - 64) 64
  if !free && !(keySelOk life sel && (sel == 0xFF || rootLive s sel)) then 0x15
  else if signed && sha256 key != fit 32 (rootFuses s.keys.fuses sel).digest then 0x16
  else if (crc32 (imageBytes img 0x80 (size - 0xC0))).toNat ≠ imageField img 0x68 4 then 0x14
  else if signed && !(ecdsaVerify (ofLe (key.take 32)) (ofLe (key.drop 32)) (sha256 (imageBytes img 0 (size - 64)))
      (ofLe (sig.take 32)) (ofLe (sig.drop 32))) then 0x17
  else match records with
    | some l => if structureOk (imageField img 0xC 4) l then 0 else 0x18
    | none => 0x18

/-- The image checks 1 to 9 (R65): the boot cause, what the start takes from the header, and the records.
(DEDUCED, log 27) -/
def checkImage (s : State) (img : Bytes) : Nat × ImageInfo × List ImgRecord :=
  let none_ : ImageInfo := { ImageInfo.init with digest := sha256 (imageBytes img 0 128) }
  let serial := BitVec.ofNat 32 (imageField img 0x10 4)
  let size := imageField img 8 4
  if lifeState s = .scrap then (0x1A, none_, [])
  else if imageBlank img then (0x01, none_, [])
  else if imageField img 0 4 ≠ 0x49434C57 then (0x10, none_, [])
  else if imageField img 4 2 ≠ 1 ∨ imageField img 6 2 ≠ 0x80 then (0x11, none_, [])
  else if (crc32 (imageBytes img 0 0x7C)).toNat ≠ imageField img 0x7C 4 then (0x13, none_, [])
  else if size < 0xC8 ∨ 0x200000 < size ∨ size % 4 ≠ 0 then (0x12, { none_ with serial := serial }, [])
  else
    let body := imageBytes img 0x80 (size - 0xC0)
    let l := parseRecords body.length body
    let taken := takenRecords (l.getD [])
    let free := lifeState s == .quarantine
    let info : ImageInfo :=
      { blank := false, serial := serial, records := (taken.filter fun r => !(free && (r.type == 0x0801 || r.type == 0x0A01))).length,
        ledgerId := some (BitVec.ofNat 64 (imageField img 0x18 8)),
        newLedger := testBit (imageField img 0x15 1) 0, digest := sha256 (imageBytes img 0 size), prevSerial := 0 }
    (checkBody s img l, info, taken)

/-- A boot report joins the ring; the sector that it begins is erased ahead of it (R68). (DESIGN CHOICE, log 20) -/
def bootReport (cause : Nat) (serial : BitVec 32) (s : State) : State :=
  let count : BitVec 32 := match s.nor.reports with | r :: _ => r.count + 1 | [] => 1
  let r : BootReport := ⟨BitVec.ofNat 8 cause, BitVec.ofNat 8 (lifeState s).code, serial, count⟩
  { s with nor.reports := (r :: s.nor.reports).take (3585 + (count.toNat - 1) % 256) }

/-- The start fails with a boot report, and the M20 halts (R67). (DESIGN CHOICE, log 20) -/
def haltWith (cause : Nat) (serial : BitVec 32) (s : State) : State := halt (bootReport cause serial s)

/-! ### The start configuration (R84) -/

/-- Records laid over others. -/
def overlayRecords (upper base : Tab Bytes) : Tab Bytes := upper.foldl (fun r p => tput r p.1 p.2) base

/-- Records of the image with the snapshot and the APPLIED entries of the journal laid over them (R84). (DEDUCED, log 25) -/
def withJournal (j : Journal) (recs : Tab Bytes) : Tab Bytes := j.overlay (overlayRecords j.snapshot recs)

/-- The start configuration (R84). (DEDUCED, log 24) -/
def startRecords (j : Journal) (quarantine : Bool) (info : ImageInfo) (img : List ImgRecord) : Tab Bytes :=
  let recs := overlayImage quarantine img []
  if j.digest = info.digest then withJournal j recs else recs

/-! ### The store at a start (R349 to R359, R585) -/

/-- What the store finds at step 8. -/
inductive StorePlan where
  | format (newLedger : Bool)   -- no anchor, entry to or exit from a test format, or a new ledger (R78, R358)
  | mismatch (l : BitVec 48)    -- check 10 of R65 fails
  | chain (l : BitVec 48)       -- the latest durable seal
  | empty                       -- an anchor without a chain, or a store formatted for test (R31, R585)
  deriving DecidableEq, Repr

/-- STORE_TEST is set and permitted (R583 to R585). -/
def testWanted (s : State) (recs : Tab Bytes) : Bool := testBit (cfgOf recs 0x0F01 0 0 1 0) 0 && scanPermitted s

/-- The plan of a start (R65 check 10, R78, R349, R358, R585). (DEDUCED, log 26) -/
def storePlan (test : Bool) (st : Store) (info : ImageInfo) : StorePlan :=
  if st.anchorBlocks.isEmpty then .format false
  else if test ≠ (st.mode == .coarseTest) then .format false
  else if test then .empty
  else match st.durable with
    | none => .empty
    | some l =>
      if info.blank || info.ledgerId == st.ledgerId then .chain l
      else if info.newLedger then .format true else .mismatch l

/-- The first tick captured (R31, R49). -/
def StorePlan.first : StorePlan → BitVec 48
  | .chain l | .mismatch l => l + 2
  | _ => 0

/-- A store without a chain keeps its regions alone: nothing else is live (R350, R585). (DEDUCED, log 26) -/
def Store.emptied (st : Store) (test : Bool) : Store :=
  let st : Store := { st with
    mode := if test then .coarseTest else .fine, map := [], directory := [], classes := [], hot := none, copyBlock := none,
    seals := [], records := [], journal := [], packages := [], durable := none, checkpoint := none, ckptDue := none,
    stateDirty := [], dirtyPairs := [], roots := [], writebacks := [], logBlocks := [], coarseMap := [], extrasLedger := none }
  (st.blocks.filter fun b => (b.2.state == .opened || b.2.state == .closed || b.2.state == .released)
      && (decide (b.2.stream < 0x12) || decide (0x14 < b.2.stream))).foldl (fun st b => st.erase b.1) st

/-- The recorder resumes at its write position; its first record is RECORDER_RESUMED (R517, R518, R525). -/
def resumeRecorder (lost : Bool) (s : State) : State :=
  let seq := match (s.recorder.written.filter fun e => !e.2.flags.getLsbD 0).getLast? with
    | some e => e.2.seq + 1
    | none => 0
  let room := s.store.recorderBlocks.isEmpty || decide (2048 ≤ s.store.recorderRoom)
  raiseU 0x0053 [s.recorder.base, bit lost]
    { s with recorder := { s.recorder with nextSeq := seq, full := decide (262143 ≤ s.recorder.base), mark := s.recorder.base,
                                           noGrain := !room } }

/-- Packages that recovery replays: those of the seals after the root (R349). -/
def packagesReplayed (st : Store) (l : BitVec 48) : Nat :=
  (st.seals.filter fun p => decide (p.1 ≤ l.toNat) && (st.roots.isEmpty || decide (st.rootTick < p.1))).length

/-- Recovery to seal L (R349 to R351, R194). -/
def recoverChain (l : BitVec 48) (scan : Bool) (s : State) : State :=
  let st := s.store.recover l (storeNow s) scan
  let ledger := match st.extrasLedger, st.roots with
    | some (t, c), r :: _ => if r.tick < t then c else r.ledger
    | some (_, c), [] => c
    | none, r :: _ => r.ledger
    | none, [] => []
  let n := packagesReplayed s.store l
  let s : State := { s with
    store := st, cov := (stateAsOf s l).getD Covered.init, radio.ledger := ledger, sys.recovery := true,
    sys.prevSeal := some (l, match tget st.seals l.toNat with | some x => x.body.hash | none => []) }
  let s := if scan then raiseU 0x6003 [st.pagesRead, st.map.length] s else s
  raiseU 0x6002 [st.rootTick % 2 ^ 32, l.toNat % 2 ^ 32, n] s

/-- A format (R358): STORE_FORMATTED, and the recorder region empty where it is taken anew. (DEDUCED, log 26) -/
def formatStore (b : StartIn) (recs : Tab Bytes) (test : Bool) (ledger : BitVec 64) (s : State) : State :=
  let (fid, s) := drawWord s
  let st := Store.format b.nand (cfgOf recs 0x0601 0 0 2 0xFFFF) fid.toNat (some ledger) test s.store
  raiseU 0x6001 [st.formatId.toNat, st.lunSet.length, st.usable] { s with store := st }

/-! ### A new chain (R31, R76, R78, R85) -/

/-- The genesis state: the image's records with the journal's APPLIED entries folded in, the entries that the image's other
records make, and the life-cycle record of the fuses. What its installs report falls into the first log (R421).
(DEDUCED, log 23) -/
def genesis (img : List ImgRecord) (fold : Bool) (s : State) : State :=
  let q := lifeState s == .quarantine
  let f := s.keys.fuses
  let recs := overlayImage q img []
  let written := (List.range 3).foldl (fun (w : BitVec 3) i => if (rootFuses f (i + 1)).done then w ||| BitVec.ofNat 3 (2 ^ i) else w) 0
  let s : State := { s with
    cov := { Covered.init with
      sys := { CovSys.init with records := if fold then withJournal s.nor.journal recs else recs },
      keys := { KeyObjs.init with record := ⟨f.lifecycle, f.revoke, f.tamper, written⟩ } },
    sys.genesis := true, work := Work.init }
  let s := (img.filter fun r => r.type == 0x0301 || r.type == 0x0302 || r.type == 0x0801).foldl
    (fun s r => applyImageRecord Src.image r s) s
  let evs := s.work.events.reverse.map fun e => (BitVec.ofNat 16 e.code, e.params.map (BitVec.ofNat 32))
  { s with work := Work.init, pll.events := s.pll.events ++ evs }

/-! ### The journal at a start (R77, R85) -/

/-- The set of a journal entry, where the state holds it pending. -/
def pendingOf (c : Covered) (e : JournalEntry) : Bool :=
  c.sys.sets.any fun p => p.2.boundary == e.boundary && p.2.commit == e.commit

/-- The epoch at which a set that is pending no more applied: the first seal from its boundary on carries COMMIT (R29, R45). -/
def appliedEpoch (st : Store) (l : BitVec 48) (e : JournalEntry) : Option (BitVec 32) :=
  match st.seals.find? fun p => decide (e.boundary.toNat ≤ p.1) && decide (p.1 ≤ l.toNat) with
  | some (_, x) => if e.commit ≤ l && x.body.flags.getLsbD 2 then some x.body.epoch else none
  | none => none

/-- Entries in line with the recovered state: PENDING entries of applied sets marked APPLIED, those of absent sets DROPPED (R85).
(DEDUCED, log 25) -/
def alignEntries (st : Store) (l : BitVec 48) (c : Covered) (es : List JournalEntry) : List JournalEntry :=
  es.map fun e =>
    if e.state ≠ .pending ∨ pendingOf c e then e
    else match appliedEpoch st l e with
      | some n => { e with state := .applied, epoch := n }
      | none => { e with state := .dropped }

/-- Entries of a state. -/
def countState (x : EntryState) (es : List JournalEntry) : Nat := (es.filter fun e => e.state == x).length

/-- JOURNAL_REPAIRED and JOURNAL_DROPPED (R85, R88). (DESIGN CHOICE, log 102) -/
def journalEvents (repaired dropped : Nat) (s : State) : State :=
  let s := if repaired = 0 then s else raiseU 0x0044 [repaired] s
  if dropped = 0 then s else raiseU 0x0045 [dropped] s

/-- The pending sets of a state as the journal holds them. -/
def setEntries (c : Covered) : List (BitVec 48 × BitVec 48 × List Item) :=
  c.sys.sets.map fun p => (p.2.boundary, p.2.commit, p.2.items)

/-- The journal's digest names the image: entries are aligned and missing ones written; a journal that no longer gives the
state's records is rewritten (R84, R85). (DEDUCED, log 25) -/
def alignJournal (l : BitVec 48) (img : List ImgRecord) (s : State) : State :=
  let j := s.nor.journal
  let es := alignEntries s.store l s.cov j.entries
  let lacks := (setEntries s.cov).filter fun x => !(es.any fun e => e.state == .pending && e.boundary == x.1 && e.commit == x.2.1)
  let j' := lacks.foldl (fun j x => j.add (JournalEntry.pending x.1 x.2.1 x.2.2)) { j with entries := es }
  let given := withJournal j' (overlayImage (lifeState s == .quarantine) img [])
  let same := s.cov.sys.records.all fun r => tget given r.1 == some r.2
  let repaired := countState .applied es - countState .applied j.entries + lacks.length
  let dropped := countState .dropped es - countState .dropped j.entries
  if same then journalEvents repaired dropped { s with nor.journal := j' }
  else
    let k := j'.rewritten j.digest j.ledgerId s.cov.sys.records (setEntries s.cov)
    journalEvents (repaired + 1) dropped { s with nor.journal := k }

/-- The journal's digest names another image: the image changed, and the journal is rewritten once seal L+2 is durable
(R77, R85). (DEDUCED, log 24) -/
def changeImage (l : BitVec 48) (info : ImageInfo) (img : List ImgRecord) (s : State) : State :=
  let recs := overlayImage (lifeState s == .quarantine) img s.cov.sys.records
  let lost := (s.nor.journal.entries.filter fun e => e.state == .pending && !pendingOf s.cov e).length
  journalEvents 0 lost
    { s with sys.imageDue := some img, nor.journal.due := [(l + 2, .rewrite info.digest recs (setEntries s.cov))] }

/-- The journal of a new chain: APPLIED entries folded, PENDING ones dropped (R85); erased ahead of it for a new ledger (R78).
(DEDUCED, log 25) -/
def newJournal (fold : Bool) (info : ImageInfo) (ledger : BitVec 64) (s : State) : State :=
  let j := s.nor.journal
  let snap := if fold then j.overlay j.snapshot else []
  let k := j.rewritten info.digest ledger snap []
  let k := if j.digest.isEmpty || !fold then { k with halfB := false } else k
  journalEvents (bit (fold && !snap.isEmpty)) (if fold then countState .pending j.entries else 0) { s with nor.journal := k }

/-! ### Keys at a start (R401, R402, R415, R456) -/

/-- The newer of two copies. (DESIGN CHOICE, log 29) -/
def newerCopy (a b : Option VaultCopy) : Option VaultCopy :=
  match a, b with
  | some x, some y => if x.gen < y.gen then some y else some x
  | some x, none => some x
  | none, b => b

/-- Key unlock (R415, R418): the newest valid copy of NOR, or of the mirror, which NOR then takes. None is read in QUARANTINE.
(DEDUCED, log 28) (DESIGN CHOICE, log 29) (DESIGN CHOICE, log 71) -/
def unlock (s : State) : State :=
  let k := s.keys
  let gens := [k.copyA, k.copyB, k.mirrorA, k.mirrorB].filterMap fun c => c.map (·.gen)
  let high := gens.foldl (fun a g => if a < g then g else a) 0
  if lifeState s = .quarantine ∨ lifeState s = .scrap then s
  else match newerCopy k.copyA k.copyB with
    | some v => { s with keys.highGen := high, keys.inUseB := decide (k.copyB = some v ∧ k.copyA ≠ some v) }
    | none =>
      match newerCopy k.mirrorA k.mirrorB with
      | some v => { s with keys.highGen := high, keys.copyA := some v, keys.inUseB := false, keys.fromMirror := true }
      | none => { s with keys.highGen := high }

/-- Slots of the recovered state take their values: secrets from the vault, public values from the store (R402, R403, R415).
(DEDUCED, log 28) -/
def loadCells (s : State) : State :=
  let vault := if lifeState s = .quarantine then none else if s.keys.inUseB then s.keys.copyB else s.keys.copyA
  let s := (s.cov.keys.slots.filter fun p => p.2.vaulted && intact s p.1).foldl
    (fun s p => match vault.bind fun v => v.entries.find? fun e => e.slot == p.1 && e.gen == p.2.gen && e.type == p.2.type with
      | some e => storeValue p.1 p.2.type p.2.gen.toNat e.value s
      | none => s) s
  loadPublic s

/-- Fuses of the recovered record that are not burned (R401). -/
def unburned (s : State) : BitVec 20 × BitVec 2 × BitVec 10 :=
  let r := s.cov.keys.record
  let f := s.keys.fuses
  (r.lifecycle &&& ~~~f.lifecycle, r.revoke &&& ~~~f.revoke, r.tamper &&& ~~~f.tamper)

/-- The fuses come up to the record, and the M20 resets (R401). -/
def reconcileFuses (serial : BitVec 32) (s : State) : State :=
  let (l, r, t) := unburned s
  let s := if l = 0 then s else burn (.lifecycle l) true s
  let s := if r = 0 then s else burn (.revoke r) true s
  let s := if t = 0 then s else burn (.tamper t) true s
  resetUnit 9 (bootReport 0x1B serial s)

/-! ### The start (R57) -/

/-- Reset release: straps, VBAT domain, boot header and time base (R57 steps 1 and 2, R365, R541, R570, R573). -/
def release (b : StartIn) (s : State) : State :=
  let v := s.sys.vbat
  let s := powerUp s
  let nor := match b.boot with | some h => { s.nor with boot := some h, firmware := [] } | none => s.nor
  let nor := match b.image with | some i => { nor with image := i } | none => nor
  let fw := nor.boot.getD Config.factoryBoot
  { s with
    nor := nor, upd.fw := fw, upd.fresh := fw, upd.fwImage := nor.firmware, time.sec := if v.valid then v.seconds else 1577836837,
    sys.region := b.region, sys.cause := v.cause.getD 0, sys.lgIncomplete := v.stage == 1 || v.stage == 2,
    sys.vbatFresh := v.fresh, sys.bootMs := BitVec.ofNat 16 (sat 16 b.bootMs), sys.pfailWait := none,
    sys.vbat := { v with fresh := false, stage := 0 }, twin.peerN := b.peerLow }

/-- The latch found at power-up: one entry burned, unless the unit stands in QUARANTINE or SCRAP already (R417, R418). -/
def actLatch (s : State) : State :=
  match s.keys.latch with
  | none => s
  | some _ =>
    let s := if lifeState s = .quarantine ∨ lifeState s = .scrap then s else burnEntry s
    { s with keys.latch := none }

/-- An alarm before the end of key unlock halts the start (R418). -/
def startAlarm (source : Nat) (s : State) : State :=
  let s := if s.keys.latch.isSome then s else setLatch (BitVec.ofNat 10 (2 ^ source)) s
  haltWith 0x1C 0 { burnEntry (zeroise s) with keys.latch := none }

/-- The events of the reset behind a start (R574); `l` is the latest durable seal. (DEDUCED, log 22) -/
def resetEvents (stage : BitVec 2) (wait : Option Nat) (l : Nat) (s : State) : State :=
  let s := raiseU 0x0060 [s.sys.cause.toNat, stage.toNat, s.sys.bootMs.toNat, s.sys.vbat.lgTime.toNat] s
  let s := if s.sys.lgIncomplete then raiseU 0x0061 [stage.toNat, l % 2 ^ 32] s else s
  match wait with | some ms => raiseU 0x0063 [ms] s | none => s

/-- The events of the configuration in service (R61, R88). (DEDUCED, log 21) (DEDUCED, log 22) -/
def startEvents (s : State) : State :=
  let recs := s.hw.records
  let s := if s.sys.image.blank then raiseU 0x0041 [s.sys.region.toNat] s
    else raiseU 0x0040 [s.sys.image.serial.toNat, s.sys.image.records] s
  if strapMismatch recs s.sys.region then raiseU 0x0043 [cfgOf recs 0x0001 0 1 1 0, s.sys.region.toNat] s else s

/-- The unit stands before its first tick, or, as a member of a twin pair, before its wait for HELLO (R57 step 9, R433). -/
def standBy (s : State) : State :=
  let s : State := if twinMember s then
      { s with sys.mode := .waiting, twin.role := .mirror, twin.standby := .starting, twin.waitingHello := true }
    else { s with sys.mode := .running }
  sampleFields (settlePins s)

/-- Settings are reloaded from the recovered state, and the unit enters service (R57 step 9). (DEDUCED, log 111) -/
def enterService (s : State) : State :=
  let s : State := { s with hw.record := s.cov.keys.record, view := s.cov, keys.starting := true }
  let s := loadHardware (s.cap.tick.toNat - 1) (loadCells s)
  let s : State := { s with hw.links := [] }
  let s := if (usableSlots s 1).isEmpty then makeEphemeral s else s
  let run := match s.cov.upd.session with | some u => if u.kind = 1 then s.upd.delta.take u.received else [] | none => []
  standBy (testRefusals (startEvents { s with upd.running := run }))

/-- Steps 8 and 9, the pins being armed. (DEDUCED, log 22) -/
def recoverStart (b : StartIn) (latch : Option Latch) (alarmed : Option Nat) (stage : BitVec 2) (wait : Option Nat)
    (cause : Nat) (info : ImageInfo) (img : List ImgRecord) (s : State) : State :=
  let recs := startRecords s.nor.journal (lifeState s == .quarantine) info img
  let test := testWanted s recs
  let plan := storePlan test s.store info
  let lastGasp := match plan with
    | .chain l => (tget s.store.seals l.toNat).any fun x => x.body.flags.getLsbD 5
    | _ => false
  let fresh := match plan with | .format _ => s.store.recorderBlocks.isEmpty | _ => false
  let s : State := { s with cap.tick := plan.first, hw.records := recs, sys.bootCause := BitVec.ofNat 8 cause }
  let s : State := if fresh then { s with recorder := Recorder.init } else s
  let s := resumeRecorder (!lastGasp) s
  let s := match latch with | some x => clearLatch { s with keys.latch := some x } | none => s
  let s := match alarmed with | some n => raiseAlarm (BitVec.ofNat 10 (2 ^ n)) 3 s | none => s
  let s := resetEvents stage wait (match plan with | .chain l => l.toNat | _ => 0) s
  let own := BitVec.ofNat 64 (ofLe (euiBytes (ownEui s)))
  match plan with
  | .mismatch _ => haltWith 0x19 info.serial s
  | .chain l =>
    match b.stateLost with
    | some (pga, kind) => halt (raiseU 0x6009 [pga, kind] (bootReport cause info.serial s))
    | none =>
      let prev := match s.nor.reports.find? fun r => decide (r.cause.toNat ≤ 1) with | some r => r.serial | none => 0
      let s : State := { recoverChain l b.mapLost s with sys.image := { info with ledgerId := s.store.ledgerId, prevSerial := prev } }
      if unburned s ≠ (0, 0, 0) then reconcileFuses info.serial s
      else
        let s := bootReport cause info.serial s
        let s := if s.nor.journal.digest = info.digest then alignJournal l img s else changeImage l info img s
        enterService s
  | .format _ | .empty =>
    let newLedger := decide (plan = .format true)
    let ledger := info.ledgerId.getD own
    let s := bootReport cause info.serial s
    let s : State := match plan with
      | .format _ => formatStore b recs test ledger s
      | _ => { s with store := { s.store.emptied test with ledgerId := if test then none else some ledger } }
    let s := newJournal (!newLedger) info ledger (genesis img (!newLedger) { s with sys.image := { info with ledgerId := some ledger } })
    let s := if newLedger then raiseU 0x0047 [ledger.toNat % 2 ^ 32, ledger.toNat / 2 ^ 32] s else s
    enterService { s with snaps := [] }

/-- The start from reset release on: the boot header, the latch, key unlock and the image (R57). A dead unit arms no pins and
writes no report (R501, R563). (DESIGN CHOICE, log 20) (DEDUCED, log 21) -/
def startUnit (b : StartIn) (s : State) : State :=
  let stage := s.sys.vbat.stage
  let wait := s.sys.pfailWait
  let s := release b s
  if !(s.nor.boot.any (·.sound)) then settlePins { s with sys.mode := .dead }
  else
    let latch := s.keys.latch
    let s := actLatch s
    let trips := match b.tamper with | some n => decide (n < 10) && s.keys.fuses.tamper.getLsbD n | none => false
    let calm := decide (lifeState s = .quarantine ∨ lifeState s = .scrap)
    if trips && !calm then startAlarm (b.tamper.getD 0) s
    else
      let s := unlock s
      let (cause, info, img) := checkImage s s.nor.image
      if 2 ≤ cause then haltWith cause info.serial s
      else recoverStart b latch (if trips then b.tamper else none) stage wait cause info img s

/-- What tells two records of a repeatable type apart (R71): EUI-64, prefix and length, or number. -/
def repeatedKey (r : ImgRecord) : Nat :=
  match r.type with
  | 0x0301 => ofLe (slice r.value 0 8)
  | 0x0302 => ofLe (slice r.value 0 9)
  | 0x0801 => ofLe (slice r.value 0 2) % 8192
  | t => recordKey t r.inst r.value

/-- A record breaks the range of a field, a reserved field, or the decimation settings of R288 (R7, R71).
(DEDUCED, log 108) -/
def recordMisused (r : ImgRecord) : Bool :=
  !valueOk r.type r.value
    || (r.type == 0x0501
        && let m := (responseRom.getD (ofLe (slice r.value 1 1)) (3, 1, 0, 3)).2.1
           let ratio := ofLe (slice r.value 4 4)
           ratio % m != 0 || decide (ratio / m < 8))

/-- Two records of a repeatable type have one key (R71). (DEDUCED, log 108) -/
def keysRepeat : List ImgRecord → Bool
  | [] => false
  | r :: l => (repeatable r.type && l.any fun q => q.type == r.type && repeatedKey q == repeatedKey r) || keysRepeat l

/-- A twin image without an address (R437). (DEDUCED, log 108) -/
def twinUnaddressed (l : List ImgRecord) : Bool :=
  (l.any fun r => r.type == 0x0901 && ofLe (slice r.value 0 1) == 1)
    && !(l.any fun r => r.type == 0x0003 && slice r.value 0 16 != zeros 16)

/-- A valid image whose contents are a misuse that R609 gathers: structure apart nothing of it is checked, and what the
unit does with it is undefined (R5, R71). (DEDUCED, log 108) (DESIGN CHOICE, log 109) -/
def imageMisused (free : Bool) (l : List ImgRecord) : Bool :=
  let l := l.filter fun r => !(free && (r.type == 0x0801 || r.type == 0x0A01))
  l.any recordMisused || keysRepeat l || twinUnaddressed l

/-- A start that went into service, `t`, took an image that is a misuse. (DEDUCED, log 108) -/
def startMisused (b : StartIn) (s t : State) : Bool :=
  let img := (release b s).nor.image
  (t.sys.mode == .running || t.sys.mode == .waiting) && !imageBlank img
    && imageMisused (lifeState t == .quarantine) (imageRecords img)

/-- START (R57): with PFAIL_N asserted the unit waits in reset (R561); otherwise reset is released, RESET_N being high.
(DESIGN CHOICE, log 20) (DEDUCED, log 108) -/
def execStart (b : StartIn) (s : State) : Answer :=
  if s.sys.mode ≠ .inReset ∨ s.test.resetLow = true then doneBoard s s
  else if b.pfailLow then doneBoard s { s with sys.mode := .pfailHeld }
  else if startMisused b s (startUnit b s) then .fault (.undefinedCase 609)
  else doneBoard s (startUnit b s)

end Sys2Proof.Machine
end

