-- ==== Sys2Proof/Machine/Dispatch.lean ====
section
/-!
DEFINITION. The dispatcher: one arm for each command.
-/
namespace Sys2Proof.Machine

open Sys2Proof

/-- What a command does to the state, its queue apart. -/
def exec (i : Instr) (s : State) : Host.Outcome State Fault Refusal :=
  match i with
  | .zeroCrossing intervalNs => Sys2Proof.Machine.execZeroCrossing intervalNs s
  | .crossingMissed cause => Sys2Proof.Machine.execCrossingMissed cause s
  | .tickBoundary b => Sys2Proof.Machine.execTickBoundary b s
  | .processLog p => Sys2Proof.Machine.execProcessLog p s
  | .inputAppend e draw => Sys2Proof.Machine.execInputAppend e draw s
  | .deferredInputEntry => Sys2Proof.Machine.execDeferredInputEntry s
  | .pinEvent pin active stamp => Sys2Proof.Machine.execPinEvent pin active stamp s
  | .pinStuck pin => Sys2Proof.Machine.execPinStuck pin s
  | .lastGasp stage deciMs => Sys2Proof.Machine.execLastGasp stage deciMs s
  | .pfailReturn => Sys2Proof.Machine.execPfailReturn s
  | .brownOutReset => Sys2Proof.Machine.execBrownOutReset s
  | .resetPin low => Sys2Proof.Machine.execResetPin low s
  | .clockLoss fault => Sys2Proof.Machine.execClockLoss fault s
  | .watchdogReset => Sys2Proof.Machine.execWatchdogReset s
  | .overrunReset => Sys2Proof.Machine.execOverrunReset s
  | .pfailAtStart ms => Sys2Proof.Machine.execPfailAtStart ms s
  | .start b => Sys2Proof.Machine.execStart b s
  | .helloWaitTimeout peerLow => Sys2Proof.Machine.execHelloWaitTimeout peerLow s
  | .journalWrite ok => Sys2Proof.Machine.execJournalWrite ok s
  | .preambleDetect phase => Sys2Proof.Machine.execPreambleDetect phase s
  | .ppduReceive p => Sys2Proof.Machine.execPpduReceive p s
  | .ieee1901PpduReceive p => Sys2Proof.Machine.execIeee1901PpduReceive p s
  | .plcPpduStart stripe offsetNs launchGapNs => Sys2Proof.Machine.execPlcPpduStart stripe offsetNs launchGapNs s
  | .plcPpduEnd at_ withdrawn => Sys2Proof.Machine.execPlcPpduEnd at_ withdrawn s
  | .plcLaunch stripe offsetNs late => Sys2Proof.Machine.execPlcLaunch stripe offsetNs late s
  | .beaconQueue org => Sys2Proof.Machine.execBeaconQueue org s
  | .data r u => Sys2Proof.Machine.execData r u s
  | .overheardFrame r => Sys2Proof.Machine.execOverheardFrame r s
  | .joinRequest r eui cls caps => Sys2Proof.Machine.execJoinRequest r eui cls caps s
  | .neighbourReport r u => Sys2Proof.Machine.execNeighbourReport r u s
  | .soundingResponse r downlink => Sys2Proof.Machine.execSoundingResponse r downlink s
  | .leave r => Sys2Proof.Machine.execLeave r s
  | .plcTransmitReport t => Sys2Proof.Machine.execPlcTransmitReport t s
  | .plcQueueAgeWithdraw org queueId => Sys2Proof.Machine.execPlcQueueAgeWithdraw org queueId s
  | .soundingTimeout org => Sys2Proof.Machine.execSoundingTimeout org s
  | .soundingDue org link => Sys2Proof.Machine.execSoundingDue org link s
  | .plcFragTimeout org eui => Sys2Proof.Machine.execPlcFragTimeout org eui s
  | .ieee1901MacFrame org phase eui seq retry secured kind frag u => Sys2Proof.Machine.execIeee1901MacFrame org phase eui seq retry secured kind frag u s
  | .radioDetection chan mode portB at_ => Sys2Proof.Machine.execRadioDetection chan mode portB at_ s
  | .radioSyncLost ctx => Sys2Proof.Machine.execRadioSyncLost ctx s
  | .radioFrameReceive f => Sys2Proof.Machine.execRadioFrameReceive f s
  | .mailboxFrameSend link at_ => Sys2Proof.Machine.execMailboxFrameSend link at_ s
  | .radioTxStart queueId at_ busy => Sys2Proof.Machine.execRadioTxStart queueId at_ busy s
  | .ccaDeferExpiry queueId at_ busy => Sys2Proof.Machine.execCcaDeferExpiry queueId at_ busy s
  | .dwellLedgerRetry queueId at_ => Sys2Proof.Machine.execDwellLedgerRetry queueId at_ s
  | .radioAckWindowClose chain acked framePending => Sys2Proof.Machine.execRadioAckWindowClose chain acked framePending s
  | .radioLaunch at_ => Sys2Proof.Machine.execRadioLaunch at_ s
  | .radioTransmitReport t => Sys2Proof.Machine.execRadioTransmitReport t s
  | .radioQueueAgeWithdraw org queueId => Sys2Proof.Machine.execRadioQueueAgeWithdraw org queueId s
  | .sleeperWindowClose org link wake => Sys2Proof.Machine.execSleeperWindowClose org link wake s
  | .sleeperSearchClose org link wake => Sys2Proof.Machine.execSleeperSearchClose org link wake s
  | .radioFragTimeout org eui => Sys2Proof.Machine.execRadioFragTimeout org eui s
  | .endpointAgingSweep => Sys2Proof.Machine.execEndpointAgingSweep s
  | .childAging => Sys2Proof.Machine.execChildAging s
  | .headEndDatagram org dest datagram => Sys2Proof.Machine.execHeadEndDatagram org dest datagram s
  | .historyFetch slot code readable => Sys2Proof.Machine.execHistoryFetch slot code readable s
  | .dataNotification u time values apdu => Sys2Proof.Machine.execDataNotification u time values apdu s
  | .getResponse u refused values apdu => Sys2Proof.Machine.execGetResponse u refused values apdu s
  | .collectionReadDue slot => Sys2Proof.Machine.execCollectionReadDue slot s
  | .collectionReadTimeout slot => Sys2Proof.Machine.execCollectionReadTimeout slot s
  | .serialReplyTimeout portB => Sys2Proof.Machine.execSerialReplyTimeout portB s
  | .batch b => Sys2Proof.Machine.execBatch b s
  | .tributaryAck version status watermark ledger => Sys2Proof.Machine.execTributaryAck version status watermark ledger s
  | .down org dest datagram => Sys2Proof.Machine.execDown org dest datagram s
  | .tributarySend => Sys2Proof.Machine.execTributarySend s
  | .tributaryResend => Sys2Proof.Machine.execTributaryResend s
  | .tributaryBusyPauseEnd => Sys2Proof.Machine.execTributaryBusyPauseEnd s
  | .balanceEvaluation feeder => Sys2Proof.Machine.execBalanceEvaluation feeder s
  | .tickPackageWrite => Sys2Proof.Machine.execTickPackageWrite s
  | .sealDurable => Sys2Proof.Machine.execSealDurable s
  | .checkpointBegin => Sys2Proof.Machine.execCheckpointBegin s
  | .checkpointComplete => Sys2Proof.Machine.execCheckpointComplete s
  | .historyWriteback slot => Sys2Proof.Machine.execHistoryWriteback slot s
  | .grainProgramFailed block => Sys2Proof.Machine.execGrainProgramFailed block s
  | .blockEraseFailed block => Sys2Proof.Machine.execBlockEraseFailed block s
  | .blockRefresh block => Sys2Proof.Machine.execBlockRefresh block s
  | .blockExpiry => Sys2Proof.Machine.execBlockExpiry s
  | .earlyExpiry => Sys2Proof.Machine.execEarlyExpiry s
  | .garbageCollection => Sys2Proof.Machine.execGarbageCollection s
  | .coarseLogMerge => Sys2Proof.Machine.execCoarseLogMerge s
  | .recorderGrainProgram ok => Sys2Proof.Machine.execRecorderGrainProgram ok s
  | .ptpSync port t1 t2 corr logInterval => Sys2Proof.Machine.execPtpSync port t1 t2 corr logInterval s
  | .ptpDelayExchange port t1 t2 t3 t4 => Sys2Proof.Machine.execPtpDelayExchange port t1 t2 t3 t4 s
  | .announce port a wellFormed => Sys2Proof.Machine.execAnnounce port a wellFormed s
  | .announceTimeout port => Sys2Proof.Machine.execAnnounceTimeout port s
  | .ptpMasterSend port sync departure => Sys2Proof.Machine.execPtpMasterSend port sync departure s
  | .ppsEdge stamp => Sys2Proof.Machine.execPpsEdge stamp s
  | .ppsTimeout => Sys2Proof.Machine.execPpsTimeout s
  | .holdoverExpiry => Sys2Proof.Machine.execHoldoverExpiry s
  | .rtcWrite => Sys2Proof.Machine.execRtcWrite s
  | .leapSecondEnd => Sys2Proof.Machine.execLeapSecondEnd s
  | .triggerPulse output boundary => Sys2Proof.Machine.execTriggerPulse output boundary s
  | .serialLaunch portB at_ => Sys2Proof.Machine.execSerialLaunch portB at_ s
  | .timeSetResponse org slot result => Sys2Proof.Machine.execTimeSetResponse org slot result s
  | .timeSetTimeout org slot => Sys2Proof.Machine.execTimeSetTimeout org slot s
  | .tamperAlarm source active => Sys2Proof.Machine.execTamperAlarm source active s
  | .fuseBurn completed => Sys2Proof.Machine.execFuseBurn completed s
  | .vaultWrite ok => Sys2Proof.Machine.execVaultWrite ok s
  | .vbatSample millivolts => Sys2Proof.Machine.execVbatSample millivolts s
  | .vbatPowerOn => Sys2Proof.Machine.execVbatPowerOn s
  | .holhamLinkUp => Sys2Proof.Machine.execHolhamLinkUp s
  | .holhamLinkDown cause => Sys2Proof.Machine.execHolhamLinkDown cause s
  | .holhamRetransmitTimeout => Sys2Proof.Machine.execHolhamRetransmitTimeout s
  | .holhamAck h seqAck => Sys2Proof.Machine.execHolhamAck h seqAck s
  | .hello h p => Sys2Proof.Machine.execHello h p s
  | .log h entries => Sys2Proof.Machine.execLog h entries s
  | .logEnd h p => Sys2Proof.Machine.execLogEnd h p s
  | .lease h => Sys2Proof.Machine.execLease h s
  | .status h p arrival => Sys2Proof.Machine.execStatus h p arrival s
  | .rejoin h durable arrival => Sys2Proof.Machine.execRejoin h durable arrival s
  | .handover h transfer sealHash => Sys2Proof.Machine.execHandover h transfer sealHash s
  | .answer h accept cause => Sys2Proof.Machine.execAnswer h accept cause s
  | .xfer h payload => Sys2Proof.Machine.execXfer h payload s
  | .xferEnd h p => Sys2Proof.Machine.execXferEnd h p s
  | .fill h slots done => Sys2Proof.Machine.execFill h slots done s
  | .mirrorLogIncomplete => Sys2Proof.Machine.execMirrorLogIncomplete s
  | .orphanDetect => Sys2Proof.Machine.execOrphanDetect s
  | .leaseLapse => Sys2Proof.Machine.execLeaseLapse s
  | .witnessQuery => Sys2Proof.Machine.execWitnessQuery s
  | .witnessAnswer silent => Sys2Proof.Machine.execWitnessAnswer silent s
  | .heartbeatAck => Sys2Proof.Machine.execHeartbeatAck s
  | .heartbeatAckTimeout => Sys2Proof.Machine.execHeartbeatAckTimeout s
  | .termBegin => Sys2Proof.Machine.execTermBegin s
  | .peerConflict peer => Sys2Proof.Machine.execPeerConflict peer s
  | .swapAnswerTimeout => Sys2Proof.Machine.execSwapAnswerTimeout s
  | .transferSwapTimeout => Sys2Proof.Machine.execTransferSwapTimeout s
  | .dtlsClientHello ethPort addr udpPort cookie => Sys2Proof.Machine.execDtlsClientHello ethPort addr udpPort cookie s
  | .dtlsHandshakeComplete c arrival => Sys2Proof.Machine.execDtlsHandshakeComplete c arrival s
  | .dtlsCloseNotify session arrival => Sys2Proof.Machine.execDtlsCloseNotify session arrival s
  | .sessionIdleTimeout session arrival => Sys2Proof.Machine.execSessionIdleTimeout session arrival s
  | .dtlsClientRetry role key => Sys2Proof.Machine.execDtlsClientRetry role key s
  | .ipv6ReassemblyTimeout => Sys2Proof.Machine.execIpv6ReassemblyTimeout s
  | .sealRead m => Sys2Proof.Machine.execSealRead m s
  | .recordRead m => Sys2Proof.Machine.execRecordRead m s
  | .payloadRead m => Sys2Proof.Machine.execPayloadRead m s
  | .proofRead m => Sys2Proof.Machine.execProofRead m s
  | .endpointGet m => Sys2Proof.Machine.execEndpointGet m s
  | .setList m => Sys2Proof.Machine.execSetList m s
  | .lensObserve m => Sys2Proof.Machine.execLensObserve m s
  | .lensRecorder m => Sys2Proof.Machine.execLensRecorder m s
  | .lensClear m => Sys2Proof.Machine.execLensClear m s
  | .subscribe m => Sys2Proof.Machine.execSubscribe m s
  | .unsubscribe m => Sys2Proof.Machine.execUnsubscribe m s
  | .sealNotice session => Sys2Proof.Machine.execSealNotice session s
  | .storeQueryReply session => Sys2Proof.Machine.execStoreQueryReply session s
  | .write m => Sys2Proof.Machine.execWrite m s
  | .stageOpen m => Sys2Proof.Machine.execStageOpen m s
  | .stageAdd m => Sys2Proof.Machine.execStageAdd m s
  | .stageCheck m => Sys2Proof.Machine.execStageCheck m s
  | .stageCommit m => Sys2Proof.Machine.execStageCommit m s
  | .stageDiscard m => Sys2Proof.Machine.execStageDiscard m s
  | .setAbort m => Sys2Proof.Machine.execSetAbort m s
  | .lifecycle m => Sys2Proof.Machine.execLifecycle m s
  | .swapRequest m => Sys2Proof.Machine.execSwapRequest m s
  | .updateOpen m => Sys2Proof.Machine.execUpdateOpen m s
  | .updateData m => Sys2Proof.Machine.execUpdateData m s
  | .updateVerify m => Sys2Proof.Machine.execUpdateVerify m s
  | .updateActivate m => Sys2Proof.Machine.execUpdateActivate m s
  | .updateAbort m => Sys2Proof.Machine.execUpdateAbort m s
  | .updateLockLapse => Sys2Proof.Machine.execUpdateLockLapse s
  | .updateDataWrite ok => Sys2Proof.Machine.execUpdateDataWrite ok s
  | .updateRebuild => Sys2Proof.Machine.execUpdateRebuild s
  | .campaignReadback => Sys2Proof.Machine.execCampaignReadback s
  | .deadWindowOpen ms => Sys2Proof.Machine.execDeadWindowOpen ms s
  | .norRewrite ms ok => Sys2Proof.Machine.execNorRewrite ms ok s
  | .campaignBlockMulticast org => Sys2Proof.Machine.execCampaignBlockMulticast org s
  | .campaignMeterReply org slot reply => Sys2Proof.Machine.execCampaignMeterReply org slot reply s
  | .campaignDeadline => Sys2Proof.Machine.execCampaignDeadline s
  | .campaignConfirm slot => Sys2Proof.Machine.execCampaignConfirm slot s
  | .activateAtPassed => Sys2Proof.Machine.execActivateAtPassed s
  | .meterRequestTimeout org slot => Sys2Proof.Machine.execMeterRequestTimeout org slot s
  | .tariffMeterReply org slot reply => Sys2Proof.Machine.execTariffMeterReply org slot reply s
  | .tariffConfirm slot => Sys2Proof.Machine.execTariffConfirm slot s
  | .reorderBoundaryRelease => Sys2Proof.Machine.execReorderBoundaryRelease s
  | .tapReset => Sys2Proof.Machine.execTapReset s
  | .extest => Sys2Proof.Machine.execExtest s
  | .samplePreload balls preload => Sys2Proof.Machine.execSamplePreload balls preload s
  | .idcode => Sys2Proof.Machine.execIdcode s
  | .clamp => Sys2Proof.Machine.execClamp s
  | .highz => Sys2Proof.Machine.execHighz s
  | .testReset => Sys2Proof.Machine.execTestReset s
  | .bypass => Sys2Proof.Machine.execBypass s
  | .dtlsKeyUpdate session => Sys2Proof.Machine.execDtlsKeyUpdate session s
  | .delayReq port arrival requester => Sys2Proof.Machine.execDelayReq port arrival requester s
  | .pdelayReq port arrival departure => Sys2Proof.Machine.execPdelayReq port arrival departure s
  | .delayReqSend port departure => Sys2Proof.Machine.execDelayReqSend port departure s
  | .xtal32kStop => Sys2Proof.Machine.execXtal32kStop s
  | .neighbourSolicitation ethPort target => Sys2Proof.Machine.execNeighbourSolicitation ethPort target s
  | .holhamIdleAck => Sys2Proof.Machine.execHolhamIdleAck s
  | .ethernetLinkChange ethPort up => Sys2Proof.Machine.execEthernetLinkChange ethPort up s

end Sys2Proof.Machine
end

