-- ==== Sys2Proof/Machine/Step.lean ====
section
/-!
DEFINITION. One step: the command at the front of the queue, or nothing on an empty queue.
-/
namespace Sys2Proof.Machine

open Sys2Proof

/-- One step of the block: the first waiting command acts on the state with the rest of the queue. With nothing
waiting, the block idles. (DESIGN CHOICE, log 1) (DESIGN CHOICE, log 106) -/
def step (s : State) : Host.Outcome State Fault Refusal :=
  match s.pending with
  | [] => .next s
  | c :: rest => exec c { s with pending := rest }

/-- The state with the command that a table word spells put at the front of its queue. -/
def State.withFetchWord (s : State) (nbits w : Nat) : State :=
  match decodeTableWord nbits w with
  | none => s
  | some c => { s with pending := c :: s.pending }

end Sys2Proof.Machine
end

