-- ==== Sys2Proof/Safety.lean ====
section
/-!
DEFINITION. What a safe run is, and the words the statements share.
-/
namespace Sys2Proof.Machine

open Sys2Proof

/-- A step that neither faults nor refuses. -/
def Safe (s : State) : Prop := ∃ t, step s = .next t

/-- `t` with the queue, the fuses and the configuration image region of `s`: all that a command leaves alone whatever else it
does (R59, R391). -/
def kept (s t : State) : State := { t with pending := s.pending, keys.fuses := s.keys.fuses, nor.image := s.nor.image }

/-- A log is being processed on a unit that runs (R28). -/
abbrev Processing (s : State) : Prop := running s = true ∧ s.work.isOpen = true

/-- Nothing waits ahead of a tick's own arrivals: no deferred input, no released frame, no report of the boundary (R23). -/
abbrev Settled (s : State) : Prop :=
  s.cap.queue = [] ∧ s.cap.carried = 0 ∧ s.cap.released = [] ∧ s.cap.reports = []

/-- A unit without a partner captures, and its own arrivals stand behind nothing. -/
abbrev Taking (s : State) : Prop := capturing s = true ∧ s.twin.role = .single ∧ Settled s

/-- A unit without a partner and without a link to one (R424). -/
abbrev Alone (s : State) : Prop :=
  s.twin.role = .single ∧ s.twin.linkUp = false ∧ s.twin.rejoinSeal = none ∧ s.twin.waitAnswer = none ∧ s.twin.endDue = false

/-- Nothing of a log before is still to be done: no processing is open and no seal waits to close. -/
abbrev Rested (s : State) : Prop := s.work.isOpen = false ∧ s.closing = none

/-- What a reset with a cause leaves of `s`: the unit in reset with every output at high impedance, the cause in the VBAT domain,
and what outlives it, NOR, the seals and records of the store, the recorder's programmed records, the fuses and the vault
(R542, R559, R560). -/
structure ResetTo (cause : BitVec 4) (s t : State) : Prop where
  mode     : t.sys.mode = .inReset
  pins     : t.sys.pins = ⟨.hiz, .hiz, .hiz, .hiz, false⟩
  vbat     : t.sys.vbat = { s.sys.vbat with cause := some cause }
  covered  : t.cov = State.reset.cov
  work     : t.work.isOpen = false ∧ t.closing = none ∧ t.cap.isOn = false
  boot     : t.nor.boot = s.nor.boot ∧ t.nor.image = s.nor.image ∧ t.nor.reports = s.nor.reports
  seals    : t.store.seals = s.store.seals ∧ t.store.records = s.store.records ∧ t.store.durable = s.store.durable
  recorder : t.recorder.written = s.recorder.written ∧ t.recorder.staging = []
  fuses    : t.keys.fuses = s.keys.fuses
  vault    : t.keys.copyA = s.keys.copyA ∧ t.keys.copyB = s.keys.copyB
  latch    : t.keys.latch = s.keys.latch
  queue    : t.pending = s.pending

/-- The log as it stands takes one more entry (R23). -/
def logged (e : LogEntry) (s : State) : State := { s with cap.log.entries := s.cap.log.entries ++ [e] }

/-- The header of a numbered frame from the peer (R430, R431). -/
def holhamHeader : Instr → Option HolhamHdr
  | .hello h _ | .log h _ | .logEnd h _ | .lease h | .status h _ _ | .rejoin h _ _ | .handover h _ _ | .answer h _ _
  | .xfer h _ | .xferEnd h _ | .fill h _ _ => some h
  | _ => none

/-- The Holham link is up on a member of a pair, and nothing is injected on it (R429, R576). -/
abbrev LinkPlain (s : State) : Prop :=
  linkOn s = true ∧ s.twin.linkUp = true ∧ faultOn s 5 true = false ∧ faultOn s 5 false = false

/-- A frame from the peer is sound and the next in order (R431). -/
abbrev NextFrame (h : HolhamHdr) (s : State) : Prop := h.crcOk = true ∧ h.seq = s.twin.rxSeq

/-- The ACK that names the highest SEQ received in order leaves (R431). -/
def ackSent (s : State) : State :=
  { s with out := s.out ++ [.holham ⟨holAck, s.cap.tick, 0, le 4 (s.twin.rxSeq - 1).toNat ++ zeros 4⟩ false true] }

/-- A frame in order is counted and acknowledged (R431). -/
def acked (s : State) : State := ackSent { s with twin.rxSeq := s.twin.rxSeq + 1 }

/-- A numbered frame leaves and is held until acknowledged (R430, R431). -/
def framed (type : Nat) (tick : BitVec 48) (payload : Bytes) (s : State) : State :=
  let f : HolhamTx := ⟨type, tick, s.twin.txSeq, payload⟩
  { s with twin.txSeq := s.twin.txSeq + 1, twin.unacked := s.twin.unacked ++ [f], out := s.out ++ [.holham f false true] }

/-- The retransmit buffer has room for a frame with `n` bytes of payload (R431). -/
abbrev HolhamRoom (n : Nat) (s : State) : Prop := unackedBytes s.twin.unacked + (24 + (n + 7) / 8 * 8) ≤ 524288

/-- The type code of a Beysyn message, and the message (R466). -/
def beysynCode : Instr → Option (Nat × Msg)
  | .sealRead m => some (0x10, m)
  | .recordRead m => some (0x11, m)
  | .payloadRead m => some (0x12, m)
  | .proofRead m => some (0x13, m)
  | .endpointGet m => some (0x14, m)
  | .setList m => some (0x15, m)
  | .lensObserve m => some (0x18, m)
  | .lensRecorder m => some (0x19, m)
  | .lensClear m => some (0x1A, m)
  | .subscribe m => some (0x20, m)
  | .unsubscribe m => some (0x21, m)
  | .write m => some (0x28, m)
  | .stageOpen m => some (0x30, m)
  | .stageAdd m => some (0x31, m)
  | .stageCheck m => some (0x32, m)
  | .stageCommit m => some (0x33, m)
  | .stageDiscard m => some (0x34, m)
  | .setAbort m => some (0x35, m)
  | .lifecycle m => some (0x38, m)
  | .swapRequest m => some (0x39, m)
  | .updateOpen m => some (0x40, m)
  | .updateData m => some (0x41, m)
  | .updateVerify m => some (0x42, m)
  | .updateActivate m => some (0x43, m)
  | .updateAbort m => some (0x44, m)
  | _ => none

/-- The place and session of a message of the log under processing. -/
def ctxOf (m : Msg) : MsgCtx := ⟨Src.c0 m.org, m.session, false, m.requestId⟩

/-- A message comes up in the processing of a log outside last gasp: no Beysyn entry before it waits, nor has it been handled
(R46, R48, R458). -/
abbrev Due (m : Msg) (s : State) : Prop :=
  Processing s ∧ s.twin.role ≠ .mirror ∧ s.work.lastGasp = false ∧ s.work.handled.contains (0, m.org.pos) = false
    ∧ ∀ p ∈ s.work.log.entries.zipIdx, p.1.kind = 2 → p.2 < m.org.pos → s.work.handled.contains (0, p.2) = true

/-- A message that comes up is one of a session that has not ended (R457, R461). -/
abbrev Arrives (m : Msg) (x : Session) (s : State) : Prop :=
  Due m s ∧ tget s.bey.sessions m.session = some x ∧ x.ended = none

/-- A message passes what R465 checks ahead of its own type: version, layout and right; it repeats no request that is held, and
a store query has room (R463, R465, R467, R468). -/
abbrev Passes (type right : Nat) (m : Msg) (x : Session) (s : State) : Prop :=
  Arrives m x s ∧ m.version = 1 ∧ layoutOk type m.body = true ∧ testBit (rightsOf s x.digest) right = true
    ∧ (isCached type = true → x.replies.find? (·.1 == m.requestId) = none)
    ∧ (isStoreQuery type = true → queriesFull s m.session = false)

/-- A message of a session is taken up and counted (R488). -/
def tookUp (m : Msg) (s : State) : State :=
  { s with work.handled := (0, m.org.pos) :: s.work.handled, bey.messages := s.bey.messages.inc }

/-- A message is answered: DENIED is an event, and the reply is counted, held and sent, or waits (R464, R467, R468, R489). -/
def answered (type : Nat) (m : Msg) (r : Reply) (s : State) : State :=
  respond (ctxOf m) type (isStoreQuery type) (isCached type) r
    (if r.status = 4 then raise (Src.c0 m.org) 0xA004 [m.session, type] s else s)

/-- What a verifier computes from a leaf hash at position `i` and its sibling hashes, level 0 first (R273). -/
def climb : List Bytes → Nat → Bytes → Bytes
  | [], _, h => h
  | c :: cs, i, h => climb cs (i / 2) (sha256 (if i % 2 = 1 then [1] ++ c ++ h else [1] ++ h ++ c))

/-- Every bit of `old` stands in `new`. -/
def bitsStay {w : Nat} (old new : BitVec w) : Prop := old &&& new = old

/-- Every bit of the first 32 bytes of `old` stands in `new`. -/
def bytesStay (old new : Bytes) : Prop := agrees (fit 32 old) (fit 32 new) = true

/-- A root whose burned bits stay burned. -/
def RootFuses.stays (old new : RootFuses) : Prop :=
  bytesStay old.secret new.secret ∧ bytesStay old.digest new.digest ∧ (old.done = true → new.done = true)

/-- Fuses that only burn: no burned bit clears, and what the factory burned stands (R391, R400). -/
def Fuses.stay (old new : Fuses) : Prop :=
  new.deviceSecret = old.deviceSecret ∧ new.eui = old.eui ∧ new.rootM = old.rootM ∧ new.rootQ = old.rootQ
    ∧ old.rootP.stays new.rootP ∧ old.rootF0.stays new.rootF0 ∧ old.rootF1.stays new.rootF1
    ∧ bitsStay old.lifecycle new.lifecycle ∧ bitsStay old.revoke new.revoke ∧ bitsStay old.tamper new.tamper

/-- The states of a run: each follows the one before it by a step. -/
def Follows : List State → Prop
  | [] => True
  | [_] => True
  | s :: t :: rest => step s = .next t ∧ Follows (t :: rest)

end Sys2Proof.Machine
end

