-- ==== Sys2Proof/Certificates/Slice0/Obligations.lean ====
section
/-!
DEFINITION. The statements for the provers.
-/

open Sys2Proof Sys2Proof.Machine

/-- With a command c in front of the queue, step answers what exec answers for c on the state with the rest of the queue. -/
def Obligations.StepRunsFrontCommand : Prop :=
  ∀ (c : Instr) (rest : List Instr) (s : State),
    s.pending = c :: rest → step s = exec c { s with pending := rest }

/-- On an empty queue step answers the state it was given. That the block idles is the model's choice (assumption log 1):
the spec gives no row for a tick without a command. -/
def Obligations.StepIdlesOnEmptyQueue : Prop :=
  ∀ s : State, s.pending = [] → step s = .next s

/-- Every command but START completes. START completes too, unless the start it performs goes into service with a valid
image that is a misuse of R609, where it is the fault of that rule. A command that completes leaves the queue of waiting
commands as it is; no command but START changes the configuration image region; and no command but FUSE_BURN, CLOCK_LOSS
and START changes a fuse. The model's own readings or choices that it rests on: assumption log 108. -/
def Obligations.CommandsLeaveQueueAndImage : Prop :=
  (∀ (c : Instr) (s t : State), exec c s = .next t → t.pending = s.pending
    ∧ ((∀ b, c ≠ .start b) → t.nor.image = s.nor.image)
    ∧ ((∀ b, c ≠ .start b) → (∀ b, c ≠ .fuseBurn b) → (∀ f, c ≠ .clockLoss f) → t.keys.fuses = s.keys.fuses))
  ∧ (∀ (c : Instr) (s : State), (∀ b, c ≠ .start b) → ∃ t, exec c s = .next t)
  ∧ (∀ (b : StartIn) (s : State), s.sys.mode = .inReset → s.test.resetLow = false → b.pfailLow = false →
      startMisused b s (startUnit b s) = true → exec (.start b) s = .fault (.undefinedCase 609))
  ∧ (∀ (b : StartIn) (s : State), ¬ (s.sys.mode = .inReset ∧ s.test.resetLow = false ∧ b.pfailLow = false
      ∧ startMisused b s (startUnit b s) = true) → ∃ t, exec (.start b) s = .next t)

/-- From every state, whatever waits in its queue, a step leaves every burned bit burned: LIFECYCLE, REVOKE and
TAMPER_ENABLE bits, the secret and digest bits of ROOT_P, ROOT_F0 and ROOT_F1, and their completion fuses; and the device
secret, the EUI-64, ROOT_M and ROOT_Q stand unchanged. -/
def Obligations.FusesOnlyBurn : Prop :=
  ∀ s t : State, step s = .next t → s.keys.fuses.stay t.keys.fuses

/-- Once the LIFECYCLE fuses decode to SCRAP, they decode to SCRAP in every later state of every run: no command sequence
whatever leaves SCRAP. The model's own readings or choices that it rests on: assumption log 73. -/
def Obligations.ScrapIsFinal : Prop :=
  ∀ (s : State) (l : List State), Follows (s :: l) → decodeLife s.keys.fuses.lifecycle.toNat = .scrap →
    ∀ t ∈ l, decodeLife t.keys.fuses.lifecycle.toNat = .scrap

/-- For every value of the 20 LIFECYCLE fuses: SCRAP when bit 19 is set; else QUARANTINE when more bits of [10:2] than of
[18:11] are set; else FIELD when bit 1 is set, PROVISION when bit 0 is set, MANUFACTURE otherwise. -/
def Obligations.LifeCycleDecoding : Prop :=
  ∀ l : BitVec 20,
    let entries := ((List.range 9).filter fun i => l.getLsbD (2 + i)).length
    let returns := ((List.range 8).filter fun i => l.getLsbD (11 + i)).length
    decodeLife l.toNat =
      if l.getLsbD 19 then .scrap
      else if returns < entries then .quarantine
      else if l.getLsbD 1 then .field
      else if l.getLsbD 0 then .provision
      else .manufacture

/-- In FREE_RUN a crossing whose interval, and whose average over the latest at most 8 intervals, lie in range begins
ACQUIRING. In ACQUIRING the interval that completes a run of 32, each within 2 % of the one before and in range, locks and
begins steering, with PLL_LOCKED noted for the next log. A loss of lock from LOCKED returns to FREE_RUN, counts and notes
its cause; in FREE_RUN it changes nothing. The model's own readings or choices that it rests on: assumption log 10, 11. -/
def Obligations.TickLockStates : Prop :=
  (∀ (s : State) (i : Nat), clockOn s = true → s.pll.lock = .freeRun → periodsOk 1 i = true →
      averageOk ((i :: s.pll.intervals).take 8) = true →
      exec (.zeroCrossing (some i)) s =
        .next { s with pll.intervals := (i :: s.pll.intervals).take 8, pll.lock := .acquiring, pll.run := 1 })
  ∧ (∀ (s : State) (i p : Nat) (rest : List Nat), clockOn s = true → s.pll.lock = .acquiring → s.pll.intervals = p :: rest →
      periodsOk 1 i = true → within2 p i = true → averageOk ((i :: s.pll.intervals).take 8) = true → 31 ≤ s.pll.run →
      exec (.zeroCrossing (some i)) s =
        .next { s with pll.intervals := (i :: s.pll.intervals).take 8, pll.lock := .locked, pll.run := s.pll.run + 1,
                       pll.steering := true,
                       pll.events := s.pll.events ++ [(0x0010, [BitVec.ofNat 32 (measuredMilliHz ((i :: s.pll.intervals).take 8))])] })
  ∧ (∀ (s : State) (c : LockLossCause), clockOn s = true → s.pll.lock = .locked →
      exec (.crossingMissed c) s =
        .next { s with pll.lock := .freeRun, pll.run := 0, pll.steering := false, pll.phase60 := 0,
                       pll.lockLosses := s.pll.lockLosses.inc,
                       pll.events := s.pll.events ++ [(0x0011, [match c with | .missed => 0 | .outOfRange => 1])] })
  ∧ (∀ (s : State) (c : LockLossCause), s.pll.lock = .freeRun → exec (.crossingMissed c) s = .next s)

/-- On a unit without a partner whose own arrivals stand behind nothing, an input whose line has no faults injected
becomes the last entry of the log while the log has fewer than 16,384 entries and stays within 1 MiB; else it waits in the
capture queue and counts in LOG_DEFERRED while the queue has room; else it is dropped and counts in CAPTURE_DROPPED.
Nothing else changes. The model's own readings or choices that it rests on: assumption log 8, 13. -/
def Obligations.InputTakesItsPlace : Prop :=
  ∀ (s : State) (e : LogEntry), Taking s → e.port ≠ 6 → e.port ≠ 7 → e.kind ≠ 5 →
    exec (.inputAppend e none) s = .next (
      if s.cap.log.takes e then logged e s
      else if queueRoom s e then { s with cap.queue := [e], sys.logDeferred := s.sys.logDeferred.inc }
      else { s with sys.captureDropped := s.sys.captureDropped.inc })

/-- The oldest input deferred at an earlier tick enters the log, which is marked deferred; where the log does not take it,
all that wait go on waiting. At a release the frames held for reorder enter the log in their order where it takes each. -/
def Obligations.DeferredInputsGoFirst : Prop :=
  (∀ (s : State) (e : LogEntry) (q : List LogEntry) (n : Nat), capturing s = true → s.twin.role = .single →
      s.cap.queue = e :: q → s.cap.carried = n + 1 →
      exec .deferredInputEntry s = .next (
        if s.cap.log.takes e then
          { s with cap.queue := q, cap.carried := n, cap.log.deferred := true, cap.log.entries := s.cap.log.entries ++ [e] }
        else { s with cap.carried := 0 }))
  ∧ (∀ (s : State) (e : LogEntry), capturing s = true → s.twin.role = .single → s.cap.queue = [] → s.cap.carried = 0 →
      s.cap.released = [e] → s.cap.log.takes e = true →
      exec .reorderBoundaryRelease s =
        .next { s with cap.released := [], cap.log.entries := s.cap.log.entries ++ [e] })

/-- On a unit that captures, the first edge that CAPTURE selects on an input in a tick makes one log entry of kind 0x04
with the stamp of the edge; a further edge of the tick makes no entry and adds one to MORE of that entry, saturating at
0xFFFF. An input held active in 1,000 consecutive entries raises PIN_STUCK, which is not raised again until the input has
been inactive. The model's own readings or choices that it rests on: assumption log 63. -/
def Obligations.CapturedEdges : Prop :=
  (∀ (s : State) (pin : Fin 4) (at_ : FullStamp),
      let p : PinInput := { pinInput s pin.val with active := true, seen := true, entry := some ⟨at_, 0⟩ }
      let e : LogEntry := ⟨0, 4, BitVec.ofNat 32 ((at_.sec.toNat * 1000000000 + at_.ns.toNat) % 2 ^ 32),
        captureBytes pin.val true ⟨at_, 0⟩, none⟩
      Taking s → captureOn s pin.val = true → (pinInput s pin.val).entry = none → s.cap.log.takes e = true →
      exec (.pinEvent pin true at_) s = .next (logged e (setPin pin.val p s)))
  ∧ (∀ (s : State) (pin : Fin 4) (at_ : FullStamp) (c : Capture),
      let c' : Capture := { c with more := BitVec.ofNat 16 (min (c.more.toNat + 1) 65535) }
      capturing s = true → captureOn s pin.val = true → (pinInput s pin.val).entry = some c →
      exec (.pinEvent pin true at_) s =
        .next (updateCapture pin.val true c'
          (setPin pin.val { pinInput s pin.val with active := true, seen := true, entry := some c' } s)))
  ∧ (∀ (s : State) (pin : Fin 4), Processing s → s.work.handled.contains (0x3000, 0) = true →
      1000 ≤ (pinInput s pin.val).heldRun → (pinInput s pin.val).stuck = false →
      ∃ pos, exec (.pinStuck pin) s = .next (raise (Src.c0 ⟨0, pos⟩) 0x0012 [pin.val] (setPin pin.val { pinInput s pin.val with stuck := true } s)))
  ∧ (∀ (s : State) (pin : Fin 4), Processing s → s.work.handled.contains (0x3000, 0) = true →
      (pinInput s pin.val).stuck = true → exec (.pinStuck pin) s = .next s)

/-- On a unit that is no mirror, PROCESS_LOG ends the processing with a seal that waits to close: its READ_LEAVES and
EVENT_LEAVES count the records and events that go with it, at most 2,048 events, numbered by their place; its MERKLE_ROOT
is the root over their leaves; its hash is the SHA-256 of its body; it carries a signature exactly when SIGNED is set in
its flags, and then the ECDSA signature over that hash. The model's own readings or choices that it rests on: assumption
log 15, 16. -/
def Obligations.SealIsBuilt : Prop :=
  ∀ (p : ProcessIn) (s : State), Processing s → s.twin.role ≠ .mirror →
    ∃ (t : State) (x : Seal) (recs : List Record) (evs : List EventRec),
      exec (.processLog p) s = .next t ∧ t.closing = some (x, recs, evs) ∧ t.work.isOpen = false
      ∧ x.readLeaves = BitVec.ofNat 32 recs.length ∧ x.eventLeaves = BitVec.ofNat 32 evs.length ∧ evs.length ≤ 2048
      ∧ (∀ i (h : i < evs.length), (evs[i]).seq = BitVec.ofNat 16 i)
      ∧ x.merkleRoot = merkleRoot (recs.map Record.leaf ++ evs.map fun e => eventLeaf e.bytes)
      ∧ x.hash = sha256 { x with hash := [], sig := none }.bytes
      ∧ (x.flags.getLsbD 0 = x.sig.isSome)
      ∧ (∀ r, x.sig = some r → ∃ k, r = ecdsaSign k x.hash)

/-- On a running unit without a partner, with no processing open and no seal waiting: at the boundary after a start,
capture begins with the tick that the start resumed at, and the output groups act as their functions; at every later
boundary (no activation due) the tick number rises by one, the next log opens with its tick-start entry, which holds the
tick, the lock state of the log before, the length of the tick before, the stamp of the boundary and the synchronisation
word, and processing opens on the log that just ended. Where the tick clock does not run, nothing happens. The model's own
readings or choices that it rests on: assumption log 9. -/
def Obligations.TickTurns : Prop :=
  (∀ (b : BoundaryIn) (s : State), running s = true → Alone s → Rested s → s.cap.isOn = false → s.sys.firstTick = true →
      ∃ (t : State) (sync : BitVec 32) (more : List LogEntry),
        exec (.tickBoundary b) s = .next t ∧ t.cap.tick = s.cap.tick ∧ t.cap.isOn = true ∧ t.sys.firstTick = false
        ∧ t.cap.log.entries = ⟨0, 0, b.stamp.ns, tickStart s.cap.tick s.cap.log.curLock b.lengthNs b.stamp sync, none⟩ :: more
        ∧ t.sys.pins = ⟨.asFunction, .asFunction, .asFunction, .asFunction, false⟩)
  ∧ (∀ (b : BoundaryIn) (s : State), running s = true → Alone s → Rested s → s.cap.isOn = true →
      activates s s.cap.tick = false → s.keys.starting = false →
      ∃ (t : State) (sync : BitVec 32) (more : List LogEntry),
        exec (.tickBoundary b) s = .next t ∧ t.cap.tick = s.cap.tick + 1 ∧ t.cap.isOn = true
        ∧ t.cap.log.tick = s.cap.tick + 1
        ∧ t.cap.log.entries =
            ⟨0, 0, b.stamp.ns, tickStart (s.cap.tick + 1) s.cap.log.curLock b.lengthNs b.stamp sync, none⟩ :: more
        ∧ t.work.isOpen = true ∧ t.work.log.tick = s.cap.log.tick)
  ∧ (∀ (b : BoundaryIn) (s : State), clockOn s = false → exec (.tickBoundary b) s = .next s)

/-- A brown-out, RESET_N held low, the loss of a clock, a silent engine, a processing that overruns, the return of PFAIL_N
behind a completed last gasp and TEST_RESET (not in SCRAP) each put the unit in reset: every output at high impedance,
volatile state at its power-up values, NOR, NAND, the fuses, the vault, the alarm latch and the VBAT domain as they were,
with the cause of R559 in the VBAT domain: 3 for a brown-out behind a completed last gasp and 2 for one without, 1 for the
pin, 5 and 6 for the reference and the PLL, 7 for the watchdog, 8 for the overrun, 4 for PFAIL_N, 11 for the test access
port. RESET_N released leaves everything but its level. The model's own readings or choices that it rests on: assumption
log 18, 19, 31, 32. -/
def Obligations.ResetsReturnToPowerUp : Prop :=
  (∀ s : State, ∃ t, exec .brownOutReset s = .next t ∧ ResetTo (if s.sys.vbat.stage = 3 then 3 else 2) s t)
  ∧ (∀ s : State, ∃ t, exec (.resetPin true) s = .next t ∧ ResetTo 1 s t ∧ t.test.resetLow = true)
  ∧ (∀ s : State, exec (.resetPin false) s = .next { s with test.resetLow := false })
  ∧ (∀ s : State, coreRuns s = true → ∃ t, exec (.clockLoss .pll) s = .next t ∧ ResetTo 6 s t)
  ∧ (∀ s : State, coreRuns s = true → (s.keys.fuses.tamper ||| s.hw.record.tamper).getLsbD 8 = false →
      ∃ t, exec (.clockLoss .reference) s = .next t ∧ ResetTo 5 s t)
  ∧ (∀ s : State, clockOn s = true → ∃ t, exec .watchdogReset s = .next t ∧ ResetTo 7 s t)
  ∧ (∀ s : State, Processing s → ∃ t, exec .overrunReset s = .next t ∧ ResetTo 8 s t)
  ∧ (∀ s : State, s.sys.mode = .gaspDone → s.sys.vbat.stage = 3 → ∃ t, exec .pfailReturn s = .next t ∧ ResetTo 4 s t)
  ∧ (∀ s : State, hwLifeState s ≠ .scrap → ∃ t, exec .testReset s = .next t ∧ ResetTo 11 s t)

/-- A recognised edge of PFAIL_N on a unit whose time block runs: in the dead window it leaves the unit dead; before the
first tick of a start it ends programming; on any other unit last gasp begins. Nothing leaves the part in last gasp,
TWIN_PRIMARY_N is deasserted, the outputs take their last-gasp states, and the stage that the mode reaches stands in the
VBAT domain: 1 with log P closed (its LAST_GASP flag set and capture ended), 2 with the last seal closed, 3 with the flush
behind it, which sets write protect and LG_TIME. The model's own readings or choices that it rests on: assumption log 30. -/
def Obligations.LastGaspEndsTheTick : Prop :=
  (∀ (deciMs : BitVec 16) (stage : Nat) (s : State), clockOn s = true → s.upd.deadWindow = false →
      (s.sys.firstTick = false ∨ s.twin.role = .mirror ∨ s.sys.mode ≠ .running) →
      ∃ t, exec (.lastGasp stage deciMs) s = .next t ∧ t.sys.mode = .gaspDone ∧ t.out = s.out ∧ t.twin.primaryN = false
        ∧ t.sys.vbat.stage = (if stage < 2 then 1 else if stage < 3 then 2 else 3)
        ∧ t.sys.pins = ⟨.asFunction, .inactive, .asFunction, .commonMode, t.store.writeProtect⟩
        ∧ (3 ≤ stage → t.sys.vbat.lgTime = deciMs ∧ t.store.writeProtect = true)
        ∧ (stage < 2 → t.cap.isOn = false
            ∧ (capturing s = true → t.cap.frozen.lastGasp = true ∧ t.cap.queue = [] ∧ t.plc.onAir = none)))
  ∧ (∀ (deciMs : BitVec 16) (stage : Nat) (s : State), clockOn s = true → s.upd.deadWindow = true →
      exec (.lastGasp stage deciMs) s =
        .next { s with sys.mode := .dead, sys.pins := ⟨.hiz, .hiz, .hiz, .hiz, false⟩, cap.isOn := false })
  ∧ (∀ (deciMs : BitVec 16) (stage : Nat) (s : State), s.sys.mode = .running → s.upd.deadWindow = false →
      s.sys.firstTick = true → s.twin.role ≠ .mirror →
      exec (.lastGasp stage deciMs) s =
        .next { s with sys.mode := .gaspDone, sys.pins := ⟨.asFunction, .inactive, .asFunction, .commonMode, true⟩,
                       store.writeProtect := true })

/-- A start with PFAIL_N asserted leaves the unit held in reset, and PFAIL_N high for 100 ms lets it start again with the
wait noted; a start with RESET_N low does nothing. A start without a sound boot header leaves the unit dead with every
output at high impedance. Without an alarm, a start whose image fails a check halts with a boot report of that cause, and
a start with a good image, which is no misuse of R609, and no chain to recover brings the unit into service: running, or,
as a member of a twin pair, as a mirror that waits for HELLO with its drivers inactive. Three ticks of that wait without
HELLO and with TWIN_PEER_N low make the unit a running STARTING mirror; with TWIN_PEER_N high the unit goes on waiting.
The model's own readings or choices that it rests on: assumption log 20, 108. -/
def Obligations.StartBringsUpTheUnit : Prop :=
  (∀ (b : StartIn) (s : State), s.sys.mode = .inReset → s.test.resetLow = false → b.pfailLow = true →
      exec (.start b) s = .next { s with sys.mode := .pfailHeld })
  ∧ (∀ (ms : Nat) (s : State), s.sys.mode = .pfailHeld →
      exec (.pfailAtStart ms) s = .next { s with sys.mode := .inReset, sys.pfailWait := some ms })
  ∧ (∀ (b : StartIn) (s : State), s.test.resetLow = true → exec (.start b) s = .next s)
  ∧ (∀ (b : StartIn) (s : State), s.sys.mode = .inReset → s.test.resetLow = false → b.pfailLow = false →
      (release b s).nor.boot.any (·.sound) = false →
      ∃ t, exec (.start b) s = .next t ∧ t.sys.mode = .dead ∧ t.sys.pins = ⟨.hiz, .hiz, .hiz, .hiz, false⟩
        ∧ t.nor.reports = s.nor.reports)
  ∧ (∀ (b : StartIn) (s : State) (cause : Nat) (info : ImageInfo) (img : List ImgRecord), s.sys.mode = .inReset →
      s.test.resetLow = false → b.pfailLow = false → (release b s).nor.boot.any (·.sound) = true → s.keys.latch = none →
      b.tamper = none → checkImage (unlock (release b s)) (unlock (release b s)).nor.image = (cause, info, img) → 2 ≤ cause →
      ∃ t, exec (.start b) s = .next t ∧ t.sys.mode = .halted ∧ t.sys.pins = ⟨.parked, .hiz, .hiz, .hiz, false⟩
        ∧ t.nor.reports.head?.map (·.cause) = some (BitVec.ofNat 8 cause))
  ∧ (∀ (b : StartIn) (s : State) (cause : Nat) (info : ImageInfo) (img : List ImgRecord),
      let u := unlock (release b s)
      let recs := startRecords u.nor.journal (lifeState u == .quarantine) info img
      let plan := storePlan (testWanted u recs) u.store info
      s.sys.mode = .inReset → s.test.resetLow = false → b.pfailLow = false → u.nor.boot.any (·.sound) = true →
      s.keys.latch = none → b.tamper = none → checkImage u u.nor.image = (cause, info, img) → cause < 2 →
      (∀ l, plan ≠ .mismatch l ∧ plan ≠ .chain l) →
      (imageBlank (release b s).nor.image = true ∨ ∀ q, imageMisused q (imageRecords (release b s).nor.image) = false) →
      ∃ t, exec (.start b) s = .next t ∧ (t.sys.mode = .running ∨
        (t.sys.mode = .waiting ∧ t.twin.role = .mirror ∧ t.twin.waitingHello = true
          ∧ t.sys.pins = ⟨.asFunction, .inactive, .inactive, .commonMode, false⟩)))
  ∧ (∀ s : State, s.sys.mode = .waiting → s.twin.waitingHello = true →
      exec (.helloWaitTimeout true) s = .next { s with sys.mode := .running, twin := { s.twin with
        role := .mirror, standby := .starting, waitingHello := false, termAt := none, asked := false, peerN := true } }
      ∧ exec (.helloWaitTimeout false) s = .next { s with twin := { s.twin with waitingHello := false, peerN := false } })

/-- Power returning to the VBAT domain clears every item of it and the alarm latch; where VBAT_LOST is an enabled tamper
source of a unit in reset, the cleared latch takes it. A VBAT sample below 2,500 mV sets VBAT_LOW and raises VBAT_LOW once
until the next start; a sample at or above it clears the field. XTAL32K stopping makes the seconds counter invalid, and
the CLOCK source active. A change of an Ethernet link is taken on a port that has a PHY and is on. The model's own
readings or choices that it rests on: assumption log 33, 34. -/
def Obligations.SupplyOfTheVbatDomain : Prop :=
  (∀ s : State, (s.keys.fuses.tamper ||| s.hw.record.tamper).getLsbD 9 = false →
      exec .vbatPowerOn s = .next { s with sys.vbat := Vbat.init, keys.latch := none, keys.active := 0 })
  ∧ (∀ s : State, (s.keys.fuses.tamper ||| s.hw.record.tamper).getLsbD 9 = true → s.sys.mode = .inReset →
      hwLifeState s = .field →
      exec .vbatPowerOn s =
        .next { s with sys.vbat := Vbat.init, keys.latch := some ⟨0x200, Vbat.init.seconds⟩, keys.active := 0 })
  ∧ (∀ (mv : Nat) (s : State), clockOn s = true → mv < 2500 →
      exec (.vbatSample mv) s = .next (if s.sys.vbatLowSeen then { s with sys.vbatLow := true }
        else kept s (raiseU 0x0062 [mv] { s with sys.vbatLow := true, sys.vbatLowSeen := true })))
  ∧ (∀ (mv : Nat) (s : State), clockOn s = true → 2500 ≤ mv →
      exec (.vbatSample mv) s = .next { s with sys.vbatLow := false })
  ∧ (∀ s : State, (s.keys.fuses.tamper ||| s.hw.record.tamper).getLsbD 8 = false →
      exec .xtal32kStop s = .next { s with sys.vbat.xtalOk := false, sys.vbat.valid := false,
                                                keys.active := if s.keys.active.getLsbD 8 then s.keys.active else s.keys.active ||| 256 })
  ∧ (∀ (p : BitVec 2) (up : Bool) (s : State), clockOn s = true → hwCfg s 0x0002 p.toNat 2 1 0xFF ≠ 0xFF →
      hwCfg s 0x0002 p.toNat 0 1 1 ≠ 0 →
      exec (.ethernetLinkChange p up) s = .next { s with sys.ethUp := s.sys.ethUp.set p.toNat up })

/-- A reset of the port, and IDCODE, select IDCODE, whose value 0x14D20A3B leaves at TDO; BYPASS selects the one-bit
register that captures 0; SAMPLE/PRELOAD shifts out the sampled cells of 166 and keeps the preloaded ones. EXTEST, CLAMP
and HIGHZ are loaded in MANUFACTURE and PROVISION; in any other life-cycle state they, and TEST_RESET in SCRAP, select
BYPASS and raise TEST_REFUSED with mode 2. No instruction but TEST_RESET touches anything else of the unit. The model's
own readings or choices that it rests on: assumption log 103, 104. -/
def Obligations.TestPortInstructions : Prop :=
  (∀ s : State, exec .tapReset s = .next { s with test.tap := { s.test.tap with inst := 2, shifted := 0x14D20A3B } })
  ∧ (∀ s : State, exec .idcode s =
      .next { s with test.tap := { s.test.tap with inst := 2, shifted := 0x14D20A3B }, out := s.out ++ [.tdo 0x14D20A3B 32] })
  ∧ (∀ s : State, exec .bypass s =
      .next { s with test.tap := { s.test.tap with inst := 15, shifted := 0 }, out := s.out ++ [.tdo 0 1] })
  ∧ (∀ (balls preload : List Bool) (s : State), balls.length = 166 → preload.length = 166 →
      ∃ v, exec (.samplePreload balls preload) s =
          .next { s with test.tap := { s.test.tap with inst := 1, boundary := preload }, out := s.out ++ [.tdo v 166] }
        ∧ ∀ i, i < 166 → v.testBit i = balls.getD i false)
  ∧ (∀ s : State, hwLifeState s = .manufacture ∨ hwLifeState s = .provision →
      exec .extest s = .next { s with test.tap := { s.test.tap with inst := 0, shifted := 0 } }
      ∧ exec .clamp s = .next { s with test.tap := { s.test.tap with inst := 3, shifted := 0 } }
      ∧ exec .highz s = .next { s with test.tap := { s.test.tap with inst := 4, shifted := 0 } })
  ∧ (∀ s : State, hwLifeState s ≠ .manufacture → hwLifeState s ≠ .provision →
      let t := kept s (raiseU 0xF002 [2, (hwLifeState s).code] { s with test.tap := { s.test.tap with inst := 15, shifted := 0 } })
      exec .extest s = .next t ∧ exec .clamp s = .next t ∧ exec .highz s = .next t
        ∧ (hwLifeState s = .scrap → exec .testReset s = .next t))

/-- The first journal write that is due is performed once the seal it waits for is durable and no vault write is due; one
that fails freezes the journal, drops what was due and raises NOR_WRITE_FAILED with its place. A due write that must wait
changes nothing. Once staging holds what is left of the next grain, its records are programmed in order from the write
position's grain on and leave staging; nothing is programmed before, nor under write protect. The model's own readings or
choices that it rests on: assumption log 99, 102. -/
def Obligations.NorAndRecorderWrites : Prop :=
  (∀ (s : State) (t : BitVec 48) (op : JournalOp) (rest : List (BitVec 48 × JournalOp)),
      norOn s = true → s.nor.journal.due = (t, op) :: rest → s.nor.journal.frozen = false → isDurable s t = true →
      s.keys.vaultDue = [] →
      let j : State := { s with nor.journal := { s.nor.journal.perform (s.sys.image.ledgerId.getD 0) op with due := rest } }
      exec (.journalWrite true) s = .next (match op with
        | .rewrite _ _ sets => kept s (raiseU 0x0044 [1 + sets.length] j)
        | _ => j)
      ∧ exec (.journalWrite false) s = .next (kept s (raiseU 0x0046 [s.nor.journal.address]
          { s with nor.journal.due := [], nor.journal.frozen := true, nor.journal.fails := s.nor.journal.fails.inc })))
  ∧ (∀ (s : State) (ok : Bool) (t : BitVec 48) (op : JournalOp) (rest : List (BitVec 48 × JournalOp)),
      s.nor.journal.due = (t, op) :: rest → (isDurable s t = false ∨ s.keys.vaultDue ≠ [] ∨ s.nor.journal.frozen = true) →
      exec (.journalWrite ok) s = .next s)
  ∧ (∀ (s : State), norOn s = true → s.store.writeProtect = false → s.recorder.noGrain = false →
      128 - s.recorder.base % 128 ≤ s.recorder.staging.length →
      exec (.recorderGrainProgram true) s =
        .next { s with recorder := s.recorder.programmed (128 - s.recorder.base % 128) })
  ∧ (∀ (s : State) (ok : Bool),
      s.recorder.staging.length < 128 - s.recorder.base % 128 ∨ s.store.writeProtect = true →
      exec (.recorderGrainProgram ok) s = .next s)

/-- On a unit that captures, a native preamble on an enabled phase starts the one reception where no reception and no
transmission runs, and is not heard where one does. A native PPDU whose frame control fails makes no input and counts in
FC_FAILED; one whose frame control decodes ends the reception and makes one input of kind 0x01 on the port of its phase,
whose first byte is its type and which ends with the PSDU where every codeword of a robust payload decodes. An IEEE 1901.2
PPDU on a phase that has such a band makes one input with MODE 3 and counts. All of this while no transmission runs and no
fault is injected on the phase. The model's own readings or choices that it rests on: assumption log 36. -/
def Obligations.PowerlineReception : Prop :=
  (∀ (phase : BitVec 2) (s : State), capturing s = true → nativeOn s phase.toNat = true →
      (s.plc.onAir = none → s.plc.reception = none →
        exec (.preambleDetect phase) s = .next { s with plc.reception := some phase.toNat })
      ∧ (s.plc.onAir.isSome = true ∨ s.plc.reception.isSome = true → exec (.preambleDetect phase) s = .next s))
  ∧ (∀ (p : PpduIn) (s : State), capturing s = true → nativeOn s p.phase.toNat = true → s.plc.onAir = none → p.fcOk = false →
      exec (.ppduReceive p) s = .next (modPhase p.phase.toNat
        (fun x => { x with fcFailed := x.fcFailed.inc, tickFcFail := x.tickFcFail + 1 }) { s with plc.reception := none }))
  ∧ (∀ (p : PpduIn) (s : State), Taking s → nativeOn s p.phase.toNat = true → s.plc.onAir = none → p.fcOk = true →
      faultOn s p.phase.toNat true = false → (faultLink s p.phase.toNat).held = none →
      ∃ (t : State) (body : Bytes), exec (.ppduReceive p) s = .next t ∧ t.plc.reception = none
        ∧ body.head? = some (BitVec.ofNat 8 p.fc.ppduType.toNat)
        ∧ (ppduRobust p = true → p.fc.ppduType ≠ 1 → p.cwFailed = 0 → ∃ h, body = h ++ p.psdu)
        ∧ (let e : LogEntry := ⟨BitVec.ofNat 9 p.phase.toNat, 1, s.time.ns, body, none⟩
           s.cap.log.takes e = true → t.cap = (logged e s).cap))
  ∧ (∀ (p : Ieee1901In) (s : State), Taking s → ieeeOn s p.phase.toNat = true → s.plc.onAir = none →
      faultOn s p.phase.toNat true = false → (faultLink s p.phase.toNat).held = none →
      let e : LogEntry := ⟨BitVec.ofNat 9 p.phase.toNat, 1, s.time.ns,
        plcDescriptor 3 (bit p.ok) (2 ^ (p.phase.toNat - 1) + 16 * p.phase.toNat) 0 ⟨0, 0, 0, 0xFFF, 0, 0, 0, 0⟩ 0
          (BitVec.ofNat 8 (bit (!p.ok))) p.arrival 0 0 none [127, 127, 127] p.meanSnr [] (if p.ok then p.psdu else []), none⟩
      s.cap.log.takes e = true →
      exec (.ieee1901PpduReceive p) s = .next (logged e (modPhase p.phase.toNat
        (fun x => { x with rxOk := if p.ok then x.rxOk.inc else x.rxOk, rxFailed := if p.ok then x.rxFailed else x.rxFailed.inc }) s)))

/-- On a unit that captures, in an open stripe with nothing received or transmitted: the first queued frame of that slot
stripe that ends clear of the next launch, and that the governor admits, goes on the line and stays in the queue until it
ends; nothing starts in a stripe that the plan closes, nor while something is on the line. The end of a PPDU, or its
withdrawal, frees the line and makes the transmit report of R153 on its home-phase port. A launch that is late is dropped
and counts in LAUNCH_LATE; one that the governor does not admit is withdrawn with a report and counts in LAUNCH_DROPPED;
one that it admits goes on the line, ending any reception. The model's own readings or choices that it rests on:
assumption log 14. -/
def Obligations.PowerlineTransmission : Prop :=
  (∀ (stripe : BitVec 3) (off : Nat) (gap : Option Nat) (s : State) (f : PlcTx) (rest : List PlcTx),
      let pr := frameProjection s f stripe.toNat off
      capturing s = true → s.plc.onAir = none → s.plc.reception = none → planOpen s.hw.records stripe.toNat = true →
      s.plc.queue = f :: rest → f.sending = false → f.slot = stripe.toNat →
      (∀ g, gap = some g → 480000 * pr.amps.length + 100000 ≤ g) →
      governor s (stripe.toNat * s.pll.stripeNs + off) pr = .admitted → faultOn s (homePort s f.link) false = false →
      ∃ (t : State) (a : PlcOnAir), exec (.plcPpduStart stripe off gap) s = .next t ∧ t.plc.onAir = some a
        ∧ a.queueId = f.queueId ∧ a.phase = homePort s f.link ∧ a.launched = false ∧ a.dsn = f.dsn
        ∧ t.out = s.out ++ [.plc [1, 2, 3] (nativeFrame f.ftype f.ackReq f.retry f.dsn f.peer f.route f.payload)]
        ∧ t.plc.queue.map (·.queueId) = s.plc.queue.map (·.queueId) ∧ t.cap = s.cap)
  ∧ (∀ (stripe : BitVec 3) (off : Nat) (gap : Option Nat) (s : State),
      (planOpen s.hw.records stripe.toNat = false ∨ s.plc.onAir.isSome = true ∨ s.plc.reception.isSome = true) →
      exec (.plcPpduStart stripe off gap) s = .next s)
  ∧ (∀ (at_ : BitVec 32) (w : Bool) (s : State) (a : PlcOnAir),
      let mine := fun (q : PlcTx) => q.sending && q.queueId == a.queueId && !a.launched
      let e : LogEntry := ⟨BitVec.ofNat 9 a.phase, 1, s.time.ns, plcReportBytes a at_ w, none⟩
      Taking s → s.plc.onAir = some a → s.cap.log.takes e = true →
      exec (.plcPpduEnd at_ w) s = .next (logged e
        { s with plc.onAir := none, plc.queue := s.plc.queue.filter fun q => !mine q,
                 plc.waiting := s.plc.waiting ++ (s.plc.queue.filter mine).map fun q => (s.cap.tick.toNat, q) }))
  ∧ (∀ (stripe : BitVec 3) (off : Nat) (s : State) (l : PlcLaunchEntry) (rest : List PlcLaunchEntry), capturing s = true →
      s.plc.launches = l :: rest →
      exec (.plcLaunch stripe off true) s = .next { s with plc.launches := rest, plc.launchLate := s.plc.launchLate.inc })
  ∧ (∀ (stripe : BitVec 3) (off : Nat) (s : State) (l : PlcLaunchEntry) (rest : List PlcLaunchEntry),
      capturing s = true → s.plc.launches = l :: rest → anchorDue s stripe.toNat l.anchor = true → s.plc.onAir = none →
      s.plc.reception = none → faultOn s (launchPort l s) false = false →
      governor s (stripe.toNat * s.pll.stripeNs + off) (launchProjection l s) = .admitted →
      ∃ (t : State) (a : PlcOnAir), exec (.plcLaunch stripe off false) s = .next t ∧ t.plc.onAir = some a
        ∧ a.launched = true ∧ a.phase = launchPort l s ∧ a.queueId = l.queueId ∧ t.plc.launches = rest
        ∧ t.out = s.out ++ [.plc [1, 2, 3] (nativeFrame l.ftype l.ackReq false l.dsn l.link [] l.payload)])

/-- A DATA, NEIGHBOUR_REPORT, SOUNDING_RESPONSE or LEAVE frame of the log being processed first updates its hop sender's
quality and map by the descriptor. One with a failed codeword does nothing more; one whose DEST is not 0xFFE counts in
ROUTE_ERRORS; one whose SRC is no valid powerline entry counts in UNKNOWN_SRC; one that repeats the last data sequence
number with RETRY counts in DUPLICATES; in this order. Any other is accepted: its endpoint takes the DSN and its repeaters
become candidates, and then DATA enters ingest, NEIGHBOUR_REPORT applies each entry, SOUNDING_RESPONSE ends the exchange
and forms a map, and LEAVE clears VALID. A robust frame for another hop receiver counts in OVERHEARD and updates its
sender's quality. The model's own readings or choices that it rests on: assumption log 38. -/
def Obligations.NativeFrameRows : Prop :=
  (∀ (r : PlcRx) (u : Upstream) (n : List NeighbourEntry) (d : List Byte) (s : State), Processing s →
      ∀ c ∈ [Instr.data r u, .neighbourReport r n, .soundingResponse r d, .leave r],
        let x := plcDescribe (plcSrc r s) r s
        let slot := (linkEntry x r.srcAddr.toNat).peer.slot.toNat
        (r.payloadOk = false → exec c s = .next (kept s x))
        ∧ (r.payloadOk = true → r.dest ≠ 0xFFE → exec c s = .next (kept s { x with plc.routeErrors := x.plc.routeErrors.inc }))
        ∧ (r.payloadOk = true → r.dest = 0xFFE → (linkEntry x r.srcAddr.toNat).plc? = none →
            exec c s = .next (kept s { x with plc.unknownSrc := x.plc.unknownSrc.inc }))
        ∧ (r.payloadOk = true → r.dest = 0xFFE → (linkEntry x r.srcAddr.toNat).plc?.isSome = true →
            (endpoint x slot).lastDsn = r.dsn → r.retry = true →
            exec c s = .next (kept s { x with plc.duplicates := x.plc.duplicates.inc })))
  ∧ (∀ (r : PlcRx) (u : Upstream) (n : List NeighbourEntry) (d : List Byte) (s : State), Processing s →
      let src := plcSrc r s
      let x := plcDescribe src r s
      let slot := (linkEntry x r.srcAddr.toNat).peer.slot.toNat
      let y := routeCandidates src r (modEndpoint src slot (fun e => { e with lastDsn := r.dsn }) x)
      let z := (learn src (euiOfSlot y slot) r.org.port y.work.log.tick none y).2
      r.payloadOk = true → r.dest = 0xFFE → (linkEntry x r.srcAddr.toNat).plc?.isSome = true →
      (¬((endpoint x slot).lastDsn = r.dsn ∧ r.retry = true)) →
      (∃ prev, exec (.data r u) s = .next (kept s (ingestFrame { u with eui := euiOfSlot y slot, dsn := r.dsn } (some prev) y).2))
      ∧ exec (.neighbourReport r n) s =
          .next (kept s (n.foldl (fun s e => reportNeighbour src r.srcAddr e.neighbour e.quality false s) z))
      ∧ (∃ t, exec (.soundingResponse r d) s = .next t ∧ tget t.plc.lastMap r.srcAddr.toNat = some z.work.log.tick.toNat
          ∧ (∀ l k, z.plc.sounding = some (l, k) → t.plc.sounding = if l = r.srcAddr.toNat then none else some (l, k)))
      ∧ (∃ t, exec (.leave r) s = .next t ∧ (linkEntry t r.srcAddr.toNat).peer.valid = false
          ∧ t.cov.tables.endpoints = y.cov.tables.endpoints))
  ∧ (∀ (r : PlcRx) (s : State), Processing s → r.payloadOk = true → r.robust = true → hopReceiver r ≠ 0xFFE →
      exec (.overheardFrame r) s =
        .next (kept s (updateQuality (Src.frame r.org) (hopSender r) r { s with plc.overheard := s.plc.overheard.inc })))

/-- In processing, a JOIN_REQUEST from an EUI-64 that JOIN_POLICY refuses counts in JOIN_REFUSED, raises PLC_JOIN_REFUSED
with status 2 and is answered; one that is learned and gets a fresh link makes a link entry with that slot, counts in
JOINS, raises PLC_JOINED, is answered with status 0, and where it came unrouted its peer is sounded. An IEEE 1901.2 mesh
frame counts in MESH_DROPPED, a beacon request queues a beacon, a repeated frame counts in DUPLICATES, and a data frame
that ingest accepts stores its sequence number and its phase as the home of its link. The model's own readings or choices
that it rests on: assumption log 38, 39. -/
def Obligations.JoinsAndIeee1901 : Prop :=
  (∀ (r : PlcRx) (eui : BitVec 64) (cls caps : BitVec 8) (s : State), Processing s →
      let src := Src.onInput (euiEngine s eui) r.org
      (r.payloadOk = false ∨ r.dest ≠ 0xFFE → exec (.joinRequest r eui cls caps) s = .next s)
      ∧ (r.payloadOk = true → r.dest = 0xFFE → joinBarred s eui = true →
          exec (.joinRequest r eui cls caps) s = .next (kept s (joinAccept src r eui 2 0xFFF
            (raise src 0x1011 [2, euiLow eui, eui.toNat / 2 ^ 32] { s with plc.joinRefused := s.plc.joinRefused.inc }))))
      ∧ (∀ (slot i : Nat) (y : State), r.payloadOk = true → r.dest = 0xFFE → joinBarred s eui = false →
          learn src eui r.org.port s.work.log.tick (some cls) s = (some slot, y) →
          let z := modEndpoint src slot (fun x => { x with lastDsn := r.dsn }) y
          grantLink z slot false z.work.log.tick = .fresh i → r.route = none →
          let w := joinLink src r caps slot i z
          exec (.joinRequest r eui cls caps) s = .next (kept s (beginSounding src i (joinAccept src r eui 0 i
            (updateQuality src i r (raise src 0x1010 [i, slot, 0] { w with plc.joins := w.plc.joins.inc })))))
          ∧ linkEntry w i = ⟨⟨BitVec.ofNat 20 slot, true, false, true, caps.getLsbD 0, false⟩, .plc PlcPart.initial⟩))
  ∧ (∀ (org : Org) (phase : BitVec 2) (eui : BitVec 64) (seq : Byte) (retry secured : Bool) (frag : Option Fragment) (u : Upstream)
        (s : State), Processing s →
      let src := Src.onInput (euiEngine s eui) org
      let prev := (lookup s eui).map fun k => (endpoint s k).lastDsn
      exec (.ieee1901MacFrame org phase eui seq retry secured .meshFrame frag u) s =
          .next { s with plc.meshDropped := s.plc.meshDropped.inc }
      ∧ (s.plc.queue.length < 256 → ∃ t, exec (.ieee1901MacFrame org phase eui seq retry secured .beaconRequest frag u) s = .next t
          ∧ ∃ f ∈ t.plc.queue, f.ftype = 1 ∧ f.link = 0xFFF ∧ f.payload = beaconPayload s (s.work.log.tick.toNat + 2))
      ∧ (retry = true → prev = some seq →
          exec (.ieee1901MacFrame org phase eui seq retry secured .data frag u) s =
            .next { s with plc.duplicates := s.plc.duplicates.inc })
      ∧ (∀ (slot i : Nat) (y w : State), ¬(retry = true ∧ prev = some seq) →
          ingestFrame { u with org := org, eui := eui, dsn := seq, retry := retry, secured := secured } prev s = (some slot, y) →
          (let x := modEndpoint src slot (fun e => { e with lastDsn := seq }) y
           ieeeLink src slot { x with plc.frags := (takeFragment x.work.log.tick eui frag x.plc.frags).2 } = (some i, w)) →
          exec (.ieee1901MacFrame org phase eui seq retry secured .data frag u) s =
            .next (kept s (modPlc src i (fun p => { p with home := phase }) w))))

/-- In processing: the report of a frame that was acknowledged, or asked for no acknowledgement, ends its attempt and
counts it delivered, one of a withdrawn frame fails the attempt, and one that names no frame waiting changes nothing. A
queued frame older than QUEUE_AGE leaves the queue and its attempt fails; a younger one stays. A sounding exchange without
a response for 64 ticks ends with PLC_SOUNDING_FAILED, and a due one begins. A reassembly of 60 s is dropped, counted and
raised. At log B-2 of a beacon period one beacon launch is added, anchored to stripe BEACON_STRIPE of tick B, or counts in
LAUNCH_FULL where 64 wait. The model's own readings or choices that it rests on: assumption log 38. -/
def Obligations.PowerlineTimers : Prop :=
  (∀ (t : PlcTxReport) (s : State) (w : Nat × PlcTx), Processing s →
      s.plc.waiting.find? (fun w => w.2.queueId == t.queueId && !t.launched) = some w →
      let fin : State := { s with plc.waiting := s.plc.waiting.erase w, plc.attempts := s.plc.attempts.inc }
      (t.withdrawn = true →
        exec (.plcTransmitReport t) s = .next (kept s (plcAttemptFailed (Src.frame t.org) w.2 (!t.robust) t.stripe.toNat fin)))
      ∧ (t.withdrawn = false → (t.ackReq = false ∨ t.acked = true) → ∃ u, exec (.plcTransmitReport t) s = .next u
          ∧ u.plc = { fin.plc with delivered := s.plc.delivered.inc,
                                   sounding := if w.2.ftype = 5 then some (w.2.peer, s.work.log.tick) else s.plc.sounding })
      ∧ (t.withdrawn = false → t.ackReq = true → t.acked = false → s.work.log.tick.toNat ≤ t.tick.toNat →
          exec (.plcTransmitReport t) s = .next s))
  ∧ (∀ (org : Org) (q : BitVec 16) (s : State) (f : PlcTx), Processing s →
      s.plc.queue.find? (fun f => f.queueId == q && !f.sending) = some f →
      (f.queued.toNat + cfg s 0x0102 0 0xC 2 256 < s.work.log.tick.toNat →
        exec (.plcQueueAgeWithdraw org q) s = .next (kept s (plcAttemptFailed (Src.frame org) f (!f.robust) f.slot
          { s with plc.queue := s.plc.queue.erase f })))
      ∧ (s.work.log.tick.toNat ≤ f.queued.toNat + cfg s 0x0102 0 0xC 2 256 →
          exec (.plcQueueAgeWithdraw org q) s = .next s))
  ∧ (∀ (org : Org) (s : State) (l : Nat) (k : BitVec 48), Processing s → s.plc.sounding = some (l, k) →
      exec (.soundingTimeout org) s = .next (if k.toNat + 64 < s.work.log.tick.toNat then
        raise (Src.frame org) 0x1014 [l] { s with plc.sounding := none,
                                                  plc.lastFail := tput s.plc.lastFail l s.work.log.tick.toNat }
        else s))
  ∧ (∀ (org : Org) (link : BitVec 12) (s : State), Processing s → soundingIsDue s link.toNat = true → s.plc.sounding = none →
      (linkEntry s link.toNat).plc?.isSome = true → (linkEntry s link.toNat).peer.direct = true →
      (linkEntry s link.toNat).peer.ieee1901 = false →
      exec (.soundingDue org link) s = .next (kept s (plcSend (Src.frame org) 0 5 link.toNat false 1 []
        { s with plc.sounding := some (link.toNat, s.work.log.tick) })))
  ∧ (∀ (org : Org) (eui : BitVec 64) (s : State) (f : BitVec 64 × Fragment × BitVec 48), Processing s →
      s.plc.frags.find? (fun f => f.1 == eui && decide (f.2.2.toNat + 60 * ticksPerS s ≤ s.work.log.tick.toNat)) = some f →
      exec (.plcFragTimeout org eui) s = .next (raise (Src.frame org) 0x1015 [euiLow eui, eui.toNat / 2 ^ 32]
        { s with plc.frags := s.plc.frags.erase f, plc.fragTimeouts := s.plc.fragTimeouts.inc }))
  ∧ (∀ (org : Org) (s : State), Processing s →
      let b := s.work.log.tick.toNat + 2
      cfg s 0x0102 0 0 2 256 ≠ 0 → b % cfg s 0x0102 0 0 2 256 = 0 → s.work.handled.contains (0x1000, b) = false →
      ∃ t, exec (.beaconQueue org) s = .next t
        ∧ (s.plc.launches.length < 64 → t.plc.launches = s.plc.launches ++
            [⟨.stripe (BitVec.ofNat 48 b) (cfg s 0x0102 0 2 1 0), 1, 0xFFF, 0, s.plc.nextQid, false, beaconPayload s b⟩])
        ∧ (64 ≤ s.plc.launches.length → t.plc.launches = s.plc.launches ∧ t.plc.launchFull = s.plc.launchFull.inc))

/-- On a running unit a preamble on a channel in use, in an enabled mode and while no chain sends, counts in the tick's
detections and takes the context that is its due, or counts in CTX_EXHAUSTED where there is none; on any other channel it
does nothing. A context that loses its frame is free again and counts in SYNC_LOST. A frame that ends frees its context: a
mode switch counts in MS_DROPPED, a failed FCS in FCS_FAILED, and a good one makes the input of R186 on port 0x004 and,
where an acknowledgement is due and can be sent, one emission on its channel. The model's own readings or choices that it
rests on: assumption log 41, 42, 45. -/
def Obligations.RadioReception : Prop :=
  (∀ (chan : Chan) (mode : Nat) (at_ : Stamp) (s : State), running s = true → radioOnOf s.hw.records s.sys.region = true →
      testBit (radioModes s.hw.records) mode = true → chan.wide = modeWide mode →
      (channelsInUse s.hw.records (band900 s)).contains chan = true → s.radio.chain0 = none → s.radio.chain1 = none →
      let u : State := armUntil (stampNs at_) s
      let u : State := { u with radio.tick.detections := u.radio.tick.detections + 1 }
      (∀ i, i < 32 → u.radio.ctx.getD i none = none) →
      exec (.radioDetection chan mode false at_) s = .next (kept s (takeContext chan mode false (stampNs at_) u)))
  ∧ (∀ (chan : Chan) (mode : Nat) (portB : Bool) (at_ : Stamp) (s : State),
      (channelsInUse s.hw.records (band900 s)).contains chan = false → exec (.radioDetection chan mode portB at_) s = .next s)
  ∧ (∀ (c : Nat) (s : State), running s = true → (s.radio.ctx.getD c none).isSome = true →
      exec (.radioSyncLost c) s = .next { s with radio.ctx := s.radio.ctx.set c none, radio.syncLost := s.radio.syncLost.inc,
                                                 radio.tick.syncLost := s.radio.tick.syncLost + 1 })
  ∧ (∀ (f : RadioIn) (k : RadioCtx) (s : State), running s = true → s.radio.ctx.getD f.ctx none = some k →
      (f.modeSwitch = true → exec (.radioFrameReceive f) s =
        .next { s with radio.ctx := s.radio.ctx.set f.ctx none, radio.msDropped := s.radio.msDropped.inc,
                       radio.tick.msDropped := s.radio.tick.msDropped + 1 })
      ∧ (f.modeSwitch = false → f.fcsOk = false → faultOn s 4 true = false → exec (.radioFrameReceive f) s =
        .next { s with radio.ctx := s.radio.ctx.set f.ctx none, radio.fcsFailed := s.radio.fcsFailed.inc,
                       radio.tick.fcsFailed := s.radio.tick.fcsFailed + 1 })
      ∧ (f.modeSwitch = false → f.fcsOk = true → faultOn s 4 true = false → Taking s → (faultLink s 4).held = none →
          ∃ (t : State) (v : RadioVerdict), exec (.radioFrameReceive f) s = .next t
            ∧ v = radioVerdict f k { s with radio.ctx := s.radio.ctx.set f.ctx none }
            ∧ (s.cap.log.takes (radioInput f k v s) = true → t.cap = (logged (radioInput f k v s) s).cap)
            ∧ (v.sent = false → t.out = s.out)
            ∧ (v.sent = true → ∃ p bytes, t.out = s.out ++ [.radio p k.chan bytes])))

/-- A queued frame whose channel is clear, on a unit that may transmit and where the ledger admits its airtime, goes out
on a chain and is on the air; a held or deferred one does so on its next try; where the ledger does not admit it, it is
held, its hold counted and nothing leaves. A busy channel defers a frame by 1 to 32 ms, and the fourth busy result ends
the attempt with CCA_FAILED. A launch at its instant goes out without assessment, one whose instant has passed is dropped
and counts in LAUNCH_LATE. A ready mailbox frame goes out on the channel of the frame it follows. The close of an
acknowledgement window frees its chain and makes the transmit report. The model's own readings or choices that it rests
on: assumption log 41, 43, 45. -/
def Obligations.RadioTransmission : Prop :=
  (∀ (q : BitVec 16) (at_ : Stamp) (s : State) (f : RadioTx) (one : Bool), hwMayTransmit s = true →
      takeChain s 0 = some one → spacingBad s f.chan = false → faultOn s 4 false = false →
      ∀ c ∈ [Instr.radioTxStart q at_ false, .ccaDeferExpiry q at_ false, .dwellLedgerRetry q at_],
        (match c with
          | .radioTxStart _ _ _ => txInPhase s q (· == .queued) = some f
          | .ccaDeferExpiry _ _ _ => txInPhase s q phaseDeferred = some f
          | _ => txInPhase s q (· == .held) = some f) →
        (ledgerAdmits s false f.chan (airtimeUs f.mode (f.payload.length + 4)) (stampNs at_) = true →
          ∃ t, exec c s = .next t ∧ chainTx t one = some (f.chainTx (stampNs at_)) ∧ t.cap = s.cap
            ∧ t.out = s.out ++ [.radio (bit one) f.chan f.payload]
            ∧ t.radio.queue = s.radio.queue.map fun x => if x.queueId = f.queueId then { x with phase := .onAir } else x)
        ∧ (ledgerAdmits s false f.chan (airtimeUs f.mode (f.payload.length + 4)) (stampNs at_) = false →
          ∃ t, exec c s = .next t ∧ t.out = s.out ∧ t.radio.ledgerHolds = s.radio.ledgerHolds.inc
            ∧ t.radio.queue = s.radio.queue.map fun x =>
                if x.queueId = f.queueId then { x with phase := .held, holds := x.holds + 1 } else x))
  ∧ (∀ (q : BitVec 16) (at_ : Stamp) (s : State) (f : RadioTx) (one : Bool), hwMayTransmit s = true →
      takeChain s 0 = some one → spacingBad s f.chan = false → txInPhase s q (· == .queued) = some f →
      (f.busy < 3 → ∃ ms, 1 ≤ ms ∧ ms ≤ 32 ∧ exec (.radioTxStart q at_ true) s = .next (modTx f.queueId
          (fun x => { x with busy := x.busy + 1, phase := .deferred ms }) { s with freeCtr := s.freeCtr + 1 }))
      ∧ (3 ≤ f.busy → Taking s →
          let e : LogEntry := ⟨4, 1, s.time.ns, radioReport (f.chainTx (stampNs at_)) 73 0, none⟩
          s.cap.log.takes e = true →
          exec (.radioTxStart q at_ true) s = .next (logged e (modTx f.queueId (fun x => { x with phase := .onAir })
            { s with radio.ccaFailed := s.radio.ccaFailed.inc }))))
  ∧ (∀ (at_ : Stamp) (s : State) (l : RadioLaunchEntry) (rest : List RadioLaunchEntry) (one : Bool),
      s.radio.launches = l :: rest →
      (l.atNs < stampNs at_ → capturing s = true → exec (.radioLaunch at_) s =
        .next { s with radio.launches := rest, radio.launchLate := s.radio.launchLate.inc })
      ∧ (l.atNs = stampNs at_ → hwMayTransmit s = true → takeChain s l.chain = some one → spacingBad s l.chan = false →
          faultOn s 4 false = false → ledgerAdmits s false l.chan (airtimeUs l.mode (l.payload.length + 4)) (stampNs at_) = true →
          ∃ t, exec (.radioLaunch at_) s = .next t ∧ chainTx t one = some (launchTx l (stampNs at_))
            ∧ t.out = s.out ++ [.radio (bit one) l.chan l.payload] ∧ t.cap = s.cap))
  ∧ (∀ (link : BitVec 12) (at_ : Stamp) (s : State) (m : Mailbox) (c : Chan) (mode : Nat) (one : Bool), hwMayTransmit s = true →
      s.radio.mailboxes.find? (fun m => m.link == link.toNat) = some m → m.ready = some (c, mode) → takeChain s 0 = some one →
      spacingBad s c = false → faultOn s 4 false = false →
      ledgerAdmits s false c (airtimeUs mode (m.payload.length + 4)) (stampNs at_) = true →
      ∃ t, exec (.mailboxFrameSend link at_) s = .next t ∧ chainTx t one = some (mailboxTx m c mode (stampNs at_))
        ∧ t.out = s.out ++ [.radio (bit one) c m.payload] ∧ t.cap = s.cap)
  ∧ (∀ (chain acked pend : Bool) (s : State) (t : ChainTx),
      let got := acked && t.ackReq && ackContext s
      let flags := bit t.ackReq + 2 * bit got + 4 * bit t.launched + 32 * bit chain + 128 * bit (got && pend)
      let e : LogEntry := ⟨4, 1, s.time.ns, radioReport t flags t.airtime, none⟩
      Taking s → chainTx s chain = some t → t.mailbox = false → s.cap.log.takes e = true →
      exec (.radioAckWindowClose chain acked pend) s =
        .next (logged e (if chain then { s with radio.chain1 := none } else { s with radio.chain0 := none })))

/-- In processing: an armed window that ended in the tick leaves the list and its sleeper's MISSES grow by one; a search
that ended makes its sleeper LOST, raises RADIO_LOST, and every frame that waits for it fails; a window or search that has
not ended stays. The report of an acknowledged frame ends its attempt, counts it delivered and clears FAILS; without an
acknowledgement the frame is tried again up to attempt 4 and then fails. A queued frame of more than 256 ticks fails its
attempt, a younger one stays. A reassembly of 60 s is dropped, counted and raised. The model's own readings or choices
that it rests on: assumption log 44. -/
def Obligations.RadioSleepersAndQueue : Prop :=
  (∀ (org : Org) (link : BitVec 12) (wake : BitVec 32) (s : State) (w : ArmWindow), Processing s →
      s.radio.arms.find? (fun w => w.link == link.toNat && w.wake == wake.toNat && endedBy s w.closeNs) = some w →
      exec (.sleeperWindowClose org link wake) s = .next (kept s (modRadio (Src.frame org) w.link
        (fun r => { r with misses := BitVec.ofNat 16 (sat 16 (r.misses.toNat + 1)) })
        { s with radio.arms := s.radio.arms.erase w })))
  ∧ (∀ (org : Org) (link : BitVec 12) (wake : BitVec 32) (s : State), Processing s →
      (∀ w ∈ s.radio.arms, endedBy s w.closeNs = false) → (∀ x ∈ s.radio.searches, endedBy s x.2.2 = false) →
      exec (.sleeperWindowClose org link wake) s = .next s ∧ exec (.sleeperSearchClose org link wake) s = .next s)
  ∧ (∀ (org : Org) (link : BitVec 12) (wake : BitVec 32) (s : State) (x : Nat × Nat × Nat), Processing s →
      s.radio.searches.find? (fun x => x.1 == link.toNat && x.2.1 == wake.toNat && endedBy s x.2.2) = some x →
      ∃ t, exec (.sleeperSearchClose org link wake) s = .next t
        ∧ t.radio.searches = s.radio.searches.erase x
        ∧ t.radio.mailboxes = s.radio.mailboxes.filter (·.link != x.1)
        ∧ t.radio.sleepQueue = s.radio.sleepQueue.filter (·.link != x.1)
        ∧ ⟨Src.frame org, 0x2004, [x.1, x.2.1]⟩ ∈ t.work.events
        ∧ (∀ r, (linkEntry s x.1).radio? = some r → (linkEntry t x.1).radio? = some { r with lost := true, search := false }))
  ∧ (∀ (t : RadioTxReport) (s : State) (f : RadioTx), Processing s → t.launched = false → t.mailbox = false →
      s.radio.queue.find? (fun f => f.queueId == t.queueId && f.phase == .onAir) = some f →
      let fin : State := { s with radio.attempts := s.radio.attempts.inc, radio.queue := s.radio.queue.erase f }
      (t.withdrawn = false → t.acked = true → exec (.radioTransmitReport t) s =
        .next (kept s (modRadio (Src.frame t.org) t.link.toNat (fun r => { r with fails := 0 })
          { fin with radio.delivered := s.radio.delivered.inc })))
      ∧ ((t.withdrawn = true ∨ t.acked = false) → f.attempt < 4 → radioQueued fin < 256 →
          exec (.radioTransmitReport t) s = .next {
            fin with
            radio.queue := fin.radio.queue ++ [requeued { f with attempt := f.attempt + 1 } s],
            radio.nextQid := s.radio.nextQid + 1 })
      ∧ ((t.withdrawn = true ∨ t.acked = false) → 4 ≤ f.attempt → ∃ u, exec (.radioTransmitReport t) s = .next u
          ∧ u.radio = { fin.radio with failed := s.radio.failed.inc }
          ∧ u.work.events = ⟨Src.frame t.org, 0x2002, [f.link, f.dsn.toNat, 0]⟩ :: s.work.events))
  ∧ (∀ (org : Org) (q : BitVec 16) (s : State) (f : RadioTx), Processing s →
      s.radio.queue.find? (fun f => f.queueId == q && f.phase != .onAir) = some f →
      exec (.radioQueueAgeWithdraw org q) s = .next (if f.queued.toNat + 256 < s.work.log.tick.toNat then
        kept s (radioAttemptFailed (Src.frame org) f s) else s))
  ∧ (∀ (org : Org) (eui : BitVec 64) (s : State) (f : BitVec 64 × Fragment × BitVec 48), Processing s →
      s.radio.frags.find? (fun f => f.1 == eui && decide (f.2.2.toNat + 60 * ticksPerS s ≤ s.work.log.tick.toNat)) = some f →
      exec (.radioFragTimeout org eui) s = .next (raise (Src.frame org) 0x2008 [euiLow eui, eui.toNat / 2 ^ 32]
        { s with radio.frags := s.radio.frags.erase f, radio.fragTimeouts := s.radio.fragTimeouts.inc }))

/-- In processing, the first ENDPOINT_AGING_SWEEP of a log turns SILENT, with ENDPOINT_SILENT, every ACTIVE endpoint among
the 4,096 slots of its tick whose age exceeds the limit, and leaves every other slot and every other table as it was;
CHILD_AGING does the same for the children. A second sweep of the same log does nothing. The model's own readings or
choices that it rests on: assumption log 7. -/
def Obligations.AgingSweeps : Prop :=
  (∀ (s : State), Processing s → s.work.swept = false →
      let lo := 4096 * (s.work.log.tick.toNat % 256)
      let due (k : Nat) (e : Endpoint) : Bool :=
        decide (lo ≤ k) && decide (k < lo + 4096) && e.state == .active && decide (ageUnits s < heardAge s.work.log.tick e)
      ∃ t, exec .endpointAgingSweep s = .next t
        ∧ (∀ k e, (k, e) ∈ s.cov.tables.endpoints → due k e = true → (endpoint t k).state = .silent
            ∧ ⟨Src.sweep (recordEngine k), 0x3004, [k, e.lastHeard.toNat]⟩ ∈ t.work.events)
        ∧ (∀ k, (∀ e, (k, e) ∈ s.cov.tables.endpoints → due k e = false) → endpoint t k = endpoint s k)
        ∧ t.cov.tables.ways = s.cov.tables.ways ∧ t.cov.tables.links = s.cov.tables.links
        ∧ t.cov.tables.children = s.cov.tables.children ∧ t.cov.sys = s.cov.sys ∧ t.cov.ledger = s.cov.ledger)
  ∧ (∀ (s : State), Processing s → s.work.childSwept = false →
      let due (c : Child) : Bool := c.state == .active && decide (cfg s 0x0303 0 8 2 3600 * ticksPerS s
        < ((s.work.log.tick.toNat / 256 + 2 ^ 24 - c.lastHeard.toNat) % 2 ^ 24) * 256)
      ∃ t, exec .childAging s = .next t
        ∧ (∀ k c, (k, c) ∈ s.cov.tables.children → due c = true → (child t k).state = .silent
            ∧ ⟨Src.sweep 0, 0x300B, [k]⟩ ∈ t.work.events)
        ∧ (∀ k, (∀ c, (k, c) ∈ s.cov.tables.children → due c = false) → child t k = child s k)
        ∧ t.cov.tables.endpoints = s.cov.tables.endpoints ∧ t.cov.sys = s.cov.sys ∧ t.cov.ledger = s.cov.ledger)
  ∧ (∀ (s : State), Processing s → (s.work.swept = true → exec .endpointAgingSweep s = .next s)
      ∧ (s.work.childSwept = true → exec .childAging s = .next s))

/-- In processing, a datagram from a head-end port or in a DOWN message is resolved by its longest match. None, or a
discarding prefix, counts in NO_ROUTE; a child's prefix forwards it to that child, or counts in NO_ROUTE where no child
has the address; a local prefix sends it to the endpoint of its interface identifier, raises PARITY_ERROR and drops it
where the entry fails parity, drops it where the endpoint is BARRED, and for an unknown endpoint takes the Spillway where
the spill list names it and the limit allows, and counts in NO_ROUTE otherwise. The model's own readings or choices that
it rests on: assumption log 93. -/
def Obligations.DatagramsAreRouted : Prop :=
  ∀ (org : Org) (dest : BitVec 128) (p : List Byte) (s : State), Processing s →
    ∀ c ∈ [Instr.headEndDatagram org dest p, .down org dest p],
      let src := Src.c0 org
      let found := longestMatch (allRoutes s) (dest.toNat / 2 ^ 64)
      let x := euiOfAddress dest
      let lost := exec c s = .next { s with tstat.noRoute := s.tstat.noRoute.inc }
      (found = none → lost)
      ∧ (∀ r, found = some r →
          (r.action = .discard → lost)
          ∧ (∀ a, r.action = .toChild a → (childOfAddr s a = none → lost)
              ∧ (∀ n, childOfAddr s a = some n → exec c s = .next (kept s (sendDown n p s))))
          ∧ (r.action = .toLocal →
              (∀ slot, lookup s x = some slot →
                ((endpoint s slot).parityOk = false → exec c s =
                  .next (raise src 0x300C [slot] { s with tstat.parityErrors := s.tstat.parityErrors.inc }))
                ∧ ((endpoint s slot).parityOk = true → (endpoint s slot).state = .barred → exec c s = .next s)
                ∧ ((endpoint s slot).parityOk = true → (endpoint s slot).state ≠ .barred →
                    exec c s = .next (kept s (sendDatagram src slot p s))))
              ∧ (lookup s x = none → (∀ e ∈ s.cov.tables.spills, e.2.eui ≠ x) → lost)
              ∧ (lookup s x = none → (∃ e ∈ s.cov.tables.spills, e.2.eui = x) →
                  (cfg s 0x0303 0 6 2 64 ≤ s.tstat.floods →
                    exec c s = .next { s with tstat.spillDropped := s.tstat.spillDropped.inc })
                  ∧ (s.tstat.floods < cfg s 0x0303 0 6 2 64 → ∃ t, exec c s = .next t
                      ∧ t.tstat.floods = s.tstat.floods + 1 ∧ t.tstat.spillFloods = s.tstat.spillFloods.inc))))

/-- In processing, the values of a data notification whose frame ingest accepts, from an endpoint whose plan takes pushes,
are queued in order, once; without such a plan it counts in NO_PLAN. A response ends the slot's outstanding read and its
values are queued; a refused association counts in ASSOC_REFUSED. A due read of a slot that answers reads and whose bearer
queue is at most three quarters full sends one request and is outstanding from then; with a fuller queue it is deferred. A
read of 256 ticks without an answer fails and is forgotten, an earlier one stays. A serial request without a reply is
repeated at most twice, then its read fails and the next request leaves. A history fetched from an unreadable grain
removes every history of its slot and no other. The model's own readings or choices that it rests on: assumption log 48. -/
def Obligations.ApdusAndReads : Prop :=
  (∀ (u : Upstream) (time : Option DateTime) (vs : List DlmsValue) (apdu : List Byte) (s v : State) (slot : Nat), Processing s →
      ingestFrame u none s = (some slot, v) → v.work.handled.contains (0x2000 + u.org.port, u.org.pos) = false →
      let w : State := { v with work.handled := (0x2000 + u.org.port, u.org.pos) :: v.work.handled }
      (∀ p, planOf w slot = some p → testBit p.flags 1 = true →
          exec (.dataNotification u time vs apdu) s =
            .next (kept s (vs.foldl (fun s x => valueReading slot p u time vs apdu x s) w)))
      ∧ ((∀ p, planOf w slot = some p → testBit p.flags 1 = false) →
          exec (.dataNotification u time vs apdu) s = .next (kept s { w with ingest.noPlan := w.ingest.noPlan.inc }))
      ∧ exec (.getResponse u true vs apdu) s =
          .next (kept s { readAnswered slot w with ingest.assocRefused := w.ingest.assocRefused.inc })
      ∧ (∀ p, planOf w slot = some p → exec (.getResponse u false vs apdu) s =
          .next (kept s (vs.foldl (fun s x => valueReading slot p u none vs apdu x s) (readAnswered slot w)))))
  ∧ (∀ (slot : BitVec 20) (s : State) (p : Plan), Processing s → planOf s slot.toNat = some p →
      let e := endpoint s slot.toNat
      let q := (s.ingest.queue (bearerOf e.port.toNat)).length
      let limit := queueLimit (bearerOf e.port.toNat)
      let now := (logUtc s.work.log).toNat * 1000000000 + s.work.log.start.ns.toNat
      let due := decide (0 < p.period) && readDue slot.toNat p.period (now - nominalTickNs s) now
      let others := s.ingest.deferred.filter (· != slot.toNat)
      ((due || s.ingest.deferred.contains slot.toNat) = true → e.state = .active ∨ e.state = .silent →
        (limit * 3 < q * 4 → exec (.collectionReadDue slot) s =
          .next { s with ingest.deferred := others ++ [slot.toNat] })
        ∧ (q * 4 ≤ limit * 3 → (readDescriptors s.cov.sys.records p).isEmpty = false → bearerOf e.port.toNat ∈ [1, 2, 3] →
            exec (.collectionReadDue slot) s = .next (kept s (sendApdu (Src.sweep (recordEngine slot.toNat)) slot.toNat p.security
              (readRequest (readDescriptors s.cov.sys.records p))
              { s with ingest.deferred := others,
                       ingest.reads := s.ingest.reads.filter (fun r => r.1 != slot.toNat) ++ [(slot.toNat, s.work.log.tick)] }))))
      ∧ ((due || s.ingest.deferred.contains slot.toNat) = false → exec (.collectionReadDue slot) s = .next s)
      ∧ (e.state = .barred → exec (.collectionReadDue slot) s = .next s))
  ∧ (∀ (slot : BitVec 20) (s : State) (r : Nat × BitVec 48), Processing s →
      s.ingest.reads.find? (fun r => r.1 == slot.toNat) = some r →
      exec (.collectionReadTimeout slot) s = .next (if r.2.toNat + 256 ≤ s.work.log.tick.toNat then
        { readAnswered slot.toNat s with ingest.readFailed := s.ingest.readFailed.inc } else s))
  ∧ (∀ (s : State) (p : SerialPoll) (rest : List SerialPoll), capturing s = true → faultOn s 6 false = false →
      s.ingest.serialA = p :: rest →
      (p.repeats < 2 → exec (.serialReplyTimeout false) s = .next { s with
        ingest.serialA := { p with repeats := p.repeats + 1 } :: rest, out := s.out ++ [.serial false p.request] })
      ∧ (2 ≤ p.repeats → exec (.serialReplyTimeout false) s = .next { s with
          ingest.serialA := rest, ingest.readFailed := s.ingest.readFailed.inc,
          ingest.reads := s.ingest.reads.filter (fun r => r.1 != p.slot),
          out := s.out ++ (rest.take 1).map fun n => .serial false n.request }))
  ∧ (∀ (slot : BitVec 20) (code : BitVec 12) (s : State), running s = true →
      let pair := pairOf slot.toNat code.toNat
      let t : State := { s with ingest.fetches := s.ingest.fetches.filter (· != pair), ingest.fetched := s.ingest.fetched ++ [pair] }
      (s.ingest.fetches.contains pair = true →
        exec (.historyFetch slot code true) s = .next t
        ∧ ∃ u, exec (.historyFetch slot code false) s = .next u ∧ u.ingest = t.ingest
            ∧ u.store = { s.store with uncorrectable := s.store.uncorrectable.inc }
            ∧ u.cov.ledger.histories = s.cov.ledger.histories.filter fun h => h.1 / 4096 != slot.toNat)
      ∧ (s.ingest.fetches.contains pair = false → ∀ ok, exec (.historyFetch slot code ok) s = .next s))

/-- In processing, a batch on a child port of a unit that takes batches is answered by one ACK: 4 where its child entry is
refused, 2 for a version the parent does not accept, 3 for an inconsistent layout, 1 with nothing queued where its new
entries do not fit, and 0 otherwise, with the entries above the highest sequence queued in order and TRIB_GAP raised where
the first leaves a gap. On any other port it does nothing. An ACK of the parent advances the watermark of the unit's own
ledger, sets the BUSY pause for status 1 and stops sending for version 0; a child that sends takes the next records into
one batch and moves on by them; without an advance for 256 ticks it starts again behind the watermark; a pause ends after
its 16 ticks. -/
def Obligations.TributaryExchange : Prop :=
  (∀ (b : BatchIn) (s : State), Processing s →
      let src := Src.frame b.org
      (takesBatches s b.ethPort = false → exec (.batch b) s = .next s)
      ∧ (takesBatches s b.ethPort = true → childOfAddr s b.addr = none →
          (cfg s 0x0303 0 0xA 1 0 = 1 ∨ freeChild s = none) →
          exec (.batch b) s = .next (kept s (batchAck b 0 4 (raise src 0x300A [b.ethPort.toNat, b.addr.toNat % 2 ^ 32]
            { s with tstat.childRefused := s.tstat.childRefused.inc }))))
      ∧ (∀ n v, takesBatches s b.ethPort = true → batchChild src b s = (some n, v) →
          (b.version ≠ 1 → b.version ≠ 2 →
            exec (.batch b) s = .next (kept s (batchAck b n 2 (raise src 0x4008 [n, b.version, 2] v))))
          ∧ (b.version = 1 ∨ b.version = 2 →
              (batchSound b = false → exec (.batch b) s =
                .next (kept s (batchAck b n 3 { v with ingest.tribMalformed := v.ingest.tribMalformed.inc })))
              ∧ (batchSound b = true →
                  let w := batchLedger src b n v
                  let fresh := batchNew b (batchHigh n w)
                  let needs := w.ingest.tribQ.length + fresh.length + bit (b.trailer.isSome && 2 ≤ b.version)
                  (18432 < needs → exec (.batch b) s = .next (kept s (batchAck b n 1
                    (raise src 0x400A [n, fresh.length] { w with ingest.tribBusy := w.ingest.tribBusy.inc }))))
                  ∧ (needs ≤ 18432 →
                      let taken : State :=
                        { w with ingest.tribDuplicates := w.ingest.tribDuplicates.add (b.entries.length - fresh.length),
                                 ingest.batches := w.ingest.batches.inc }
                      let queue (x : State) := batchAck b n 0 (batchTrailer src b n (fresh.foldl (fun s e => batchEntry src b n e s) x))
                      (∀ h e rest, batchHigh n w = some h → fresh = e :: rest → h + 1 < e.sequence.toNat →
                          exec (.batch b) s = .next (kept s (queue (raise src 0x4007 [n, h + 1, e.sequence.toNat] taken))))
                      ∧ ((∀ h e rest, batchHigh n w = some h → fresh = e :: rest → e.sequence.toNat ≤ h + 1) →
                          exec (.batch b) s = .next (kept s (queue taken))))))))
  ∧ (∀ (status : Nat) (mark : BitVec 32) (ledger : BitVec 64) (s : State), capturing s = true →
      (∃ t, exec (.tributaryAck 0 status mark ledger) s = .next t ∧ t.ingest.trib = { s.ingest.trib with stopped := true, version := 0 }
        ∧ t.cap.log.events = s.cap.log.events ++ [(0x4008, [0, 0, 2])])
      ∧ (∀ v, 1 ≤ v →
          let held := { s.ingest.trib with
            version := min v 2, stopped := false,
            pauseTo := if status = 1 then some (s.cap.tick + 16) else s.ingest.trib.pauseTo }
          (mark = 0xFFFFFFFF ∨ some ledger ≠ s.store.ledgerId ∨ s.ingest.trib.watermark = some mark →
            exec (.tributaryAck v status mark ledger) s = .next { s with ingest.trib := held })
          ∧ (mark ≠ 0xFFFFFFFF → some ledger = s.store.ledgerId → s.ingest.trib.watermark ≠ some mark →
              exec (.tributaryAck v status mark ledger) s = .next { s with ingest.trib := { held with
                watermark := some mark, lastTick := s.cap.tick,
                sent := if s.ingest.trib.sent.toNat ≤ mark.toNat then mark + 1 else s.ingest.trib.sent } })))
  ∧ (∀ (s : State),
      (s.ingest.trib.pauseTo.isSome = true → exec .tributarySend s = .next s)
      ∧ (∀ r rs, sendsUp s = true → s.ingest.trib.pauseTo = none →
          nextBatch s = r :: rs → faultOn s (0x10 + headPort s) false = false →
          exec .tributarySend s = .next { s with
            ingest.trib := { s.ingest.trib with sent := BitVec.ofNat 32 (batchStart s + (rs.length + 1)),
                                                batchSeq := s.ingest.trib.batchSeq + 1 },
            out := s.out ++ [.tributary none (batchBytes s r (r :: rs))] })
      ∧ (nextBatch s = [] → exec .tributarySend s = .next s))
  ∧ (∀ (s : State), capturing s = true →
      let low : BitVec 32 := match s.ingest.trib.watermark with | some w => w + 1 | none => 0
      (low.toNat < s.ingest.trib.sent.toNat → s.ingest.trib.lastTick.toNat + 256 ≤ s.cap.tick.toNat →
        exec .tributaryResend s = .next { s with ingest.trib := { s.ingest.trib with sent := low, lastTick := s.cap.tick } })
      ∧ (s.cap.tick.toNat < s.ingest.trib.lastTick.toNat + 256 → exec .tributaryResend s = .next s)
      ∧ (∀ t, s.ingest.trib.pauseTo = some t →
          (t.toNat ≤ s.cap.tick.toNat → exec .tributaryBusyPauseEnd s = .next { s with ingest.trib.pauseTo := none })
          ∧ (s.cap.tick.toNat < t.toNat → exec .tributaryBusyPauseEnd s = .next s)))

/-- Writing packages, seals becoming durable, checkpoints, history write-backs, refresh, garbage collection, merges and
block failures change nothing but the store, the recorder, the snapshots that wait for a durable seal, and the vault's
mirror where its region fails, and of the store they leave every seal and every record. Of these only a seal becoming
durable changes which seal is durable. The model's own readings or choices that it rests on: assumption log 57. -/
def Obligations.StoreKeepsSealsAndRecords : Prop :=
  ∀ (s t : State) (slot : BitVec 20) (n : Nat),
    ∀ c ∈ [Instr.tickPackageWrite, .sealDurable, .checkpointBegin, .checkpointComplete, .historyWriteback slot,
        .grainProgramFailed n, .blockEraseFailed n, .blockRefresh n, .garbageCollection, .coarseLogMerge],
      exec c s = .next t →
        t = { s with store := t.store, recorder := t.recorder, seals := t.seals, snaps := t.snaps, keys.mirrorB := t.keys.mirrorB }
        ∧ t.store.seals = s.store.seals ∧ t.store.records = s.store.records
        ∧ (c ≠ .sealDurable → t.store.durable = s.store.durable ∧ t.seals = s.seals ∧ t.snaps = s.snaps)

/-- While the store works: the body of the oldest package without one is programmed and the package keeps its first page;
a header whose body is programmed makes its seal durable, and the package and what waited for the seal go; a header whose
body is not programmed makes none durable. A due checkpoint begins with the grains changed since the last one and the
history pairs that differ from their grains, or is skipped and counted where one is in progress. A write-back is
programmed once its seal is durable, and its slot's pairs are clean. A checkpoint completes once its seal is durable: its
root is the latest, none is in progress and the journal starts anew; before that it stays in progress. The model's own
readings or choices that it rests on: assumption log 58, 59. -/
def Obligations.StoreProgress : Prop :=
  (∀ (s : State) (p : Package) (st : Store), storeOn s = true → s.store.packages.find? (fun p => p.first.isNone) = some p →
      s.store.program hotStream 0 (storeNow s) (packageGrains p) = some st →
      ∃ t, exec .tickPackageWrite s = .next t ∧ t.store = { st with
        packages := st.packages.map fun q => if q.tick = p.tick then { q with first := some s.store.pageSeq } else q,
        lastLow := t.store.lastLow })
  ∧ (∀ (s : State) (p : Package) (rest : List Package), storeOn s = true → s.store.packages = p :: rest →
      (∀ st, p.first.isSome = true →
          s.store.program hotStream 0 (storeNow s) [newGrain 0x21 ((packageGrains p).length + 1) p.tick.toNat] = some st →
          ∃ t, exec .sealDurable s = .next t ∧ t.store.packages = rest ∧ t.store.durable = some p.tick
            ∧ t.seals = s.seals.filter (fun x => p.tick < x.tick) ∧ t.snaps = s.snaps.filter (fun x => p.tick < x.1 || x.1 == p.tick))
      ∧ (p.first = none → ∃ t, exec .sealDurable s = .next t ∧ t.store = { s.store with lastLow := t.store.lastLow }))
  ∧ (∀ (s : State) (c : BitVec 48), storeOn s = true → s.store.ckptDue = some c →
      ∃ t, exec .checkpointBegin s = .next t ∧ t.store.ckptDue = none
        ∧ (s.store.checkpoint = none → t.store.stateDirty = []
            ∧ t.store.checkpoint.map (fun k => (k.tick, k.grains)) = some (c, s.store.stateDirty)
            ∧ t.store.writebacks = s.store.writebacks ++ s.store.dirtyPairs.map fun d => (d.1 / 4096, d.2))
        ∧ (∀ k, s.store.checkpoint = some k → t.store.checkpoint = some k ∧ t.store.ckptLate = s.store.ckptLate.inc))
  ∧ (∀ (s : State) (slot : BitVec 20) (n : Nat) (d : BitVec 48) (st : Store), storeOn s = true →
      writebackTick s.store slot.toNat = some n → s.store.durable = some d →
      (n ≤ d.toNat → s.store.program hotStream 0 (storeNow s) [newGrain 2 (0x10000 + slot.toNat) n] = some st →
        ∃ t, exec (.historyWriteback slot) s = .next t ∧ t.store = { st with
          writebacks := st.writebacks.filter (fun w => w.1 != slot.toNat),
          dirtyPairs := st.dirtyPairs.filter (fun d => d.1 / 4096 != slot.toNat), lastLow := t.store.lastLow })
      ∧ (d.toNat < n → ∃ t, exec (.historyWriteback slot) s = .next t ∧ t.store = { s.store with lastLow := t.store.lastLow }))
  ∧ (∀ (s : State) (c : Checkpoint) (d : BitVec 48), storeOn s = true → s.store.checkpoint = some c → s.store.durable = some d →
      (d < c.tick → ∃ t, exec .checkpointComplete s = .next t ∧ t.store = { s.store with lastLow := t.store.lastLow })
      ∧ (c.tick ≤ d →
          let v := s.store.writebacks.foldl (fun s w => if w.2 ≤ d then writeHistory w.1 w.2.toNat s else s) s
          let hash := match tget v.store.seals c.tick.toNat with | some x => x.body.hash | none => []
          ∀ st, v.store.finish c hash v.radio.ledger (storeNow v) = some st →
            ∃ t, exec .checkpointComplete s = .next t ∧ t.store.checkpoint = none ∧ t.store.journal = []
              ∧ t.store.roots.head?.map (fun r => (r.tick, r.hash)) = some (c.tick, hash)))

/-- While the store works: the block that expires next loses its grains and is free; the records whose grain lay elsewhere
stay, and no record stays whose grain lay in it; where none has expired nothing does. Below the reserve, with none
expired, the earliest class block goes the same way and is counted; at the reserve none does. Garbage collection moves the
live grains of the block with the fewest, refresh those of the block named; in a test format the oldest log block is
merged. A block whose erase fails is retired, a closed block of a data stream whose program fails has its live grains
moved and is retired, and a block that holds nothing of the store is left alone. The model's own readings or choices that
it rests on: assumption log 57, 59, 60. -/
def Obligations.StoreUpkeep : Prop :=
  (∀ (s : State) (b : Nat × Block) (st : Store), storeOn s = true → s.store.expire b.1 (storeNow s) = some st →
      let inBlock (lga : Nat) : Prop := ∃ m ∈ s.store.map, m.1 = lga ∧ blockOfPga m.2 = b.1
      let gone (t : State) : Prop := t.store = { st with lastLow := t.store.lastLow, earlyExpiries := t.store.earlyExpiries }
        ∧ (∀ q r, (q, r) ∈ s.store.records → ¬ inBlock r.lga → r.payLga = none → (q, r) ∈ t.store.records)
        ∧ (∀ q r, (q, r) ∈ t.store.records → ¬ inBlock r.lga)
        ∧ (t.store.block b.1).grains = [] ∧ (t.store.block b.1).state = .free
      (earliest (s.store.classBlocks.filter fun b => expired (storeNow s) (ticksPerS s) b.2) = some b →
        ∃ t, exec .blockExpiry s = .next t ∧ gone t)
      ∧ (earliest s.store.classBlocks = some b → (∀ x ∈ s.store.classBlocks, expired (storeNow s) (ticksPerS s) x.2 = false) →
          s.store.free < s.store.reserve (cfg s 0x0601 0 4 2 70) →
          ∃ t, exec .earlyExpiry s = .next t ∧ gone t ∧ t.store.earlyExpiries = st.earlyExpiries.inc))
  ∧ (∀ (s : State), storeOn s = true → lowDue s = false →
      ((∀ x ∈ s.store.classBlocks, expired (storeNow s) (ticksPerS s) x.2 = false) → exec .blockExpiry s = .next s)
      ∧ (s.store.reserve (cfg s 0x0601 0 4 2 70) ≤ s.store.free → exec .earlyExpiry s = .next s)
      ∧ (∀ n, s.store.block n = Block.fresh → exec (.blockRefresh n) s = .next s ∧ exec (.grainProgramFailed n) s = .next s))
  ∧ (∀ (s : State) (n : Nat) (st : Store), storeOn s = true → s.store.mode = .fine →
      (s.store.victim = some n → s.store.moveBlock n false (storeNow s) = some st →
        ∃ t, exec .garbageCollection s = .next t ∧ t.store = { st with lastLow := t.store.lastLow })
      ∧ ((s.store.block n).state = .closed → (s.store.block n).stream < 0x12 → s.store.moveBlock n true (storeNow s) = some st →
          ∃ t, exec (.blockRefresh n) s = .next t ∧ t.store = { st with lastLow := t.store.lastLow }))
  ∧ (∀ (s : State) (b : Nat) (st : Store), storeOn s = true → s.store.mode = .coarseTest → s.store.logBlocks.length = 8 →
      s.store.logBlocks.getLast? = some b → s.store.perBlock ≤ (s.store.block b).grains.length → s.store.mergeOldest = some st →
      ∃ t, exec .coarseLogMerge s = .next t ∧ t.store = { st with lastLow := t.store.lastLow })
  ∧ (∀ (s : State) (n : Nat), storeOn s = true →
      (n % 8192 < s.store.perLun → n / 8192 ∈ s.store.lunSet → (s.store.block n).state = .free ∨ (s.store.block n).state = .released →
        ∃ t, exec (.blockEraseFailed n) s = .next t ∧ (t.store.block n).state = .retired ∧ (t.store.block n).grains = [])
      ∧ (∀ st, (s.store.block n).state = .closed → (s.store.block n).stream < 0x12 →
          { s.store with programFails := s.store.programFails.inc }.moveBlock n true (storeNow s) = some st →
          ∃ t, exec (.grainProgramFailed n) s = .next t ∧ (t.store.block n).state = .retired ∧ (t.store.block n).grains = []))

/-- A Sync on the slave port gives a sample θ. Above STEP_NS the time base steps by −θ, STEPPED is set and a lock is lost.
Otherwise the rate follows the sample and never passes 100,000 ppb either way; sixteen samples below LOCK_NS in a row lock
an acquiring servo, one at or above it starts the count again, and four in a row above four times LOCK_NS unlock a locked
one. The first delay exchange sets the path delay and later ones move it by an eighth. A PPS edge is a sample in PPS_HOLD
alone, its absence ends PPS_HOLD in HOLDOVER, where the rate is the integral; HOLDOVER expires to FREE with rate 0. While
LOCKED, and only then, the VBAT counter takes the seconds. The inserted second's end raises UTC_OFFSET by one. The model's
own readings or choices that it rests on: assumption log 61. -/
def Obligations.ClockServo : Prop :=
  (∀ (port : Nat) (t1 t2 : FullStamp) (corr tau theta : Int) (s : State), clockOn s = true → ptpProfile s ≠ 0 → s.time.slave = some port →
      theta = fullNs t2 + latency s port true - fullNs t1 - s.time.path - corr →
      let step : Nat := ptp s 0x10 4 100000 * 65536
      let lock : Nat := ptp s 0x14 4 1000 * 65536
      let far := step ≠ 0 ∧ step < theta.natAbs
      ∃ t, exec (.ptpSync port t1 t2 corr tau) s = .next t ∧ t.time.theta = theta ∧ t.time.syncs = s.time.syncs.inc
        ∧ (far → t.time.stepped = true ∧ t.time.steps = s.time.steps.inc
            ∧ t.time.sec = BitVec.ofNat 48 ((clockNs s - theta).toNat / 65536 / 1000000000)
            ∧ t.time.ns = BitVec.ofNat 32 ((clockNs s - theta).toNat / 65536 % 1000000000)
            ∧ t.time.frac = BitVec.ofNat 16 ((clockNs s - theta).toNat % 65536)
            ∧ t.time.servo = if s.time.servo = .locked then .acquiring else s.time.servo)
        ∧ (¬ far → t.time.sec = s.time.sec ∧ t.time.ns = s.time.ns ∧ t.time.frac = s.time.frac
            ∧ -(100000 * 65536) ≤ t.time.rate ∧ t.time.rate ≤ 100000 * 65536
            ∧ (s.time.servo = .acquiring →
                (theta.natAbs < lock → 15 ≤ s.time.lockRun → t.time.servo = .locked)
                ∧ (theta.natAbs < lock → s.time.lockRun < 15 → t.time.servo = .acquiring ∧ t.time.lockRun = s.time.lockRun + 1)
                ∧ (lock ≤ theta.natAbs → t.time.servo = .acquiring ∧ t.time.lockRun = 0))
            ∧ (s.time.servo = .locked →
                (4 * lock < theta.natAbs → 3 ≤ s.time.unlockRun → t.time.servo = .acquiring)
                ∧ (4 * lock < theta.natAbs → s.time.unlockRun < 3 → t.time.servo = .locked ∧ t.time.unlockRun = s.time.unlockRun + 1)
                ∧ (theta.natAbs ≤ 4 * lock → t.time.servo = .locked ∧ t.time.unlockRun = 0))))
  ∧ (∀ (port : Nat) (t1 t2 t3 t4 : FullStamp) (s : State), clockOn s = true → ptpProfile s ≠ 0 → s.time.slave = some port →
      s.time.exchange = some port →
      let d := pathDelay (ptpProfile s) (fullNs t1) (fullNs t2) (fullNs t3) (fullNs t4)
      exec (.ptpDelayExchange port t1 t2 t3 t4) s = .next { s with
        time.path := (if s.time.pathSet then s.time.path + (d - s.time.path) / 8 else d), time.pathSet := true, time.exchange := none })
  ∧ (∀ (stamp : FullStamp) (s : State), clockOn s = true →
      (ppsFlag s = false → exec (.ppsEdge stamp) s = .next s)
      ∧ (ppsFlag s = true → s.time.servo ≠ .ppsHold → exec (.ppsEdge stamp) s = .next { s with time.ppsSeen := true })
      ∧ (ppsFlag s = true → s.time.servo = .ppsHold →
          let v : Int := stamp.ns.toNat * 65536 + stamp.frac.toNat
          exec (.ppsEdge stamp) s = .next (kept s (servoSample (if 500000000 * 65536 ≤ v then v - 1000000000 * 65536 else v) 0
            { s with time.ppsSeen := true })))
      ∧ (s.time.servo ≠ .ppsHold → exec .ppsTimeout s = .next { s with time.ppsSeen := false })
      ∧ (s.time.servo = .ppsHold → ∃ t, exec .ppsTimeout s = .next t ∧ t.time.ppsSeen = false ∧ t.time.servo = .holdover
          ∧ t.time.rate = s.time.integral)
      ∧ (s.time.servo = .holdover → ∃ t, exec .holdoverExpiry s = .next t ∧ t.time.servo = .free ∧ t.time.rate = 0
          ∧ t.time.integral = s.time.integral)
      ∧ (s.time.servo ≠ .holdover → exec .holdoverExpiry s = .next s)
      ∧ (s.time.servo = .locked → exec .rtcWrite s = .next { s with sys.vbat := { s.sys.vbat with seconds := s.time.sec, valid := true } })
      ∧ (s.time.servo ≠ .locked → exec .rtcWrite s = .next s)
      ∧ (s.time.leapOn = true → exec .leapSecondEnd s = .next { s with
          time.utcOffset := BitVec.ofNat 8 (utcOffset s) + 1, time.leapOn := false, time.leap61 := false })
      ∧ (s.time.leapOn = false → exec .leapSecondEnd s = .next s))

/-- With PTP on: a malformed Announce counts and changes nothing else, one of the unit itself or of 255 steps is ignored,
one better than the port's best, or from the same sender, takes its place and the ports are decided anew, and a port that
hears none for its timeout forgets its best. A master port of a unit that captures sends Sync with its departure, two
messages where it is not one-step, and Announce with the parent's data set one step on while it is synchronised; it
answers a Delay_Req with its arrival, and a Pdelay_Req with its turnaround. A Delay_Req leaves the slave port and opens an
exchange. A trigger in its mode makes one pulse, a serial launch at its instant sends its payload on an idle port and is
dropped and counted behind it, and a time message ends with its reply, or as refused without one for 256 ticks. The
model's own readings or choices that it rests on: assumption log 62. -/
def Obligations.PtpMessagesAndTriggers : Prop :=
  (∀ (port : Nat) (a : AnnounceData) (s : State), clockOn s = true → ptpProfile s ≠ 0 → port < 4 →
      let p := ptpPort s port
      exec (.announce port a false) s = .next { s with time.ptpDropped := s.time.ptpDropped.inc }
      ∧ (a.sender = ownEui s ∨ 255 ≤ a.steps → exec (.announce port a true) s = .next s)
      ∧ (a.sender ≠ ownEui s → a.steps < 255 →
          (p.best = none ∨ (∃ b, p.best = some b ∧ (b.sender = a.sender ∨ betterData a b = true)) →
            exec (.announce port a true) s = .next (kept s (decidePorts (fun _ => false)
              { s with time.ports := s.time.ports.set port { p with best := some a } })))
          ∧ (∀ b, p.best = some b → b.sender ≠ a.sender → betterData a b = false → exec (.announce port a true) s = .next s))
      ∧ (∀ b, p.best = some b → exec (.announceTimeout port) s = .next (kept s (decidePorts (fun n => n == port)
          { s with time.announceTimeouts := s.time.announceTimeouts.inc, time.ports := s.time.ports.set port { p with best := none } }))))
  ∧ (∀ (port : Nat) (t : FullStamp) (s : State), clockOn s = true → faultOn s (0x10 + port) false = false →
      let left := fullNs t + latency s port false
      (sendsAsMaster s port = true →
        (oneStep s port = true → exec (.ptpMasterSend port true t) s = .next (emit (.ethernet port 0 ([0] ++ ptpStamp left)) s))
        ∧ (oneStep s port = false → exec (.ptpMasterSend port true t) s =
            .next (emit (.ethernet port 8 (ptpStamp left)) (emit (.ethernet port 0 [2]) s)))
        ∧ (s.time.servo.synced = false → exec (.ptpMasterSend port false t) s =
            .next (emit (.ethernet port 11 (announceBytes (ownData s) s)) s))
        ∧ (∀ p, s.time.servo.synced = true → s.time.parent = some p → exec (.ptpMasterSend port false t) s =
            .next (emit (.ethernet port 11 (announceBytes { p with steps := p.steps + 1 } s)) s))
        ∧ (ptpProfile s = 1 → ∀ x, exec (.delayReq port t x) s =
            .next (emit (.ethernet port 9 (ptpStamp (fullNs t + latency s port true) ++ euiBytes x)) s)))
      ∧ (sendsAsMaster s port = false → exec (.ptpMasterSend port true t) s = .next s ∧ exec (.ptpMasterSend port false t) s = .next s
          ∧ ∀ x, exec (.delayReq port t x) s = .next s)
      ∧ (ptpProfile s = 2 → port < 4 → maySlave s port = true ∨ mayMaster s port = true → ∀ a : FullStamp,
          let came := fullNs a + latency s port true
          (oneStep s port = true → exec (.pdelayReq port a t) s =
            .next (emit (.ethernet port 3 (zeros 10 ++ be 8 (left - came).toNat)) s))
          ∧ (oneStep s port = false → exec (.pdelayReq port a t) s =
              .next (emit (.ethernet port 10 (ptpStamp left)) (emit (.ethernet port 3 (ptpStamp came)) s))))
      ∧ (ptpProfile s = 1 → port < 4 → s.time.slave = some port → exec (.delayReqSend port t) s =
          .next (emit (.ethernet port 1 (be 8 (left / 65536).toNat)) { s with time.exchange := some port })))
  ∧ (∀ (n : Nat) (boundary : Bool) (s : State), clockOn s = true → n < 4 →
      let w := ptp s (0x20 + 2 * n) 2 0
      let start := if boundary then nowNs s else (s.time.sec.toNat + 1) * 1000000000
      (w % 4 = (if boundary then 2 else 1) → exec (.triggerPulse n boundary) s = .next { s with
        time.triggers := s.time.triggers.set n (start + w / 16 * 1000), out := s.out ++ [.trigger n (!testBit w 2)] })
      ∧ (w % 4 ≠ (if boundary then 2 else 1) → exec (.triggerPulse n boundary) s = .next s))
  ∧ (∀ (at_ : Stamp) (s : State) (l : SerialLaunchEntry) (rest : List SerialLaunchEntry), capturing s = true →
      s.time.serialA = l :: rest →
      (l.atNs = stampNs at_ → s.ingest.serialA = [] → faultOn s 6 false = false → exec (.serialLaunch false at_) s = .next { s with
        time.serialA := rest, out := s.out ++ [.serial false l.payload] })
      ∧ (l.atNs < stampNs at_ ∨ (l.atNs = stampNs at_ ∧ s.ingest.serialA ≠ []) → exec (.serialLaunch false at_) s = .next { s with
          time.serialA := rest, time.serLate := s.time.serLate.inc }))
  ∧ (∀ (org : Org) (slot : BitVec 20) (result : Byte) (s : State) (m : TimeMsg), Processing s →
      (s.time.msgs.find? (fun m => m.slot == slot.toNat) = some m →
        exec (.timeSetResponse org slot result) s = .next (if result = 0 then
          { s with time.msgs := s.time.msgs.erase m, time.timeSets := s.time.timeSets.inc }
          else raise (Src.slot m.slot org) 0x7012 [m.slot, m.bearer, result.toNat]
            { s with time.msgs := s.time.msgs.erase m, time.timeSetRefused := s.time.timeSetRefused.inc }))
      ∧ (s.time.msgs.find? (fun m => m.slot == slot.toNat && decide (m.tick.toNat + 256 ≤ s.work.log.tick.toNat)) = some m →
          exec (.timeSetTimeout org slot) s = .next (raise (Src.slot m.slot org) 0x7012 [m.slot, m.bearer, 0xFF]
            { s with time.msgs := s.time.msgs.erase m, time.timeSetRefused := s.time.timeSetRefused.inc }))
      ∧ ((∀ m ∈ s.time.msgs, s.work.log.tick.toNat < m.tick.toNat + 256) → exec (.timeSetTimeout org slot) s = .next s))

/-- In a processing, the meter records built so far are shared out first. The earliest period of the feeder that is due is
then evaluated: the result holds the energies of R304, its tests set LOSS, OVER or INCOMPLETE, the period is no longer
held open, FEEDER_BALANCE is raised ahead of the event of the test, and suspects are named only behind a loss. Where no
period is due, nothing else happens. The model's own readings or choices that it rests on: assumption log 54. -/
def Obligations.BalancesAreEvaluated : Prop :=
  ∀ (f : Nat) (s : State), Processing s →
    let m := meterOnce s
    (dueEnds m f = [] → exec (.balanceEvaluation f) s = .next (kept s m))
    ∧ (∀ e rest, dueEnds m f = e :: rest →
      let c := feeder m f
      let p := (heldPeriod m f c.period e).getD (Period.fresh e)
      let fe := Int.tdiv p.netMj 3600
      let me := scale10 p.meterMilli c.scale
      let loss : Int := ((c.rLine * p.i2tLine + c.rNeutral * p.i2tNeutral) / 3600000000000 + c.fixedMw * c.period / 3600 : Nat)
      let res := fe - me - loss
      ∃ t b, exec (.balanceEvaluation f) s = .next t ∧ tgetD t.cov.metro.balances f Balance.blank = b
        ∧ (b.periodEnd = p.periodEnd ∧ b.feederMwh = fe ∧ b.meterMwh = me ∧ b.lossMwh = loss ∧ b.residual = res
          ∧ b.lateMilli = 0 ∧ b.suspects = p.suspects ∧ b.covTime = min 1000 (p.metered / (c.period * 5000)))
        ∧ (let bad := b.covMeters < c.minCov ∨ b.covTime < c.minCov
           let first : Raised := ⟨metroSrc, 0x5010, [f + 256 * b.flags.toNat, e, whParam res, whParam fe]⟩
           (bad → b.flags = 9 ∧ t.work.events = ⟨metroSrc, 0x5014, [f, e, b.covMeters, b.covTime]⟩ :: first :: m.work.events)
           ∧ (¬bad → (c.threshPm : Int) * fe.natAbs < 1000 * res.natAbs → 1000 * (c.threshWh : Int) < res →
              b.flags = 3 ∧ t.work.events = (p.suspects.map fun x => ⟨metroSrc, 0x5012, [f + 256 * x.2, x.1, e]⟩).reverse
                ++ ⟨metroSrc, 0x5011, [f + 256 * p.suspects.length, e, whParam res, c.threshWh]⟩ :: first :: m.work.events)
           ∧ (¬bad → (c.threshPm : Int) * fe.natAbs < 1000 * res.natAbs → res < -(1000 * (c.threshWh : Int)) →
              b.flags = 5 ∧ t.work.events = ⟨metroSrc, 0x5013, [f, e, whParam res, whParam fe]⟩ :: first :: m.work.events)
           ∧ (¬bad → (1000 * res.natAbs ≤ (c.threshPm : Int) * fe.natAbs
                ∨ (res ≤ 1000 * (c.threshWh : Int) ∧ -(1000 * (c.threshWh : Int)) ≤ res)) →
              b.flags = 1 ∧ t.work.events = first :: m.work.events))
        ∧ (∀ h, tget m.cov.metro.periods (f * 256 + e / c.period % 8) = some h →
            t.cov.metro.periods = tdel m.cov.metro.periods (f * 256 + e / c.period % 8))
        ∧ t.cov.tables = m.cov.tables ∧ t.cov.ledger = m.cov.ledger ∧ t.cov.keys = m.cov.keys ∧ t.cov.metro.energy = m.cov.metro.energy)

/-- A source that is active already, or whose TAMPER_ENABLE fuse stands unburned, and a source that becomes inactive, move
its status bit alone. An enabled source that trips on a unit that runs in MANUFACTURE, PROVISION or FIELD leaves no key
value, kept value or session key, counts, and where no latch stands sets it with the seconds of the VBAT domain and calls
for the burn of one quarantine entry; in last-gasp mode it does the same and calls for no burn; in QUARANTINE or SCRAP it
is reported and counted alone; with only VBAT present it sets the latch. The burn, ahead of every other, sets the lowest
unburned entry and clears the latch. The model's own readings or choices that it rests on: assumption log 66, 69. -/
def Obligations.TamperAlarms : Prop :=
  (∀ (source : Nat) (s : State), source < 10 →
      let bit_ := BitVec.ofNat 10 (2 ^ source)
      let set : State := { s with keys.active := s.keys.active ||| bit_ }
      let enabled := (s.keys.fuses.tamper ||| s.hw.record.tamper).getLsbD source
      let calm := hwLifeState s ≠ .quarantine ∧ hwLifeState s ≠ .scrap
      exec (.tamperAlarm source false) s = .next { s with keys.active := s.keys.active &&& ~~~bit_ }
      ∧ (s.keys.active.getLsbD source = true → exec (.tamperAlarm source true) s = .next s)
      ∧ (s.keys.active.getLsbD source = false →
        (enabled = false → exec (.tamperAlarm source true) s = .next set)
        ∧ (enabled = true →
          ((running s = true ∨ s.sys.mode = .pause ∨ s.sys.mode = .waiting ∨ s.sys.mode = .gaspDone) → ∃ t,
            exec (.tamperAlarm source true) s = .next t
            ∧ t.keys.active = set.keys.active ∧ t.keys.alarms = s.keys.alarms.inc ∧ t.keys.fuses = s.keys.fuses ∧ t.cov = s.cov
            ∧ t.store = s.store ∧ t.recorder = (raiseU 0x8010 [bit_.toNat,
                if calm then (if s.sys.mode = .gaspDone then 2 else 0) else 3] s).recorder
            ∧ (¬calm → t = { set with keys.alarms := s.keys.alarms.inc, recorder := t.recorder })
            ∧ (calm → t.keys.cells = [] ∧ t.keys.kept = [] ∧ t.keys.vaultDue = [] ∧ (∀ p ∈ t.bey.dtls, p.2.keyed = false)
              ∧ (∀ l, s.keys.latch = some l → t.keys.latch = some l ∧ t.keys.burns = s.keys.burns)
              ∧ (s.keys.latch = none → t.keys.latch = some ⟨bit_, s.sys.vbat.seconds⟩
                ∧ t.keys.burns = if s.sys.mode = .gaspDone then s.keys.burns
                    else (s.cap.tick, .quarantineEntry bit_) :: s.keys.burns)))
          ∧ (s.sys.mode = .dead ∨ s.sys.mode = .inReset →
              (¬calm → exec (.tamperAlarm source true) s = .next set)
              ∧ (calm → s.keys.latch = none → exec (.tamperAlarm source true) s = .next
                  { set with keys.latch := some ⟨bit_, s.sys.vbat.seconds⟩ })))))
  ∧ (∀ (b : BitVec 10) (tick : BitVec 48) (rest : List (BitVec 48 × Burn)) (l : Latch) (s : State), running s = true →
      s.keys.burns = (tick, .quarantineEntry b) :: rest → s.keys.latch = some l →
      let bit_ := BitVec.ofNat 20 (2 ^ (2 + entriesOf (lifeFuses s)))
      ∃ t, exec (.fuseBurn true) s = .next t
        ∧ t = { s with keys.burns := rest, keys.latch := none, keys.fuses.lifecycle := s.keys.fuses.lifecycle ||| bit_,
                       keys.burnCause := bit_ :: s.keys.burnCause,
                       recorder := (raiseU 0x8011 [l.sources.toNat, l.seconds.toNat % 2 ^ 32] s).recorder }
        ∧ exec (.fuseBurn false) s = .next s)

/-- The first burn that is due takes place in a unit that runs: of a root the bits of secret and digest burn whether or
not it completes, and the completion fuse with a completed one; a completed burn of REVOKE or TAMPER_ENABLE fuses sets
them, a return also erases both NOR vault copies and the mirror, and the SCRAP fuse also zeroises and halts the unit with
every output but QSPI at high impedance; any other that does not complete stays due. With no burn due nothing happens. A
vault write that is due takes the state as of the latest durable seal into the NOR copy not in use and into the mirror
block not written last; a failed one leaves that copy invalid, is reported, and later writes go to the mirror alone. The
model's own readings or choices that it rests on: assumption log 71, 73. -/
def Obligations.BurnsAndVaultWrites : Prop :=
  (∀ (s : State) (tick : BitVec 48) (b : Burn), running s = true → s.keys.burns.find? (burnDue s) = some (tick, b) →
      let rest : State := { s with keys.burns := s.keys.burns.erase (tick, b) }
      (∀ secret digest, ∀ ok : Bool,
        (b = .root 1 secret digest → exec (.fuseBurn ok) s = .next { rest with
          keys.fuses.rootP := ⟨List.zipWith (· ||| ·) (fit 32 s.keys.fuses.rootP.secret) (fit 32 secret),
            List.zipWith (· ||| ·) (fit 32 s.keys.fuses.rootP.digest) (fit 32 digest), s.keys.fuses.rootP.done || ok⟩ })
        ∧ (b = .root 2 secret digest → exec (.fuseBurn ok) s = .next { rest with
          keys.fuses.rootF0 := ⟨List.zipWith (· ||| ·) (fit 32 s.keys.fuses.rootF0.secret) (fit 32 secret),
            List.zipWith (· ||| ·) (fit 32 s.keys.fuses.rootF0.digest) (fit 32 digest), s.keys.fuses.rootF0.done || ok⟩ })
        ∧ (b = .root 3 secret digest → exec (.fuseBurn ok) s = .next { rest with
          keys.fuses.rootF1 := ⟨List.zipWith (· ||| ·) (fit 32 s.keys.fuses.rootF1.secret) (fit 32 secret),
            List.zipWith (· ||| ·) (fit 32 s.keys.fuses.rootF1.digest) (fit 32 digest), s.keys.fuses.rootF1.done || ok⟩ }))
      ∧ (∀ bits, b = .revoke bits → exec (.fuseBurn true) s = .next { rest with keys.fuses.revoke := s.keys.fuses.revoke ||| bits }
          ∧ exec (.fuseBurn false) s = .next s)
      ∧ (∀ bits, b = .tamper bits → exec (.fuseBurn true) s = .next { rest with keys.fuses.tamper := s.keys.fuses.tamper ||| bits }
          ∧ exec (.fuseBurn false) s = .next s)
      ∧ (∀ bits, b = .lifecycle bits → exec (.fuseBurn false) s = .next s
          ∧ (bits.getLsbD 19 = false → ∃ t, exec (.fuseBurn true) s = .next t
            ∧ t.keys.fuses = { s.keys.fuses with lifecycle := s.keys.fuses.lifecycle ||| bits } ∧ t.sys = s.sys
            ∧ t.keys.burns = rest.keys.burns ∧ t.keys.cells = s.keys.cells
            ∧ (bits.toNat / 2 ^ 11 % 256 = 0 → t.keys.copyA = s.keys.copyA ∧ t.keys.copyB = s.keys.copyB)
            ∧ (bits.toNat / 2 ^ 11 % 256 ≠ 0 → t.keys.copyA = none ∧ t.keys.copyB = none ∧ t.keys.mirrorA = none ∧ t.keys.mirrorB = none))
          ∧ (bits.getLsbD 19 = true → ∃ t, exec (.fuseBurn true) s = .next t
            ∧ t.keys.fuses = { s.keys.fuses with lifecycle := s.keys.fuses.lifecycle ||| bits }
            ∧ t.sys.mode = .halted ∧ t.cap.isOn = false ∧ t.sys.pins = pinStates { s with sys.mode := .halted, cap.isOn := false }
            ∧ t.keys.cells = [] ∧ t.keys.kept = [] ∧ t.keys.copyA = none ∧ t.keys.copyB = none ∧ t.keys.mirrorA = none
            ∧ t.keys.mirrorB = none)))
  ∧ (∀ (s : State) (ok : Bool), s.keys.burns.find? (burnDue s) = none → exec (.fuseBurn ok) s = .next s)
  ∧ (∀ (s : State) (d : BitVec 48) (c : Covered) (b : BitVec 48), running s = true → s.store.durable = some d →
      stateAsOf s d = some c → b ∈ s.keys.vaultDue → b.toNat ≤ d.toNat → b.toNat + 2 ≤ s.cap.tick.toNat →
      let v := vaultOf s d c
      let k : Keys := { s.keys with
        vaultDue := s.keys.vaultDue.filter (fun b => decide (d.toNat < b.toNat)),
        kept := s.keys.kept.filter (fun e => decide (d.toNat < e.1.toNat)), highGen := s.keys.highGen + 1,
        mirrorA := if s.keys.mirrorLastB then some v else s.keys.mirrorA,
        mirrorB := if s.keys.mirrorLastB then s.keys.mirrorB else some v, mirrorLastB := !s.keys.mirrorLastB }
      v.gen = s.keys.highGen + 1 ∧ v.tick = d
      ∧ (s.keys.frozen = true → ∀ ok, exec (.vaultWrite ok) s = .next { s with keys := k })
      ∧ (s.keys.frozen = false →
        (s.keys.inUseB = true →
          exec (.vaultWrite true) s = .next { s with keys := { k with copyA := some v, inUseB := false } }
          ∧ exec (.vaultWrite false) s = .next { s with
              keys := { k with copyA := none, frozen := true, writeFails := s.keys.writeFails.inc },
              recorder := (raiseU 0x8008 [0x810000] s).recorder })
        ∧ (s.keys.inUseB = false →
          exec (.vaultWrite true) s = .next { s with keys := { k with copyB := some v, inUseB := true } }
          ∧ exec (.vaultWrite false) s = .next { s with
              keys := { k with copyB := none, frozen := true, writeFails := s.keys.writeFails.inc },
              recorder := (raiseU 0x8008 [0x820000] s).recorder })))
  ∧ (∀ (s : State) (ok : Bool), (∀ b ∈ s.keys.vaultDue, s.cap.tick.toNat < b.toNat + 2) → exec (.vaultWrite ok) s = .next s)

/-- With nothing injected on the link: a link that comes up starts both numbers again and sends HELLO with what R432
lists; one that goes down loses what was unacknowledged, counts and is reported; a timeout sends every unacknowledged
frame again, with RETRY, and counts each; an ACK lets go of the frames up to its number, and one that names none while
frames are outstanding has them sent again; the idle ACK names the highest number received in order; a frame whose CRC
fails counts and does nothing else; a numbered frame out of order is answered with the ACK and has no other effect; and
with the link down no frame has any. The model's own readings or choices that it rests on: assumption log 76. -/
def Obligations.HolhamLink : Prop :=
  (∀ s : State, linkOn s = true → s.twin.linkUp = false → faultOn s 5 false = false →
      let role := match s.twin.role, s.twin.standby with
        | .primary, _ => 1
        | .single, _ => 0
        | .mirror, .starting => 0
        | .mirror, .fenced => 3
        | .mirror, _ => 2
      let f : HolhamTx := ⟨1, s.cap.tick, 0, euiBytes (ownEui s) ++ le 8 (ledgerIdOf s) ++ [BitVec.ofNat 8 role, 0]
        ++ le 2 s.upd.fw.procVersion.toNat ++ fit 8 s.upd.fw.fwDigest ++ fit 8 s.sys.image.digest ++ le 6 (durableTick s) ++ zeros 6⟩
      exec .holhamLinkUp s = .next { s with
        twin.linkUp := true, twin.txSeq := 1, twin.rxSeq := 0, twin.unacked := [f], out := s.out ++ [.holham f false true] })
  ∧ (∀ (c : LinkDownCause) (s : State), linkOn s = true → s.twin.linkUp = true →
      exec .holhamLinkUp s = .next s
      ∧ exec (.holhamLinkDown c) s = .next { s with
          twin.linkUp := false, twin.unacked := [], twin.linkDowns := s.twin.linkDowns.inc,
          recorder := (raiseU 0x9002 [match c with | .blockLock => 0 | .silence => 1 | .overflow => 2] s).recorder })
  ∧ (∀ s : State, LinkPlain s →
      let again : State := { s with
        twin.retransmits := s.twin.retransmits.add s.twin.unacked.length,
        out := s.out ++ s.twin.unacked.map fun f => .holham f true true }
      exec .holhamRetransmitTimeout s = .next again
      ∧ exec .holhamIdleAck s = .next { s with
          out := s.out ++ [.holham ⟨12, s.cap.tick, 0, le 4 (s.twin.rxSeq - 1).toNat ++ zeros 4⟩ false true] }
      ∧ (∀ (h : HolhamHdr) (n : BitVec 32), h.crcOk = true →
          ((∀ f ∈ s.twin.unacked, f.seq ≠ n) → s.twin.unacked ≠ [] → exec (.holhamAck h n) s = .next again)
          ∧ (s.twin.unacked = [] → exec (.holhamAck h n) s = .next s)
          ∧ (∀ before f after, s.twin.unacked = before ++ f :: after → (∀ g ∈ before, g.seq ≠ n) → f.seq = n →
              s.twin.xferOut = [] → s.twin.xferEnd = [] → s.twin.fillNext = none →
              exec (.holhamAck h n) s = .next { s with twin.unacked := after }))
      ∧ (∀ (h : HolhamHdr) (n : BitVec 32), h.crcOk = false →
          exec (.holhamAck h n) s = .next { s with twin.crcErrors := s.twin.crcErrors.inc }))
  ∧ (∀ (c : Instr) (h : HolhamHdr) (s : State), holhamHeader c = some h →
      (s.twin.linkUp = false ∨ linkOn s = false → exec c s = .next s)
      ∧ (LinkPlain s →
        (h.crcOk = false → exec c s = .next { s with twin.crcErrors := s.twin.crcErrors.inc })
        ∧ (h.crcOk = true → h.seq ≠ s.twin.rxSeq → exec c s = .next { s with
            out := s.out ++ [.holham ⟨12, s.cap.tick, 0, le 4 (s.twin.rxSeq - 1).toNat ++ zeros 4⟩ false true] })))

/-- A HELLO in order is acknowledged and kept as the peer's, and decides the pairing of a unit that waits for it or is
STARTING. With the same image digest a unit out of QUARANTINE becomes STARTING before a primary, asking it for a transfer;
before a unit that is starting too, the one with the later durable seal, the lower EUI-64 where they are equal, becomes
primary and the other STARTING; before a mirror or a FENCED unit it becomes primary. With another digest the lower EUI-64
of two starting units becomes primary and any other becomes FENCED. A unit in QUARANTINE pairs as HELD alone. Where no
pairing is open, a HELLO of a primary with the same digest has an ORPHANED, DIVERGED, REJOINING or FENCED mirror rejoin,
and leaves the role of any other unit. The model's own readings or choices that it rests on: assumption log 83. -/
def Obligations.HelloPairs : Prop :=
  ∀ (h : HolhamHdr) (p : HelloIn) (s : State), LinkPlain s → NextFrame h s →
    let alike := fit 8 p.imageDigest = fit 8 s.sys.image.digest
    let pairing := s.sys.mode = .waiting ∨ (s.twin.role = .mirror ∧ s.twin.standby = .starting)
    let own := ownEui s
    let durable := (s.store.durable.map (·.toNat)).getD 0
    let quarantined := lifeState s = .quarantine
    ∃ t, exec (.hello h p) s = .next t ∧ t.twin.peer = some p ∧ t.twin.rxSeq = s.twin.rxSeq + 1 ∧ t.cov = s.cov
      ∧ t.twin.paired = (s.twin.paired || decide alike)
      ∧ (pairing → alike → quarantined → t.sys.mode = .running ∧ t.twin.role = .mirror ∧ t.twin.standby = .held)
      ∧ (pairing → alike → ¬quarantined →
          (p.role = 1 → t.sys.mode = .running ∧ t.twin.role = .mirror ∧ t.twin.standby = .starting ∧ t.twin.asked = true)
          ∧ (p.role = 0 → (p.durable.toNat < durable ∨ (p.durable.toNat = durable ∧ own < p.eui)) →
              t.sys.mode = .running ∧ t.twin.role = .primary ∧ t.sys.firstTick = true)
          ∧ (p.role = 0 → ¬(p.durable.toNat < durable ∨ (p.durable.toNat = durable ∧ own < p.eui)) →
              t.sys.mode = .running ∧ t.twin.role = .mirror ∧ t.twin.standby = .starting ∧ t.twin.asked = false)
          ∧ (2 ≤ p.role → t.sys.mode = .running ∧ t.twin.role = .primary ∧ t.sys.firstTick = true))
      ∧ (pairing → ¬alike →
          (p.role = 0 → own < p.eui → ¬quarantined → t.sys.mode = .running ∧ t.twin.role = .primary)
          ∧ (¬(p.role = 0 ∧ own < p.eui ∧ ¬quarantined) → t.sys.mode = .running ∧ t.twin.role = .mirror ∧ t.twin.standby = .fenced))
      ∧ (¬pairing → t.sys = s.sys ∧ t.twin.role = s.twin.role
          ∧ t.twin.standby = if s.twin.role = .mirror ∧ alike ∧ p.role = 1 ∧ s.twin.standby ≠ .synced ∧ s.twin.standby ≠ .held
              then .rejoining else s.twin.standby)

/-- A LOG in order is acknowledged, and a mirror that is not HELD adds its entries to the log of the tick; beyond 4 MiB
the oldest log held goes. LOG_END makes that log complete exactly where the number of entries, the bytes and the SHA-256
of what has arrived agree with it, and marks FIRST, M and LAST. A primary, a single unit and a HELD mirror keep no log. A
LEASE renews the boundary and the mirror's tick, voids a standing PEER_SILENT, has a STARTING unit that has not asked send
REJOIN with its durable seal, and makes a FENCED unit whose chain a complete first log continues SYNCED. The model's own
readings or choices that it rests on: assumption log 84. -/
def Obligations.MirrorTakesLogs : Prop :=
  (∀ (h : HolhamHdr) (es : List LogEntry) (p : LogEndIn) (s : State), LinkPlain s → NextFrame h s →
      (s.twin.role ≠ .mirror ∨ s.twin.standby = .held →
        exec (.log h es) s = .next (acked s) ∧ exec (.logEnd h p) s = .next (acked s))
      ∧ (s.twin.role = .mirror → s.twin.standby ≠ .held →
        let held := s.twin.logs.any (·.tick == h.tick)
        let added := if held then s.twin.logs.map (fun l => if l.tick == h.tick then { l with entries := l.entries ++ es } else l)
          else s.twin.logs ++ [⟨h.tick, es, false, false, false, 0, []⟩]
        (heldBytes added ≤ 4194304 → exec (.log h es) s = .next { acked s with twin.logs := added })
        ∧ (4194304 < heldBytes added → s.twin.standby ≠ .rejoining →
            exec (.log h es) s = .next { acked s with twin.logs := added.drop 1 })
        ∧ (let ending (l : ShippedLog) : ShippedLog := { l with
              complete := decide (l.entries.length = p.entries) && decide ((l.entries.flatMap entryBytes).length = p.bytes)
                && decide (sha256 (l.entries.flatMap entryBytes) = p.logHash),
              first := p.first, last := p.last, m := p.m, prevHash := p.prevHash }
           s.twin.standby ≠ .fenced ∨ s.twin.renewed = false → exec (.logEnd h p) s = .next { acked s with
            twin.logs := if held then s.twin.logs.map (fun l => if l.tick == h.tick then ending l else l)
              else s.twin.logs ++ [ending ⟨h.tick, [], false, false, false, 0, []⟩],
            twin.lastLog := if p.last then some h.tick else s.twin.lastLog })))
  ∧ (∀ (h : HolhamHdr) (s : State), LinkPlain s → NextFrame h s →
      (s.twin.role ≠ .mirror → exec (.lease h) s = .next (acked s))
      ∧ (s.twin.role = .mirror →
        let renewed : State := { acked s with
          twin.renewal := h.tick, twin.renewed := true, twin.silentTick := none,
          cap.tick := if s.cap.tick = h.tick ∨ s.cap.tick = h.tick + 1 then s.cap.tick else h.tick + 1 }
        (s.twin.standby ≠ .fenced → (s.twin.standby ≠ .starting ∨ s.twin.asked = true) → exec (.lease h) s = .next renewed)
        ∧ (s.twin.standby = .starting → s.twin.asked = false → HolhamRoom 8 s →
            exec (.lease h) s = .next (framed 6 renewed.cap.tick (le 6 ((s.store.durable.map (·.toNat)).getD 0) ++ [0, 0])
              { renewed with twin.asked := true, twin.xferIn := [], twin.xferCount := 0, twin.loaded := none }))
        ∧ (s.twin.standby = .fenced → ∀ (a : BitVec 48) (d : Bytes) (l : ShippedLog), s.sys.prevSeal = some (a, d) →
            s.twin.logs.find? (fun l => l.tick == a + 1 || (l.first && l.complete && l.m == a)) = some l →
            (l.first = true ∧ l.complete = true → exec (.lease h) s = .next { renewed with twin.standby := .synced, twin.matched := true })
            ∧ (¬(l.first = true ∧ l.complete = true) → exec (.lease h) s = .next renewed))))

/-- A SYNCED mirror whose next log is not complete at its boundary, while renewals arrive, goes to REJOINING and asks for
a transfer; one with a lease two boundaries old is ORPHANED, and 51 boundaries after the renewal its lease has lapsed. An
ORPHANED mirror, and a starting unit after its wait, queries the witness at once and every 10 ticks until a term is fixed;
a PEER_SILENT stands with its tick on a mirror whose peer's level is not asserted and fixes the boundary 8 ticks on for a
starting unit, and any answer is reported. A primary notes a heartbeat's acknowledgement, and with the link down, a
witness configured and none for more than 4 ticks ends its term at the next boundary. A primary that meets another with a
lower EUI-64 is FENCED at once: capture, transmission and every session end and TWIN_PRIMARY_N falls. The model's own
readings or choices that it rests on: assumption log 81. -/
def Obligations.MirrorWatchesItsPeer : Prop :=
  (∀ (s : State), s.sys.mode = .running → s.twin.role = .mirror → s.twin.standby = .synced →
      (s.work.isOpen = false → s.cap.tick.toNat ≤ s.twin.renewal.toNat + 2 → s.twin.lastLog = none →
        ∀ (a : BitVec 48) (d : Bytes), s.sys.prevSeal = some (a, d) → a.toNat + 3 ≤ s.cap.tick.toNat →
        let next := s.twin.logs.find? fun l => l.tick == a + 1 || (l.first && l.complete && l.m == a)
        (∀ l, next = some l → l.complete = true → exec .mirrorLogIncomplete s = .next s)
        ∧ ((∀ l, next = some l → l.complete = false) → s.twin.linkUp = true → faultOn s 5 false = false → HolhamRoom 8 s →
            exec .mirrorLogIncomplete s = .next (framed 6 s.cap.tick (le 6 ((s.store.durable.map (·.toNat)).getD 0) ++ [0, 0]) { s with
              twin.standby := .rejoining, twin.termAt := none, twin.silentTick := none, twin.lapsed := false, twin.asked := true,
              twin.xferIn := [], twin.xferCount := 0, twin.loaded := none })))
      ∧ (s.twin.termAt = none → s.twin.lastLog = none →
        (s.twin.renewal.toNat + 2 ≤ s.cap.tick.toNat → exec .orphanDetect s = .next { s with
          twin.standby := .orphaned, twin.queryTick := none, twin.silentTick := none, twin.lapsed := false,
          recorder := (raiseU 0x9004 [s.twin.renewal.toNat % 2 ^ 32] s).recorder })
        ∧ (s.cap.tick.toNat < s.twin.renewal.toNat + 2 → exec .orphanDetect s = .next s)))
  ∧ (∀ s : State, s.twin.role = .mirror → s.twin.standby = .orphaned →
      (s.twin.renewal.toNat + 51 ≤ s.cap.tick.toNat → exec .leaseLapse s = .next { s with twin.lapsed := true })
      ∧ (s.cap.tick.toNat < s.twin.renewal.toNat + 51 → exec .leaseLapse s = .next s))
  ∧ (∀ s : State, witnessSet s = true →
      let orphan := s.sys.mode = .running ∧ s.twin.role = .mirror ∧ s.twin.standby = .orphaned
      let starting := s.sys.mode = .waiting ∧ s.twin.waitingHello = false
      let clock := if s.sys.mode = .waiting then s.twin.ownTick else s.cap.tick
      let kind := if s.sys.mode = .waiting then 1 else 0
      orphan ∨ starting →
        (s.twin.termAt = none → (s.twin.queryTick = none ∨ ∃ q, s.twin.queryTick = some q ∧ q + 10 ≤ clock) →
          let asked : State := { s with twin.queryTick := some clock, twin.silentTick := none }
          (s.bey.witnessUp = false → exec .witnessQuery s = .next asked)
          ∧ (s.bey.witnessUp = true → faultOn s (0x10 + headPort s) false = false → exec .witnessQuery s = .next { asked with
              freeCtr := s.freeCtr + 1,
              out := s.out ++ [.beysynTo (addrOf (cfgBytes s.hw.records 0x0901 0 8 16)) (BitVec.ofNat 16 (hwCfg s 0x0003 0 0x12 2 49742))
                (messageBytes 0x61 (Config.freeWord s.freeCtr) (s.sys.prevSeal.map (·.1)) 0 ([BitVec.ofNat 8 kind] ++ zeros 7
                  ++ euiBytes (ownEui s) ++ le 8 (ledgerIdOf s) ++ le 6 (if kind = 1 then durableTick s else 0) ++ zeros 2))] }))
        ∧ (∀ q, s.twin.queryTick = some q → ¬ q + 10 ≤ clock → exec .witnessQuery s = .next s)
        ∧ (∀ (q : BitVec 48) (silent : Bool), s.twin.queryTick = some q →
          let told : State := { s with recorder := (raiseU 0x9005 [if silent then 1 else 0, kind] s).recorder }
          (orphan → exec (.witnessAnswer silent) s = .next { told with
            twin.silentTick := if silent = true ∧ s.twin.peerN = false then some s.cap.tick else none })
          ∧ (starting → exec (.witnessAnswer silent) s = .next (if silent = true ∧ s.twin.peerN = false then
              { told with twin.termAt := some (s.twin.ownTick + 8) } else told))))
  ∧ (∀ s : State, running s = true → s.twin.role = .primary →
      exec .heartbeatAck s = .next { s with twin.ackTick := s.cap.tick }
      ∧ (capturing s = true → s.twin.linkUp = false → witnessSet s = true →
          (s.twin.ackTick.toNat + 4 < s.cap.tick.toNat → exec .heartbeatAckTimeout s = .next { s with twin.endDue := true })
          ∧ (s.cap.tick.toNat ≤ s.twin.ackTick.toNat + 4 → exec .heartbeatAckTimeout s = .next s))
      ∧ (∀ peer : BitVec 64, s.twin.primaryN = true →
          (¬ peer < ownEui s → exec (.peerConflict peer) s = .next s)
          ∧ (peer < ownEui s → ∃ t, exec (.peerConflict peer) s = .next t ∧ t.twin.role = .mirror ∧ t.twin.standby = .fenced
              ∧ t.twin.primaryN = false ∧ t.twin.peerN = true ∧ t.cap.isOn = false ∧ t.plc.onAir = none ∧ t.bey.dtls = []
              ∧ t.bey.witnessUp = false ∧ t.sys.pins = pinStates t ∧ t.cov = s.cov ∧ t.store = s.store
              ∧ t.recorder = (raiseU 0x900D [euiLow peer, peer.toNat / 2 ^ 32] s).recorder)))

/-- A mirror that holds HANDOVER for a seal it has not closed yet keeps it; one that has closed it answers ACCEPT only
with the same hash, the peer's level not asserted, SYNCED and with the same processing version, naming the lowest cause
otherwise, and on ACCEPT begins its term two ticks after the seal. In a transfer swap a unit that is not HELD refuses with
cause 3. An ACCEPT for the seal awaited makes the old primary SYNCED, or HELD where the versions differ, from two ticks
after the seal, or in a transfer swap from the tick in progress; a refusal is counted and, outside a transfer swap,
resumes its own term. Without an answer three boundaries after the seal it is FENCED; in a transfer swap it resumes 59
ticks after the seal, or is a mirror where the peer has begun. A term begins only after its boundary, with the peer's
level not asserted and out of QUARANTINE: the unit captures, asserts TWIN_PRIMARY_N, has no session and no shipped log,
and a swap is counted. The model's own readings or choices that it rests on: assumption log 81, 82, 83. -/
def Obligations.SwapsAndTerms : Prop :=
  (∀ (h : HolhamHdr) (hash : List Byte) (s : State), LinkPlain s → NextFrame h s →
      let u : State := { acked s with twin.handover := some (h.tick, hash, false), twin.xferIn := [], twin.xferCount := 0 }
      (s.twin.role ≠ .mirror → ∀ b, exec (.handover h b hash) s = .next (acked s))
      ∧ (s.twin.role = .mirror → s.closing = none → ∀ (p : BitVec 48) (own : Bytes), s.sys.prevSeal = some (p, own) →
        (p ≠ h.tick → s.twin.standby = .synced → exec (.handover h false hash) s = .next u)
        ∧ (p = h.tick ∨ s.twin.standby ≠ .synced → HolhamRoom 8 s →
          let alike := s.twin.peer.any fun q => q.procVersion == s.upd.fw.procVersion
          let cause : Byte := if p = h.tick ∧ own ≠ hash then 1 else if s.twin.peerN then 2 else if s.twin.standby ≠ .synced then 3
            else if !alike then 4 else 0
          (cause = 0 → exec (.handover h false hash) s =
            .next { framed 8 h.tick (zeros 8) { u with twin.handover := none } with twin.termAt := some (h.tick + 2) })
          ∧ (cause ≠ 0 → exec (.handover h false hash) s = .next (framed 8 h.tick ([1, cause] ++ zeros 6) { u with twin.handover := none }))))
      ∧ (s.twin.role = .mirror →
        (s.twin.standby = .held → exec (.handover h true hash) s =
          .next { u with twin.handover := some (h.tick, hash, true), twin.xferSwap := true })
        ∧ (s.twin.standby ≠ .held → HolhamRoom 8 s →
            exec (.handover h true hash) s = .next (framed 8 h.tick ([1, 3] ++ zeros 6) { u with twin.handover := none }))))
  ∧ (∀ (h : HolhamHdr) (cause : Nat) (s : State), LinkPlain s → NextFrame h s →
      (s.twin.waitAnswer = none → ∀ b, exec (.answer h b cause) s = .next (acked s))
      ∧ (s.twin.waitAnswer = some h.tick → s.twin.termAt = none →
        (let first := if s.twin.swapTransfer then s.cap.tick + 1 else h.tick + 3
         ∃ t, exec (.answer h true cause) s = .next t ∧ t.twin.role = .mirror ∧ t.twin.waitAnswer = none ∧ t.twin.swapAt = none
          ∧ t.twin.standby = (if s.twin.peer.any (fun p => p.procVersion != s.upd.fw.procVersion) then .held else .synced)
          ∧ t.twin.renewal = first - 1 ∧ t.twin.swaps = s.twin.swaps.inc ∧ t.twin.logs = [] ∧ t.cov = s.cov
          ∧ t.recorder = (raiseU 0x900B [h.tick.toNat % 2 ^ 32, first.toNat % 2 ^ 32] s).recorder)
        ∧ exec (.answer h false cause) s = .next { acked s with
            twin.swapRefused := s.twin.swapRefused.inc,
            twin.termAt := if s.twin.swapTransfer then none else some (h.tick + 2),
            pll.events := s.pll.events ++ [(0x900C, [BitVec.ofNat 32 h.tick.toNat, BitVec.ofNat 32 cause])] })
      ∧ (∀ t, s.twin.waitAnswer = some t → h.tick ≠ t → ∀ b, exec (.answer h b cause) s = .next (acked s)))
  ∧ (∀ (s : State) (t : BitVec 48), running s = true → s.twin.waitAnswer = some t →
      (s.twin.swapTransfer = false → s.twin.termAt = none →
        (t.toNat + 3 ≤ s.cap.tick.toNat → exec .swapAnswerTimeout s = .next { s with
          twin.role := .mirror, twin.standby := .fenced, twin.waitAnswer := none, twin.termAt := none, twin.swapAt := none,
          twin.asked := false })
        ∧ (s.cap.tick.toNat < t.toNat + 3 → exec .swapAnswerTimeout s = .next s))
      ∧ (s.twin.swapTransfer = true →
        (s.cap.tick.toNat < t.toNat + 60 → exec .transferSwapTimeout s = .next s)
        ∧ (t.toNat + 60 ≤ s.cap.tick.toNat → s.twin.peerN = false →
            exec .transferSwapTimeout s = .next { s with twin.termAt := some (t + 59) })
        ∧ (t.toNat + 60 ≤ s.cap.tick.toNat → s.twin.peerN = true → ∃ u, exec .transferSwapTimeout s = .next u
            ∧ u.twin.role = .mirror ∧ (u.twin.standby = .held ∨ u.twin.standby = .synced) ∧ u.twin.renewal = s.cap.tick)))
  ∧ (∀ (s : State) (t : BitVec 48), s.twin.termAt = some t →
      (s.twin.peerN = true ∨ lifeState s = .quarantine → exec .termBegin s = .next s)
      ∧ (s.twin.peerN = false → lifeState s ≠ .quarantine →
        (s.sys.mode = .running →
          (s.cap.tick ≤ t → exec .termBegin s = .next s)
          ∧ (s.twin.role = .mirror → s.twin.standby = .orphaned → s.twin.renewed = true → exec .termBegin s = .next s)
          ∧ (¬ s.cap.tick ≤ t → ¬(s.twin.role = .mirror ∧ s.twin.standby = .orphaned ∧ s.twin.renewed = true) →
            ∃ u, exec .termBegin s = .next u ∧ u.sys.mode = .running ∧ u.twin.role = .primary ∧ u.twin.primaryN = true
              ∧ u.cap.isOn = true ∧ u.cap.tick = s.cap.tick ∧ u.sys.takeover = true ∧ u.twin.termAt = none ∧ u.twin.waitAnswer = none
              ∧ u.twin.logs = [] ∧ u.twin.firstM = s.sys.prevSeal.map (·.1) ∧ u.bey.dtls = [] ∧ u.cov = s.cov
              ∧ u.sys.pins = pinStates u
              ∧ u.twin.swaps = if s.twin.role = .mirror ∧ s.twin.standby ≠ .orphaned then s.twin.swaps.inc else s.twin.swaps))
        ∧ (s.sys.mode = .waiting →
          (s.twin.ownTick ≤ t → exec .termBegin s = .next s)
          ∧ (¬ s.twin.ownTick ≤ t → ∃ u, exec .termBegin s = .next u ∧ u.sys.mode = .running ∧ u.twin.role = .primary
              ∧ u.twin.primaryN = true ∧ u.cap.isOn = true ∧ u.cap.tick = s.cap.log.tick ∧ u.twin.termAt = none
              ∧ u.twin.firstM = s.sys.prevSeal.map (·.1) ∧ u.cov = s.cov ∧ u.sys.pins = pinStates u))))
  ∧ (∀ s : State, s.twin.termAt = none → exec .termBegin s = .next s)

/-- A STATUS or REJOIN in order enters the log of a unit that captures, header and payload, on port 5 with kind 7, and
nothing else of it takes effect then. A mirror that has asked, or is in a transfer swap, takes XFER payloads one behind
the other; any other unit does nothing with them. XFER_END with another number of entries or bytes, or another hash, has
the transfer asked for again, in a transfer swap refused with cause 5. One that agrees is loaded: the seal it names heads
the unit's chain, the rejoin counts, what was received is cleared, and a unit whose processing version differs is HELD.
FILL places its seal slots in the store and the last one marks the fill done. The model's own readings or choices that it
rests on: assumption log 79. -/
def Obligations.StatusAndTransfer : Prop :=
  (∀ (h : HolhamHdr) (p : StatusIn) (durable : BitVec 48) (arrival : BitVec 32) (s : State), LinkPlain s → NextFrame h s →
      let header (type n : Nat) : Bytes := [BitVec.ofNat 8 type, if h.retry then 1 else 0] ++ le 2 n ++ le 4 h.seq.toNat
        ++ le 6 h.tick.toNat ++ [0, 0]
      let status := header 5 16 ++ [BitVec.ofNat 8 p.standby,
          BitVec.ofNat 8 ((if p.isMatch then 1 else 0) + 2 * (if p.fillDone then 1 else 0))] ++ le 2 p.procVersion.toNat
        ++ le 6 p.lastSeal.toNat ++ [0, 0, 0, 0, 0, 0]
      let rejoin := header 6 8 ++ le 6 durable.toNat ++ [0, 0]
      (capturing s = false → exec (.status h p arrival) s = .next (acked s) ∧ exec (.rejoin h durable arrival) s = .next (acked s))
      ∧ (capturing s = true → Settled s →
        let into (b : Bytes) : LogEntry := ⟨5, 7, arrival, b, none⟩
        (s.cap.log.takes (into status) = true → ∃ t, exec (.status h p arrival) s = .next t
          ∧ t.cap.log.entries = s.cap.log.entries ++ [into status] ∧ t.twin.mirror = s.twin.mirror ∧ t.cov = s.cov
          ∧ t.twin.rxSeq = s.twin.rxSeq + 1)
        ∧ (s.cap.log.takes (into rejoin) = true → ∃ t, exec (.rejoin h durable arrival) s = .next t
          ∧ t.cap.log.entries = s.cap.log.entries ++ [into rejoin] ∧ t.twin.rejoinSeal = s.twin.rejoinSeal ∧ t.cov = s.cov
          ∧ t.twin.rxSeq = s.twin.rxSeq + 1)))
  ∧ (∀ (h : HolhamHdr) (payload : List Byte) (e : XferEndIn) (s : State), LinkPlain s → NextFrame h s →
      (s.twin.role ≠ .mirror ∨ (s.twin.asked = false ∧ s.twin.xferSwap = false) →
        exec (.xfer h payload) s = .next (acked s) ∧ exec (.xferEnd h e) s = .next (acked s))
      ∧ (s.twin.role = .mirror → s.twin.asked = true ∨ s.twin.xferSwap = true →
        exec (.xfer h payload) s = .next { acked s with
          twin.xferIn := s.twin.xferIn ++ payload, twin.xferCount := s.twin.xferCount + 1,
          twin.standby := if s.twin.xferSwap then s.twin.standby else .rejoining }
        ∧ (let b := s.twin.xferIn
           let agrees := b.length = e.bytes ∧ (streamEntries (b.length / 8 + 1) b).length = e.entries ∧ sha256 b = e.hash
           (¬agrees → HolhamRoom 8 s →
            (s.twin.xferSwap = true → exec (.xferEnd h e) s = .next (framed 8 h.tick [1, 5, 0, 0, 0, 0, 0, 0] { acked s with
              twin.xferSwap := false, twin.handover := none, twin.xferIn := [], twin.xferCount := 0 }))
            ∧ (s.twin.xferSwap = false → exec (.xferEnd h e) s =
                .next (framed 6 s.cap.tick (le 6 ((s.store.durable.map (·.toNat)).getD 0) ++ [0, 0]) { acked s with
                  twin.asked := true, twin.xferIn := [], twin.xferCount := 0, twin.loaded := none })))
           ∧ (agrees → s.twin.handover = none →
              exec (.xferEnd h e) s = .next (kept s (takeTransfer (sealOf e.sealBody e.signature) (acked s)))
              ∧ (s.twin.peer.any (fun p => p.procVersion != s.upd.fw.procVersion) = true → ∃ t, exec (.xferEnd h e) s = .next t
                ∧ t.twin.standby = .held ∧ t.twin.logs = [] ∧ t.twin.rejoins = s.twin.rejoins.inc ∧ t.twin.xferIn = []
                ∧ t.twin.asked = false
                ∧ t.sys.prevSeal = some ((sealOf e.sealBody e.signature).tick, sha256 e.sealBody))))))
  ∧ (∀ (h : HolhamHdr) (slots : List FillSlot) (s : State), LinkPlain s → NextFrame h s →
      (s.twin.role ≠ .mirror → ∀ b, exec (.fill h slots b) s = .next (acked s))
      ∧ (s.twin.role = .mirror →
        let placed := if storeOn s then slots.foldl placeFill (acked s) else acked s
        exec (.fill h slots false) s = .next (kept s placed)
        ∧ exec (.fill h slots true) s = .next (kept s { placed with twin.fillDone := true })))

/-- On a port that is on and up, a first ClientHello is answered with a HelloRetryRequest and one with its cookie starts a
handshake, of which at most 8 run. A completed handshake without proof, port or own key is refused with cause 2, one of a
key without rights with cause 0, one beyond 64 sessions or its record's limit with cause 1; on a head-end port any other
takes the lowest free session number, and its open entry enters the log of a unit that captures, while a mirror opens a
session of its own; on a child port the TRIBUTARY right decides. A close notification and 600 s without a record end the
engine's session and enter a close entry with cause 0 and 1; a mirror drops its own session and its outstanding queries. A
key update of a session with keys is answered. A server is accepted exactly where its key holds the right, and retried
otherwise. The oldest reassembly is dropped after its time. A solicitation for an own address is answered with an
advertisement, any other is not. The model's own readings or choices that it rests on: assumption log 87, 110. -/
def Obligations.SessionsComeAndGo : Prop :=
  (∀ (port : BitVec 2) (addr : BitVec 128) (udp : BitVec 16) (s : State), running s = true →
      (portOn s port.toNat = false → ∀ b, exec (.dtlsClientHello port addr udp b) s = .next s)
      ∧ (portOn s port.toNat = true →
        (faultOn s (0x10 + port.toNat) false = false →
          exec (.dtlsClientHello port addr udp false) s = .next { s with out := s.out ++ [.dtls addr udp 0] })
        ∧ exec (.dtlsClientHello port addr udp true) s =
            .next (if s.bey.handshakes < 8 then { s with bey.handshakes := s.bey.handshakes + 1 } else s)))
  ∧ (∀ (c : ClientIn) (arrival : BitVec 32) (s : State) (n : Nat), running s = true → s.bey.handshakes = n + 1 →
      let refused (cause : Nat) : State := { s with
        bey.handshakes := n, bey.refused := s.bey.refused.inc,
        recorder := (raiseU 0xA003 [c.ethPort.toNat, c.addr.toNat % 2 ^ 32, cause] s).recorder }
      let able := c.proof = true ∧ portOn s c.ethPort.toNat = true ∧ (dtlsKey s).isSome = true
      (¬able → exec (.dtlsHandshakeComplete c arrival) s = .next (refused 2))
      ∧ (able → ethRole s.hw.records c.ethPort.toNat ≠ 0 →
        exec (.dtlsHandshakeComplete c arrival) s = .next { s with
          bey.handshakes := n,
          bey.tribClients := if testBit (hwCfg s 0x0003 0 0x11 1 1) 1 = true ∧ keyGrants s 8 (sha256 c.key) = true
            then (s.bey.tribClients.filter fun x => x.addr != c.addr) ++ [⟨c.addr, c.ethPort, sha256 c.key⟩] else s.bey.tribClients })
      ∧ (able → ethRole s.hw.records c.ethPort.toNat = 0 → ∀ (record : Option (Nat × Bytes)) (rights : Nat),
        accessOf (asSealed s) (sha256 c.key) = (record, rights) →
        let full := 64 ≤ s.bey.dtls.length ∨ ∃ r, record = some r ∧ ofLe (slice r.2 6 1) ≤ sessionsOf s r.1
        let number := lowestGap (s.bey.dtls.map (·.1)) 0
        let held := tput s.bey.dtls number ⟨c.addr, c.udpPort, c.ethPort, sha256 c.key, 0, true⟩
        (rights = 0 → exec (.dtlsHandshakeComplete c arrival) s = .next (refused 0))
        ∧ (rights ≠ 0 → full → exec (.dtlsHandshakeComplete c arrival) s = .next (refused 1))
        ∧ (rights ≠ 0 → ¬full →
          (s.twin.role = .mirror → exec (.dtlsHandshakeComplete c arrival) s = .next { s with
            bey.handshakes := n, bey.dtls := held,
            bey.own := tput s.bey.own number ⟨c.addr, c.udpPort, c.ethPort, sha256 c.key, 0, [], none, none⟩ })
          ∧ (capturing s = true → Settled s →
            let e : LogEntry := ⟨0, 2, arrival, [BitVec.ofNat 8 number, 1, 52, 0] ++ be 16 c.addr.toNat ++ le 2 c.udpPort.toNat
              ++ le 1 c.ethPort.toNat ++ [0] ++ sha256 c.key, none⟩
            s.cap.log.takes e = true → ∃ t, exec (.dtlsHandshakeComplete c arrival) s = .next t
              ∧ t.cap.log.entries = s.cap.log.entries ++ [e] ∧ t.bey = { s.bey with handshakes := n, dtls := held } ∧ t.cov = s.cov))))
  ∧ (∀ (n : Nat) (arrival : BitVec 32) (s : State), running s = true →
      (tget s.bey.dtls n = none → exec (.dtlsCloseNotify n arrival) s = .next s ∧ exec (.sessionIdleTimeout n arrival) s = .next s
        ∧ exec (.dtlsKeyUpdate n) s = .next s)
      ∧ (∀ d, tget s.bey.dtls n = some d →
        (d.keyed = false → exec (.dtlsKeyUpdate n) s = .next s)
        ∧ (d.keyed = true → faultOn s (0x10 + d.ethPort.toNat) false = false → exec (.dtlsKeyUpdate n) s = .next { s with
            bey.dtls := tput s.bey.dtls n { d with generation := d.generation + 1 }, out := s.out ++ [.dtls d.addr d.udpPort 1] })
        ∧ (s.twin.role = .mirror →
          let gone : State := { s with
            bey.dtls := tdel s.bey.dtls n, bey.own := tdel s.bey.own n, bey.queries := s.bey.queries.filter fun q => q.session != n }
          exec (.dtlsCloseNotify n arrival) s = .next gone ∧ exec (.sessionIdleTimeout n arrival) s = .next gone)
        ∧ (capturing s = true → Settled s → ∀ idle : Bool,
          let e : LogEntry := ⟨0, 2, arrival, [BitVec.ofNat 8 n, 2, 4, 0, if idle then 1 else 0, 0, 0, 0], none⟩
          s.cap.log.takes e = true → ∃ t, exec (if idle then .sessionIdleTimeout n arrival else .dtlsCloseNotify n arrival) s = .next t
            ∧ t.cap.log.entries = s.cap.log.entries ++ [e] ∧ t.bey = { s.bey with dtls := tdel s.bey.dtls n } ∧ t.cov = s.cov)))
  ∧ (∀ (key : List Byte) (s : State), running s = true →
      (serverNamed s .parent = true → exec (.dtlsClientRetry .parent key) s = .next { s with
        bey.parentUp := keyGrants s 9 (sha256 key), bey.retryParent := !keyGrants s 9 (sha256 key) })
      ∧ (serverNamed s .witness = true → exec (.dtlsClientRetry .witness key) s = .next { s with
        bey.witnessUp := keyGrants s 10 (sha256 key), bey.retryWitness := !keyGrants s 10 (sha256 key) })
      ∧ (∀ r, serverNamed s r = false → exec (.dtlsClientRetry r key) s = .next s)
      ∧ exec .ipv6ReassemblyTimeout s = .next { s with bey.reassembly := s.bey.reassembly.drop 1 })
  ∧ (∀ (port : BitVec 2) (target : BitVec 128) (s : State), running s = true → faultOn s (0x10 + port.toNat) false = false →
      let own := target.toNat = 0xFE80 * 2 ^ 112 + (ownEui s ^^^ 0x0200000000000000#64).toNat
        ∨ (s.twin.role ≠ .mirror ∧ target.toNat ≠ 0 ∧ target.toNat = ofBe (cfgBytes s.hw.records 0x0003 0 0 16))
      (portOn s port.toNat = true → own → exec (.neighbourSolicitation port target) s = .next { s with
        out := s.out ++ [.ethernet port.toNat 0x88 ([0] ++ be 16 target.toNat)] })
      ∧ (portOn s port.toNat = false → exec (.neighbourSolicitation port target) s = .next s)
      ∧ (s.twin.role ≠ .mirror → ¬own → exec (.neighbourSolicitation port target) s = .next s))

/-- Outside the processing of a log a message does nothing on a unit that is no mirror. One that comes up is handled once:
in last gasp, or of a session that is unknown or has ended, it has no effect. Any other counts and is answered, in this
order: MALFORMED for another version; the held reply again for a repeat; MALFORMED for its layout; DENIED, with its event,
without its right; BUSY for a store query beyond 64 in all or 8 of the session; and only then by its own type. On a
session of a mirror a message that is no query is BUSY. A reply is the header of R463 with the type's high bit, the
request's identifier, the answering seal and the status, then the body or the detail; its status is counted, one of a
cached type is held among the session's 16 latest, a store query's waits, and any other leaves at once. The model's own
readings or choices that it rests on: assumption log 85, 86, 87. -/
def Obligations.BeysynMessagesAreChecked : Prop :=
  (∀ (c : Instr) (type right : Nat) (m : Msg) (s : State), beysynCode c = some (type, m) → typeRight type = some right →
      (running s = false ∨ (s.twin.role ≠ .mirror ∧ s.work.isOpen = false) → exec c s = .next s)
      ∧ (Processing s → s.twin.role ≠ .mirror → s.work.lastGasp = true → s.work.handled.contains (0, m.org.pos) = false →
        (∀ p ∈ s.work.log.entries.zipIdx, p.1.kind = 2 → p.2 < m.org.pos → s.work.handled.contains (0, p.2) = true) →
          exec c s = .next { s with work.handled := (0, m.org.pos) :: s.work.handled })
      ∧ (Due m s → (∀ x, tget s.bey.sessions m.session = some x → x.ended.isSome = true) →
          exec c s = .next { s with work.handled := (0, m.org.pos) :: s.work.handled })
      ∧ (∀ x, Arrives m x s →
        let u := tookUp m s
        (m.version ≠ 1 → exec c s = .next (kept s (respond (ctxOf m) type false false ⟨5, 0, 0, []⟩ u)))
        ∧ (m.version = 1 →
          (∀ r, isCached type = true → x.replies.find? (·.1 == m.requestId) = some r →
            exec c s = .next (kept s ((ctxOf m).send r.2 { u with bey.dupRequests := s.bey.dupRequests.inc })))
          ∧ ((isCached type = true → x.replies.find? (·.1 == m.requestId) = none) →
            (layoutOk type m.body = false → exec c s = .next (kept s (respond (ctxOf m) type false (isCached type) ⟨5, 0, 0, []⟩ u)))
            ∧ (layoutOk type m.body = true →
              (testBit (rightsOf s x.digest) right = false →
                exec c s = .next (kept s (respond (ctxOf m) type false (isCached type) ⟨4, 0, 0, []⟩
                  (raise (Src.c0 m.org) 0xA004 [m.session, type] u))))
              ∧ (testBit (rightsOf s x.digest) right = true → isStoreQuery type = true → queriesFull s m.session = true →
                exec c s = .next (kept s (respond (ctxOf m) type false (isCached type) ⟨1, 0, 0, []⟩ u)))))))
      ∧ (∀ x, running s = true → s.twin.role = .mirror → tget s.bey.own m.session = some x → x.ended = none → m.version = 1 →
          layoutOk type m.body = true → testBit (rightsOf s x.digest) right = true → isQuery type = false →
          x.replies.find? (·.1 == m.requestId) = none →
          exec c s = .next (kept s (respond ⟨Src.c0 m.org, m.session, true, m.requestId⟩ type false (isCached type) ⟨1, 0, 0, []⟩
            { s with bey.messages := s.bey.messages.inc }))))
  ∧ (∀ (m : Msg) (type : Nat) (later cached : Bool) (r : Reply) (u : State) (x : Session) (d : DtlsSession),
      u.twin.role ≠ .mirror → tget u.bey.sessions m.session = some x → tget u.bey.dtls m.session = some d →
      d.addr = x.addr ∧ d.udpPort = x.udpPort ∧ d.ethPort = x.ethPort ∧ d.digest = x.digest → d.keyed = true →
      faultOn u (0x10 + d.ethPort.toNat) false = false →
      let bytes : Bytes := [0xB5, 1] ++ le 2 (type % 32768 + 32768) ++ le 4 m.requestId.toNat
        ++ le 6 ((u.sys.answer.map (·.toNat)).getD 0xFFFFFFFFFFFF) ++ le 2 r.status
        ++ (if r.status = 0 then r.body else le 2 r.cause ++ [0, 0] ++ le 4 r.index)
      let t := respond (ctxOf m) type later cached r u
      tget t.bey.sessions m.session = some { x with replies := if cached then ((m.requestId, bytes) :: x.replies).take 16 else x.replies }
        ∧ t.bey.queries = (if later then u.bey.queries ++ [⟨m.session, u.work.log.tick, bytes⟩] else u.bey.queries)
        ∧ t.out = (if later then u.out else u.out ++ [.beysyn m.session bytes])
        ∧ t.bey.busy = (if r.status = 1 then u.bey.busy.inc else u.bey.busy)
        ∧ t.bey.conflict = (if r.status = 2 then u.bey.conflict.inc else u.bey.conflict)
        ∧ t.bey.denied = (if r.status = 4 then u.bey.denied.inc else u.bey.denied)
        ∧ t.bey.malformed = (if r.status = 5 then u.bey.malformed.inc else u.bey.malformed)
        ∧ t.cov = u.cov ∧ t.work = u.work ∧ t.store = u.store ∧ t.recorder = u.recorder)

/-- SEAL_READ answers MALFORMED for a COUNT outside 1 to 64, NOTFOUND where no seal qualifies, and else the first COUNT
seals of the chain from FIRST up to the answering seal, the signed ones alone where FLAGS asks, 208 bytes each.
RECORD_READ answers MALFORMED for a COUNT outside 1 to 320, NOTFOUND for no entry, and else the entries from FIRST_SEQ on,
each the 32 bytes of the record, its seal, the high bits of its capture tick, its leaf and its payload's length; the
entries stop at the first SEQUENCE that is not a held leaf of a closed seal, and only there or at COUNT. PAYLOAD_READ
answers a held record's payload byte for byte and NOTFOUND otherwise. PROOF_READ answers MALFORMED for a KIND beyond 2 or
a target ahead of the leaf's seal, NOTFOUND without the leaf's seal, its target, its leaf or an unbroken chain between,
CONFLICT with cause 1 beyond 8,192 bodies, MALFORMED for an OFFSET at or beyond the proof's end, and else up to 16,000
bytes of the proof of R273 from OFFSET. The model's own readings or choices that it rests on: assumption log 90. -/
def Obligations.StoreQueriesAreAnswered : Prop :=
  (∀ (m : Msg) (x : Session) (s : State), Passes 0x10 0 m x s →
    let count := ofLe (slice m.body 6 1)
    let found := ((sealsUpTo s s.sys.answer).map (·.body)).filter fun y =>
      decide (ofLe (slice m.body 0 6) ≤ y.tick.toNat) && (!testBit (ofLe (slice m.body 7 1)) 0 || y.sig.isSome)
    (count = 0 ∨ 64 < count → exec (.sealRead m) s = .next (kept s (answered 0x10 m ⟨5, 0, 0, []⟩ (tookUp m s))))
    ∧ (1 ≤ count → count ≤ 64 → found = [] → exec (.sealRead m) s = .next (kept s (answered 0x10 m ⟨6, 0, 0, []⟩ (tookUp m s))))
    ∧ (1 ≤ count → count ≤ 64 → found ≠ [] → exec (.sealRead m) s = .next (kept s (answered 0x10 m
        ⟨0, 0, 0, le 2 (min count found.length) ++ [0, 0] ++ (found.take count).flatMap fun y => fit 208 y.full⟩ (tookUp m s)))))
  ∧ (∀ (m : Msg) (x : Session) (s : State), Passes 0x11 0 m x s →
    let first := ofLe (slice m.body 0 4)
    let count := ofLe (slice m.body 4 2)
    let entries := recordEntries s s.sys.answer count first
    (count = 0 ∨ 320 < count → exec (.recordRead m) s = .next (kept s (answered 0x11 m ⟨5, 0, 0, []⟩ (tookUp m s))))
    ∧ (1 ≤ count → count ≤ 320 → entries = [] → exec (.recordRead m) s = .next (kept s (answered 0x11 m ⟨6, 0, 0, []⟩ (tookUp m s))))
    ∧ (1 ≤ count → count ≤ 320 → entries ≠ [] → exec (.recordRead m) s = .next (kept s (answered 0x11 m
        ⟨0, 0, 0, le 4 first ++ le 2 entries.length ++ [0, 0] ++ entries.flatten⟩ (tookUp m s))))
    ∧ entries.length ≤ count
    ∧ (entries.length < count → recordAt s s.sys.answer ((first + entries.length) % 2 ^ 32) = none)
    ∧ (∀ i < entries.length, ∃ r y, recordAt s s.sys.answer ((first + i) % 2 ^ 32) = some (r, y)
        ∧ entries[i]? = some (r.record.bytes ++ le 6 r.tick.toNat
          ++ le 2 ((r.tick.toNat - (r.tick.toNat + 2 ^ 32 - r.record.tick.toNat) % 2 ^ 32) / 2 ^ 32)
          ++ le 4 ((r.record.seq.toNat + 2 ^ 32 - y.firstSeq.toNat) % 2 ^ 32)
          ++ le 2 ((r.record.payload.map (·.length)).getD 0) ++ [0, 0])))
  ∧ (∀ (m : Msg) (x : Session) (s : State), Passes 0x12 0 m x s →
    let seq := ofLe (slice m.body 0 4)
    ((∀ r y p, recordAt s s.sys.answer seq = some (r, y) → r.record.payload = some p →
      exec (.payloadRead m) s = .next (kept s (answered 0x12 m ⟨0, 0, 0, le 4 seq ++ le 2 p.length ++ [0, 0] ++ p⟩ (tookUp m s))))
    ∧ ((∀ r y, recordAt s s.sys.answer seq = some (r, y) → r.record.payload = none) →
      exec (.payloadRead m) s = .next (kept s (answered 0x12 m ⟨6, 0, 0, []⟩ (tookUp m s))))))
  ∧ (∀ (m : Msg) (x : Session) (s : State), Passes 0x13 0 m x s →
    let kind := ofLe (slice m.body 0 1)
    let target := ofLe (slice m.body 0x14 6)
    let off := ofLe (slice m.body 0x1C 4)
    let found := if kind = 0 then (recordAt s s.sys.answer (ofLe (slice m.body 4 4))).map (·.2) else
      (sealsUpTo s s.sys.answer).find? fun x => x.body.tick.toNat == ofLe (slice m.body 8 6)
    (2 < kind → exec (.proofRead m) s = .next (kept s (answered 0x13 m ⟨5, 0, 0, []⟩ (tookUp m s))))
    ∧ (∀ y, found = some y → target ≠ 0 → target < y.body.tick.toNat →
        exec (.proofRead m) s = .next (kept s (answered 0x13 m ⟨5, 0, 0, []⟩ (tookUp m s))))
    ∧ (kind ≤ 2 → found = none → kind = 0 ∨ target = 0 ∨ ofLe (slice m.body 8 6) ≤ target →
        exec (.proofRead m) s = .next (kept s (answered 0x13 m ⟨6, 0, 0, []⟩ (tookUp m s))))
    ∧ (∀ y, kind ≤ 2 → found = some y → target = 0 ∨ y.body.tick.toNat ≤ target →
        let i := if kind = 0 then leafIndex (ofLe (slice m.body 4 4)) y else if kind = 1 then ofLe (slice m.body 0x10 4) else 0
        let later := ((sealsUpTo s s.sys.answer).map (·.body)).filter fun z => decide (y.body.tick.toNat ≤ z.tick.toNat)
        let goal := if target = 0 then later.find? (·.sig.isSome) else later.find? fun z => z.tick.toNat == target && z.sig.isSome
        (goal = none ∨ proofLeaf s kind y i = none →
            exec (.proofRead m) s = .next (kept s (answered 0x13 m ⟨6, 0, 0, []⟩ (tookUp m s))))
        ∧ (∀ g sg leaf, goal = some g → g.sig = some sg → proofLeaf s kind y i = some leaf →
          let bodies := later.filter fun z => decide (z.tick.toNat ≤ g.tick.toNat)
          let proof := proofBytes kind leaf.2.2.length i leaf bodies sg
          (chained bodies = false → exec (.proofRead m) s = .next (kept s (answered 0x13 m ⟨6, 0, 0, []⟩ (tookUp m s))))
          ∧ (chained bodies = true → 8192 < bodies.length →
              exec (.proofRead m) s = .next (kept s (answered 0x13 m ⟨2, 1, 0, []⟩ (tookUp m s))))
          ∧ (chained bodies = true → bodies.length ≤ 8192 → proof.length ≤ off →
              exec (.proofRead m) s = .next (kept s (answered 0x13 m ⟨5, 0, 0, []⟩ (tookUp m s))))
          ∧ (chained bodies = true → bodies.length ≤ 8192 → off < proof.length →
              exec (.proofRead m) s = .next (kept s (answered 0x13 m
                ⟨0, 0, 0, le 4 proof.length ++ le 4 off ++ le 6 y.body.tick.toNat ++ [0, 0] ++ le 6 g.tick.toNat ++ [0, 0]
                  ++ (proof.drop off).take 16000⟩ (tookUp m s)))))))

/-- A SET_LIST has the layout that R465 checks exactly when it carries no body. One that passes the checks is answered
with COUNT, two reserved bytes and one 16-byte entry for each pending set as of the answering seal: BOUNDARY, COMMIT_TICK,
ITEMS and two reserved bytes. The entries name each pending set once, in ascending order of boundary. -/
def Obligations.SetListListsPendingSets : Prop :=
  (∀ body : List Byte, layoutOk 0x15 body = true ↔ body = [])
  ∧ (∀ (m : Msg) (x : Session) (s : State), Passes 0x15 0 m x s →
    ∃ listed : List PendingSet,
      listed.Perm (s.view.sys.sets.map (·.2))
      ∧ listed.Pairwise (fun p q => p.boundary.toNat ≤ q.boundary.toNat)
      ∧ exec (.setList m) s = .next (kept s (answered 0x15 m
          ⟨0, 0, 0, le 2 listed.length ++ [0, 0]
            ++ listed.flatMap fun p => le 6 p.boundary.toNat ++ le 6 p.commit.toNat ++ le 2 p.items.length ++ [0, 0]⟩ (tookUp m s))))

/-- ENDPOINT_GET answers MALFORMED for BY above 1 or a SLOT beyond 20 bits, NOTFOUND for an unknown EUI-64 or a FREE slot,
and else the 296 bytes of R473 as of the answering seal. LENS_OBSERVE answers MALFORMED for a bad address or length, and
else the words of the range; every RC field in the range is cleared. LENS_RECORDER answers MALFORMED for a bad COUNT or
START; reading from START or the session's cursor it answers NOTFOUND with the index of an unreadable grain and moves the
cursor to the next grain, and else the records with FIRST and NEXT, signed where exports have a signer, and the cursor
becomes NEXT. LENS_CLEAR is DENIED outside FIELD, CONFLICT with cause 1 after the first of a log, and else claims the
clear with its event. WRITE answers MALFORMED for a bad address or a MASK that covers any other bit than those of
ALERT_LATCH and EXPORT_MARK, NOTFOUND for no bit, and else clears the latched bits given as 1 or writes the masked bits of
EXPORT_MARK. The model's own readings or choices that it rests on: assumption log 100. -/
def Obligations.BeysynObservesAndWrites : Prop :=
  (∀ (m : Msg) (x : Session) (s : State), Passes 0x14 0 m x s →
    let by_ := ofLe (slice m.body 0 1)
    let given := ofLe (slice m.body 4 4)
    let slotOf := if by_ = 0 then some given else lookup (asSealed s) (euiOf (slice m.body 8 8))
    (1 < by_ ∨ (by_ = 0 ∧ 2 ^ 20 ≤ given) → exec (.endpointGet m) s = .next (kept s (answered 0x14 m ⟨5, 0, 0, []⟩ (tookUp m s))))
    ∧ (by_ = 1 ∨ (by_ = 0 ∧ given < 2 ^ 20) →
      ((∀ slot, slotOf = some slot → (endpoint (asSealed s) slot).state = .free) →
        exec (.endpointGet m) s = .next (kept s (answered 0x14 m ⟨6, 0, 0, []⟩ (tookUp m s))))
      ∧ (∀ slot, slotOf = some slot → (endpoint (asSealed s) slot).state ≠ .free →
          let eui := ((s.view.tables.ways.find? fun w => w.2.slot.toNat == slot).map (·.2.eui)).getD 0
          let link := linkOfSlot s.view.tables.links slot
          exec (.endpointGet m) s = .next (kept s (answered 0x14 m
            ⟨0, 0, 0, le 4 slot ++ [0, 0, 0, 0] ++ euiBytes eui ++ (endpoint (asSealed s) slot).bytes ++ le 2 (link.getD 0xFFFF)
              ++ [0, 0, 0, 0, 0, 0] ++ (match link with | some i => fit 256 (linkEntry (asSealed s) i).bytes | none => zeros 256)⟩
            (tookUp m s))))))
  ∧ (∀ (m : Msg) (x : Session) (s : State), Passes 0x18 0 m x s →
    let a := ofLe (slice m.body 0 4)
    let len := ofLe (slice m.body 4 2)
    let good := a < 2 ^ 24 ∧ a % 4 = 0 ∧ 4 ≤ len ∧ len ≤ 8192 ∧ len % 4 = 0
    (¬good → exec (.lensObserve m) s = .next (kept s (answered 0x18 m ⟨5, 0, 0, []⟩ (tookUp m s))))
    ∧ (good → exec (.lensObserve m) s = .next (kept s (answered 0x18 m
        ⟨0, 0, 0, le 4 a ++ le 2 len ++ [0, 0] ++ (List.range (len / 4)).flatMap fun i => le 4 (obsWord (tookUp m s) (a + 4 * i))⟩
        ((rcFields.filter fun f => decide (a ≤ f.addr) && decide (f.addr < a + len)).foldl (fun s f => f.clear s) (tookUp m s))))))
  ∧ (∀ (m : Msg) (x : Session) (s : State), Passes 0x19 0 m x s →
    let start := ofLe (slice m.body 0 4)
    let count := ofLe (slice m.body 4 2)
    let good := 1 ≤ count ∧ count ≤ 256 ∧ (start ≤ 262143 ∨ start = 0xFFFFFFFF)
    let read := s.recorder.read (if start = 0xFFFFFFFF then x.cursor else start) count
    let moved := fun c => { tookUp m s with bey.sessions := tput s.bey.sessions m.session { x with cursor := c } }
    (¬good → exec (.lensRecorder m) s = .next (kept s (answered 0x19 m ⟨5, 0, 0, []⟩ (tookUp m s))))
    ∧ (∀ i, good → read = .unreadable i → exec (.lensRecorder m) s = .next (kept s (answered 0x19 m ⟨6, 0, i, []⟩ (moved (i + 128)))))
    ∧ (∀ first next recs, good → read = .records first next recs →
        let body := le 4 first ++ le 2 recs.length ++ [0, 0] ++ le 4 next ++ [0, 0, 0, 0] ++ recs.flatMap EventRec.bytes
        let trailer := match exportSigner (asSealed s) with
          | some (_, d) => sigBytes (ecdsaSign d (sha256 (euiBytes (ownEui s) ++ le 8 (s.sys.image.ledgerId.getD 0).toNat ++ body)))
          | none => []
        exec (.lensRecorder m) s = .next (kept s (answered 0x19 m ⟨0, 0, 0, body ++ trailer⟩ (moved next)))))
  ∧ (∀ (m : Msg) (x : Session) (s : State), Passes 0x1A 6 m x s →
    (lifeState (asSealed s) ≠ .field → exec (.lensClear m) s = .next (kept s (answered 0x1A m ⟨4, 0, 0, []⟩ (tookUp m s))))
    ∧ (lifeState (asSealed s) = .field → s.bey.clear ≠ none →
        exec (.lensClear m) s = .next (kept s (answered 0x1A m ⟨2, 1, 0, []⟩ (tookUp m s))))
    ∧ (lifeState (asSealed s) = .field → s.bey.clear = none →
        exec (.lensClear m) s = .next (kept s (answered 0x1A m ⟨0, 0, 0, []⟩
          (raise (Src.c0 m.org) 0x0052 [s.recorder.writePos, m.session, ofBe (x.digest.drop 28)]
            { tookUp m s with bey.clear := some (m.session, x.digest) })))))
  ∧ (∀ (m : Msg) (x : Session) (s : State), Passes 0x28 1 m x s →
    let a := ofLe (slice m.body 0 4)
    let mask := BitVec.ofNat 32 (ofLe (slice m.body 4 4))
    let v := BitVec.ofNat 32 (ofLe (slice m.body 8 4))
    let open_ : BitVec 32 := if a = 0x30 then 0xFF else if a = 0x38 then 0xFFFFFFFF else if a = 0x3C then 0xFFFF else 0
    let good := a < 2 ^ 24 ∧ a % 4 = 0 ∧ mask &&& ~~~open_ = 0
    (¬good → exec (.write m) s = .next (kept s (answered 0x28 m ⟨5, 0, 0, []⟩ (tookUp m s))))
    ∧ (good → mask = 0 → exec (.write m) s = .next (kept s (answered 0x28 m ⟨6, 0, 0, []⟩ (tookUp m s))))
    ∧ (good → mask ≠ 0 → a = 0x30 → exec (.write m) s = .next (kept s (answered 0x28 m ⟨0, 0, 0, []⟩
        { tookUp m s with bey.alert := s.bey.alert &&& ~~~((mask &&& v).setWidth 8) })))
    ∧ (good → mask ≠ 0 → a = 0x38 ∨ a = 0x3C → ∃ e : BitVec 48,
        exec (.write m) s = .next (kept s (answered 0x28 m ⟨0, 0, 0, []⟩ { tookUp m s with bey.mark := e }))
        ∧ (∀ i < 32, e.getLsbD i = if a = 0x38 ∧ mask.getLsbD i = true then v.getLsbD i else s.bey.mark.getLsbD i)
        ∧ (∀ i < 16, e.getLsbD (32 + i) = if a = 0x3C ∧ mask.getLsbD i = true then v.getLsbD i else s.bey.mark.getLsbD (32 + i)))
    ∧ (good → mask ≠ 0 → a = 0x30 ∨ a = 0x38 ∨ a = 0x3C))

/-- SUBSCRIBE gives the session one subscription, which replaces any other, with its flag and its request, from the seal
of this log on; UNSUBSCRIBE ends it; both answer OK. A seal notice of a subscription is the next durable seal that it
selects, 208 bytes under the header of type 0x0022 with the subscription's request, that seal and OK; the one after it
comes next. A mirror sends none, nor does a session without a subscription or with no such seal. A store query's reply,
the oldest of its session, leaves and is outstanding no longer. Both leave on the DTLS session that still carries the
Beysyn session with its keys, and are lost without one. The model's own readings or choices that it rests on: assumption
log 89. -/
def Obligations.SubscriptionsAndStoreReplies : Prop :=
  (∀ (m : Msg) (x : Session) (s : State), Passes 0x20 0 m x s →
    exec (.subscribe m) s = .next (kept s (answered 0x20 m ⟨0, 0, 0, []⟩ { tookUp m s with
      bey.sessions := tput s.bey.sessions m.session
        { x with sub := some ⟨m.requestId, testBit (ofLe (slice m.body 0 1)) 0, s.work.log.tick⟩ } })))
  ∧ (∀ (m : Msg) (x : Session) (s : State), Passes 0x21 0 m x s →
    exec (.unsubscribe m) s = .next (kept s (answered 0x21 m ⟨0, 0, 0, []⟩ { tookUp m s with
      bey.sessions := tput s.bey.sessions m.session { x with sub := none } })))
  ∧ (∀ (n : Nat) (s : State), (running s = false ∨ s.twin.role = .mirror ∨ ∀ x, tget s.bey.sessions n = some x → x.sub = none) →
    exec (.sealNotice n) s = .next s)
  ∧ (∀ (n : Nat) (x : Session) (sub : Subscription) (s : State), running s = true → s.twin.role ≠ .mirror →
    tget s.bey.sessions n = some x → x.sub = some sub →
    let due := (sealsUpTo s s.store.durable).find? fun y =>
      decide (sub.next.toNat ≤ y.body.tick.toNat) && (!sub.signedOnly || y.body.sig.isSome)
    (due = none → exec (.sealNotice n) s = .next s)
    ∧ (∀ y, due = some y →
      let noted := tput s.bey.sessions n { x with sub := some { sub with next := y.body.tick + 1 } }
      (tget s.bey.dtls n = none → exec (.sealNotice n) s = .next { s with bey.sessions := noted })
      ∧ (∀ d, tget s.bey.dtls n = some d → d.addr = x.addr ∧ d.udpPort = x.udpPort ∧ d.ethPort = x.ethPort ∧ d.digest = x.digest →
          (d.keyed = false → exec (.sealNotice n) s = .next { s with bey.sessions := noted })
          ∧ (d.keyed = true → faultOn s (0x10 + d.ethPort.toNat) false = false →
            exec (.sealNotice n) s = .next { s with
              bey.sessions := noted
              out := s.out ++ [.beysyn n ([0xB5, 1, 0x22, 0] ++ le 4 sub.requestId.toNat ++ le 6 y.body.tick.toNat ++ [0, 0]
                ++ fit 208 y.body.full)] }))))
  ∧ (∀ (n : Nat) (s : State), (running s = false ∨ ∀ q ∈ s.bey.queries, q.session ≠ n) → exec (.storeQueryReply n) s = .next s)
  ∧ (∀ (n : Nat) (q : StoreQuery) (s : State), running s = true → s.bey.queries.find? (fun q => q.session == n) = some q →
    (tget s.bey.dtls n = none → exec (.storeQueryReply n) s = .next { s with bey.queries := s.bey.queries.erase q })
    ∧ (∀ d x, tget s.bey.dtls n = some d → tget (if s.twin.role = .mirror then s.bey.own else s.bey.sessions) n = some x →
        d.addr = x.addr ∧ d.udpPort = x.udpPort ∧ d.ethPort = x.ethPort ∧ d.digest = x.digest → d.keyed = true →
        faultOn s (0x10 + d.ethPort.toNat) false = false →
        exec (.storeQueryReply n) s = .next { s with bey.queries := s.bey.queries.erase q, out := s.out ++ [.beysyn n q.reply] }))

/-- STAGE_OPEN opens the lowest free of the numbers 1 to 8 for the session, or is BUSY. STAGE_ADD, STAGE_CHECK,
STAGE_COMMIT and STAGE_DISCARD answer NOTFOUND for a number that no staging session of the message's own session has.
STAGE_ADD answers MALFORMED with the index of the first item whose encoding is bad, or of the first beyond 4,096; BUSY
with the index of the first that the 0.5 MiB region cannot hold; and else adds all items and answers their number.
STAGE_CHECK makes the check of R43 and answers CONFLICT with cause and item, or OK. STAGE_COMMIT tests in order the window
(STALE, MALFORMED), a set of the same boundary (CONFLICT 8), 32 sets (BUSY), the check (CONFLICT), and the size limits
(BUSY); one that passes leaves the set pending with this log's tick, its event and journal entry, and ends the staging
session. STAGE_DISCARD drops the session with its event. SET_ABORT answers NOTFOUND without such a set, STALE fewer than 4
ticks ahead, and else removes it with its event and journal entry. The model's own readings or choices that it rests on:
assumption log 94. -/
def Obligations.StagingAndCommits : Prop :=
  (∀ (m : Msg) (x : Session) (s : State), Passes 0x30 2 m x s →
    ((∀ n, 1 ≤ n → n ≤ 8 → tget s.bey.staging n ≠ none) → exec (.stageOpen m) s = .next (kept s (answered 0x30 m ⟨1, 0, 0, []⟩ (tookUp m s))))
    ∧ (∀ n, 1 ≤ n → n ≤ 8 → tget s.bey.staging n = none → (∀ k, 1 ≤ k → k < n → tget s.bey.staging k ≠ none) →
        exec (.stageOpen m) s = .next (kept s (answered 0x30 m ⟨0, 0, 0, le 2 n ++ [0, 0]⟩
          { tookUp m s with bey.staging := tput s.bey.staging n ⟨m.session, []⟩ }))))
  ∧ (∀ (c : Instr) (type : Nat) (m : Msg) (x : Session) (s : State), type ∈ [0x31, 0x32, 0x33, 0x34] → beysynCode c = some (type, m) →
      Passes type 2 m x s → (∀ g, tget s.bey.staging (ofLe (slice m.body 0 2)) = some g → g.session ≠ m.session) →
      exec c s = .next (kept s (answered type m ⟨6, 0, 0, []⟩ (tookUp m s))))
  ∧ (∀ (m : Msg) (x : Session) (s : State) (g : Staging) (items : List Item), Passes 0x31 2 m x s →
    tget s.bey.staging (ofLe (slice m.body 0 2)) = some g → g.session = m.session →
    parseItems (ofLe (slice m.body 2 2)) (m.body.drop 4) = some items →
    let total := g.items.length + items.length
    let free := 524288 - (s.bey.staging.map fun p => itemsBytes p.2.items).foldl (· + ·) 0
    (∀ k, items.findIdx? (fun i => !itemEncodes i) = some k →
        exec (.stageAdd m) s = .next (kept s (answered 0x31 m ⟨5, 0, k, []⟩ (tookUp m s))))
    ∧ ((∀ i ∈ items, itemEncodes i = true) →
      (4096 < total → exec (.stageAdd m) s = .next (kept s (answered 0x31 m ⟨5, 0, 4096 - g.items.length, []⟩ (tookUp m s))))
      ∧ (∀ k, total ≤ 4096 → firstBeyond free 0 items = some k →
          exec (.stageAdd m) s = .next (kept s (answered 0x31 m ⟨1, 0, k, []⟩ (tookUp m s))))
      ∧ (total ≤ 4096 → firstBeyond free 0 items = none →
          exec (.stageAdd m) s = .next (kept s (answered 0x31 m ⟨0, 0, 0, le 4 total⟩
            { tookUp m s with bey.staging := tput s.bey.staging (ofLe (slice m.body 0 2)) ⟨m.session, g.items ++ items⟩ })))))
  ∧ (∀ (m : Msg) (x : Session) (s : State) (g : Staging), Passes 0x32 2 m x s →
    tget s.bey.staging (ofLe (slice m.body 0 2)) = some g → g.session = m.session →
    (∀ i cause code, applyItems Src.stagedSet 0 g.items (checkState (tookUp m s) (2 ^ 48)) = .error (i, cause, code) →
        exec (.stageCheck m) s = .next (kept s (answered 0x32 m ⟨2, cause, i % 2 ^ 24 + code % 256 * 2 ^ 24, []⟩ (tookUp m s))))
    ∧ (∀ t, applyItems Src.stagedSet 0 g.items (checkState (tookUp m s) (2 ^ 48)) = .ok t →
        exec (.stageCheck m) s = .next (kept s (answered 0x32 m ⟨0, 0, 0, []⟩ (tookUp m s)))))
  ∧ (∀ (m : Msg) (x : Session) (s : State) (g : Staging), Passes 0x33 2 m x s →
    tget s.bey.staging (ofLe (slice m.body 0 2)) = some g → g.session = m.session →
    let bound := ofLe (slice m.body 4 6)
    let now := s.work.log.tick.toNat
    let base := checkState (tookUp m s) bound
    let refusedAs := fun r => exec (.stageCommit m) s = .next (kept s (answered 0x33 m r (tookUp m s)))
    (bound < now + 4 → refusedAs ⟨3, 0, 0, []⟩)
    ∧ (now + 2 ^ 20 < bound → refusedAs ⟨5, 0, 0, []⟩)
    ∧ (now + 4 ≤ bound → bound ≤ now + 2 ^ 20 →
      (∀ p ∈ s.cov.sys.sets, p.2.boundary.toNat = bound → refusedAs ⟨2, 8, 0, []⟩)
      ∧ ((∀ p ∈ s.cov.sys.sets, p.2.boundary.toNat ≠ bound) →
        (32 ≤ s.cov.sys.sets.length → refusedAs ⟨1, 0, 0, []⟩)
        ∧ (s.cov.sys.sets.length < 32 →
          (∀ i cause code, applyItems Src.stagedSet 0 g.items base = .error (i, cause, code) →
              refusedAs ⟨2, cause, i % 2 ^ 24 + code % 256 * 2 ^ 24, []⟩)
          ∧ (∀ t, applyItems Src.stagedSet 0 g.items base = .ok t →
            let tooBig := 458752 < journalNeed s g.items ∨ (65456 < vaultBytes t ∧ vaultBytes base < vaultBytes t)
            let set : PendingSet := ⟨BitVec.ofNat 48 bound, s.work.log.tick, g.items⟩
            (tooBig → refusedAs ⟨1, 0, 0, []⟩)
            ∧ (¬tooBig → exec (.stageCommit m) s = .next (kept s (answered 0x33 m ⟨0, 0, 0, le 6 bound ++ [0, 0]⟩
                (journalDue (.commit set.commit set.boundary set.items)
                  (raise (Src.c0 m.org) 0x0020 [bound % 2 ^ 32, g.items.length]
                    (addSet (Src.c0 m.org) set
                      { tookUp m s with bey.staging := tdel s.bey.staging (ofLe (slice m.body 0 2)) })))))))))))
  ∧ (∀ (m : Msg) (x : Session) (s : State) (g : Staging), Passes 0x34 2 m x s →
    tget s.bey.staging (ofLe (slice m.body 0 2)) = some g → g.session = m.session →
    exec (.stageDiscard m) s = .next (kept s (answered 0x34 m ⟨0, 0, 0, []⟩
      (raise (Src.c0 m.org) 0xA005 [ofLe (slice m.body 0 2), g.items.length, 0]
        { tookUp m s with bey.staging := tdel s.bey.staging (ofLe (slice m.body 0 2)) }))))
  ∧ (∀ (m : Msg) (x : Session) (s : State), Passes 0x35 2 m x s →
    let bound := ofLe (slice m.body 0 6)
    let held := s.cov.sys.sets.find? fun p => p.2.boundary.toNat == bound
    (held = none → exec (.setAbort m) s = .next (kept s (answered 0x35 m ⟨6, 0, 0, []⟩ (tookUp m s))))
    ∧ (held ≠ none → bound < s.work.log.tick.toNat + 4 →
        exec (.setAbort m) s = .next (kept s (answered 0x35 m ⟨3, 0, 0, []⟩ (tookUp m s))))
    ∧ (∀ pos p, held = some (pos, p) → s.work.log.tick.toNat + 4 ≤ bound →
        exec (.setAbort m) s = .next (kept s (answered 0x35 m ⟨0, 0, 0, []⟩
          (journalDue (.drop p.boundary p.commit)
            (raise (Src.c0 m.org) 0x0023 [bound % 2 ^ 32] (removeSet (Src.c0 m.org) pos (tookUp m s))))))))

/-- LIFECYCLE answers MALFORMED for fields out of range; a unit that is not named ignores it; a pair not named whole
answers CONFLICT. Then, in order: STALE or MALFORMED outside the window; DENIED for a root that may not sign, another
signer's key or a signature that does not verify; CONFLICT where the condition of the action does not hold in the state as
of the answering seal with the pending requests applied; BUSY beyond 8 pending; and else the request is pending and the
answer OK. SWAP_REQUEST answers NOTFOUND on a unit that is no pair, STALE or MALFORMED outside the window, CONFLICT while
a swap is pending, CONFLICT with cause 3 for a mirror that is neither SYNCED nor HELD, and else schedules the swap, with a
transfer for a HELD mirror, and its event. The model's own readings or choices that it rests on: assumption log 66, 92. -/
def Obligations.LifeCycleRequestsAndSwaps : Prop :=
  (∀ (m : Msg) (x : Session) (s : State), Passes 0x38 4 m x s →
    (lcOfBody m.body = none → exec (.lifecycle m) s = .next (kept s (answered 0x38 m ⟨5, 0, 0, []⟩ (tookUp m s))))
    ∧ (∀ q, lcOfBody m.body = some q →
      let now := s.work.log.tick.toNat
      let refusedAs := fun r => exec (.lifecycle m) s = .next (kept s (answered 0x38 m r (tookUp m s)))
      (lcAddressed q s = none → exec (.lifecycle m) s = .next (tookUp m s))
      ∧ (lcAddressed q s = some true → refusedAs ⟨2, 0, 0, []⟩)
      ∧ (lcAddressed q s = some false →
        (q.boundary.toNat < now + 4 → refusedAs ⟨3, 0, 0, []⟩)
        ∧ (now + 2 ^ 20 < q.boundary.toNat → refusedAs ⟨5, 0, 0, []⟩)
        ∧ (now + 4 ≤ q.boundary.toNat → q.boundary.toNat ≤ now + 2 ^ 20 →
          let signed := (requestRoots (asSealed s) q.action).contains q.root && sha256 q.signerKey == (rootFuses s.keys.fuses q.root).digest
            && ecdsaVerify (pointOf q.signerKey).1 (pointOf q.signerKey).2 (sha256 q.body) q.r q.s
          let holds := lcCondition (lcPendingApplied { asSealed (tookUp m s) with cov.keys.requests := s.cov.keys.requests }) q
          exec (.lifecycle m) s = .next (kept s
            (if !signed then answered 0x38 m ⟨4, 0, 0, []⟩ (tookUp m s)
             else if !holds then answered 0x38 m ⟨2, 0, 0, []⟩ (tookUp m s)
             else if 8 ≤ s.cov.keys.requests.length then answered 0x38 m ⟨1, 0, 0, []⟩ (tookUp m s)
             else answered 0x38 m ⟨0, 0, 0, []⟩ (lcAccept (Src.c0 m.org) q (tookUp m s))))))))
  ∧ (∀ (m : Msg) (x : Session) (s : State), Passes 0x39 5 m x s →
    let bound := ofLe (slice m.body 0 6)
    let now := s.work.log.tick.toNat
    let st := (s.twin.mirror.map (·.standby)).getD 0
    let refusedAs := fun r => exec (.swapRequest m) s = .next (kept s (answered 0x39 m r (tookUp m s)))
    (cfgOf s.view.sys.records 0x0901 0 0 1 0 ≠ 1 → refusedAs ⟨6, 0, 0, []⟩)
    ∧ (cfgOf s.view.sys.records 0x0901 0 0 1 0 = 1 →
      (bound < now + 4 → refusedAs ⟨3, 0, 0, []⟩)
      ∧ (now + 2 ^ 20 < bound → refusedAs ⟨5, 0, 0, []⟩)
      ∧ (now + 4 ≤ bound → bound ≤ now + 2 ^ 20 →
        (s.twin.swapAt ≠ none → refusedAs ⟨2, 0, 0, []⟩)
        ∧ (s.twin.swapAt = none → st ≠ 2 → st ≠ 4 → refusedAs ⟨2, 3, 0, []⟩)
        ∧ (s.twin.swapAt = none → st = 2 ∨ st = 4 →
            exec (.swapRequest m) s = .next (kept s (answered 0x39 m ⟨0, 0, 0, []⟩
              (raise (Src.c0 m.org) 0x900A [bound % 2 ^ 32, 1]
                { tookUp m s with twin.swapAt := some (BitVec.ofNat 48 bound), twin.swapTransfer := decide (st = 4) })))))))

/-- UPDATE_OPEN answers MALFORMED for a KIND above 1 or a SIZE outside 4 to 2,097,152, CONFLICT to the holder of the lock
and BUSY to another, BUSY while a campaign runs or an activation waits, and else opens the session with its event, with
the earlier verification given up. The next three answer CONFLICT 2 to a client that does not hold the lock. UPDATE_DATA
answers CONFLICT 3 with the offset expected, MALFORMED beyond SIZE, and else takes the bytes and, on the unit they are
for, leaves them to be written once durable. UPDATE_VERIFY answers CONFLICT 4 before the last byte, and else starts
verification on the target. UPDATE_ACTIVATE answers CONFLICT 4 before the last byte, CONFLICT 5 for a meter image,
CONFLICT 6 for a primary with a ready mirror, STALE or MALFORMED outside the window, and else the activation is pending.
UPDATE_ABORT answers NOTFOUND without a session, STALE fewer than 4 ticks ahead of a pending activation, and else ends the
session with its event. The model's own readings or choices that it rests on: assumption log 95. -/
def Obligations.UpdateMessages : Prop :=
  (∀ (m : Msg) (x : Session) (s : State), Passes 0x40 3 m x s →
    let kind := ofLe (slice m.body 0 1)
    let target := euiOf (slice m.body 4 8)
    let size := ofLe (slice m.body 0xC 4)
    let refusedAs := fun r => exec (.updateOpen m) s = .next (kept s (answered 0x40 m r (tookUp m s)))
    (1 < kind ∨ size < 4 ∨ 2097152 < size → refusedAs ⟨5, 0, 0, []⟩)
    ∧ (kind ≤ 1 → 4 ≤ size → size ≤ 2097152 →
      (∀ u, s.cov.upd.session = some u → u.pending = false → refusedAs (if u.digest = x.digest then ⟨2, 1, 0, []⟩ else ⟨1, 1, 0, []⟩))
      ∧ ((∀ u, s.cov.upd.session = some u → u.pending = true) → campaignRuns s = true → refusedAs ⟨1, 2, 0, []⟩)
      ∧ (∀ u, s.cov.upd.session = some u → u.pending = true → campaignRuns s = false → refusedAs ⟨1, 3, 0, []⟩)
      ∧ (s.cov.upd.session = none → campaignRuns s = false →
        let opened := dropVerify (putSession (Src.c0 m.org)
          (some ⟨kind, false, false, size, 0, s.work.log.tick.setWidth 32, target, x.digest, 0, zeros 32⟩) (tookUp m s))
        let fresh := if kind = 1 ∨ target = ownEui s then
          { opened with upd.delta := [], upd.writes := [], upd.writeFailed := false, upd.hasImage := false, upd.readback := false } else opened
        exec (.updateOpen m) s = .next (kept s (answered 0x40 m ⟨0, 0, 0, []⟩
          (raise (Src.c0 m.org) 0xB001 [kind, size, target.toNat % 2 ^ 32, target.toNat / 2 ^ 32] { fresh with upd.running := [] }))))))
  ∧ (∀ (c : Instr) (type : Nat) (m : Msg) (x : Session) (s : State), type ∈ [0x41, 0x42, 0x43] → beysynCode c = some (type, m) →
      Passes type 3 m x s → (∀ u, s.cov.upd.session = some u → u.pending = true ∨ u.digest ≠ x.digest) →
      exec c s = .next (kept s (answered type m ⟨2, 2, 0, []⟩ (tookUp m s))))
  ∧ (∀ (m : Msg) (x : Session) (s : State) (u : UpdSession), Passes 0x41 3 m x s → s.cov.upd.session = some u → u.pending = false →
    u.digest = x.digest →
    let off := ofLe (slice m.body 0 4)
    let data := m.body.drop 8
    let n := off + data.length
    (off ≠ u.received → exec (.updateData m) s = .next (kept s (answered 0x41 m ⟨2, 3, u.received, []⟩ (tookUp m s))))
    ∧ (off = u.received → u.size < n → exec (.updateData m) s = .next (kept s (answered 0x41 m ⟨5, 0, 0, []⟩ (tookUp m s))))
    ∧ (off = u.received → n ≤ u.size →
      let run := if u.kind = 1 then s.upd.running ++ data else []
      let held := putSession (Src.c0 m.org) (some { u with
        received := n, complete := decide (n = u.size), lastTick := s.work.log.tick.setWidth 32,
        imageDigest := if u.kind = 1 ∧ n = u.size then sha256 run else u.imageDigest }) { tookUp m s with upd.running := run }
      exec (.updateData m) s = .next (kept s (answered 0x41 m ⟨0, 0, 0, []⟩
        (if u.kind = 1 ∨ u.target = ownEui s then { held with upd.writes := s.upd.writes ++ [⟨s.work.log.tick, off, data⟩] } else held)))))
  ∧ (∀ (m : Msg) (x : Session) (s : State) (u : UpdSession), Passes 0x42 3 m x s → s.cov.upd.session = some u → u.pending = false →
    u.digest = x.digest →
    (u.received < u.size → exec (.updateVerify m) s = .next (kept s (answered 0x42 m ⟨2, 4, 0, []⟩ (tookUp m s))))
    ∧ (u.size ≤ u.received →
      let held := putSession (Src.c0 m.org) (some { u with lastTick := s.work.log.tick.setWidth 32 }) (tookUp m s)
      exec (.updateVerify m) s = .next (kept s (answered 0x42 m ⟨0, 0, 0, []⟩
        (if u.kind = 1 ∨ u.target = ownEui s then
          { held with upd.verify := .waiting, upd.cause := 0, upd.rebuilt := [], store.lent := s.store.lent || u.kind == 0, upd.readback := false }
         else held)))))
  ∧ (∀ (m : Msg) (x : Session) (s : State) (u : UpdSession), Passes 0x43 3 m x s → s.cov.upd.session = some u → u.pending = false →
    u.digest = x.digest →
    let bound := ofLe (slice m.body 0 6)
    let now := s.work.log.tick.toNat
    let refusedAs := fun r => exec (.updateActivate m) s = .next (kept s (answered 0x43 m r (tookUp m s)))
    let paired := u.target = logUnit s ∧ cfg s 0x0901 0 0 1 0 = 1 ∧ mirrorReady s = true
    (u.received < u.size → refusedAs ⟨2, 4, 0, []⟩)
    ∧ (u.size ≤ u.received → u.kind = 1 → refusedAs ⟨2, 5, 0, []⟩)
    ∧ (u.size ≤ u.received → u.kind ≠ 1 →
      (paired → refusedAs ⟨2, 6, 0, []⟩)
      ∧ (¬paired → bound < now + 4 → refusedAs ⟨3, 0, 0, []⟩)
      ∧ (¬paired → now + 2 ^ 20 < bound → refusedAs ⟨5, 0, 0, []⟩)
      ∧ (¬paired → now + 4 ≤ bound → bound ≤ now + 2 ^ 20 →
          exec (.updateActivate m) s = .next (kept s (answered 0x43 m ⟨0, 0, 0, []⟩
            (putSession (Src.c0 m.org) (some { u with
              pending := true, boundary := BitVec.ofNat 48 bound, lastTick := s.work.log.tick.setWidth 32 }) (tookUp m s)))))))
  ∧ (∀ (m : Msg) (x : Session) (s : State), Passes 0x44 3 m x s →
    (s.cov.upd.session = none → exec (.updateAbort m) s = .next (kept s (answered 0x44 m ⟨6, 0, 0, []⟩ (tookUp m s))))
    ∧ (∀ u, s.cov.upd.session = some u →
      let late := u.pending = true ∧ u.boundary.toNat < s.work.log.tick.toNat + 4
      (late → exec (.updateAbort m) s = .next (kept s (answered 0x44 m ⟨3, 0, 0, []⟩ (tookUp m s))))
      ∧ (¬late → exec (.updateAbort m) s = .next (kept s (answered 0x44 m ⟨0, 0, 0, []⟩
          (raise (Src.c0 m.org) 0xB002 [0, u.received] (dropVerify (putSession (Src.c0 m.org) none (tookUp m s)))))))))

/-- The lock lapses in the first log more than IDLE_S after the holder's latest message, with its event, and not before.
The oldest data write goes into the staging region once the seal of its log is durable, and a write that fails is
remembered. A rebuild runs on the target of a Delta once every write is complete: it ends REJECTED with the cause, or
VERIFIED with the image and its boot header, each with its event, and an image is rebuilt only from a Delta that passes
every check of R497. A readback compares the staged image with its digest. In the pause of an activation, once seal,
checkpoint, vault and journal are complete, the boot header goes, the new image is loaded and the recorder's staging is
flushed. The rewrite after the activation's seal is durable programs firmware and boot header; one that fails leaves the
M20 dead; a mirror resets after it. The model's own readings or choices that it rests on: assumption log 97, 98. -/
def Obligations.UpdatesAreWrittenAndVerified : Prop :=
  (∀ s : State, (Processing s → ∀ u, s.cov.upd.session = some u → u.pending = false →
        (s.work.log.tick.toNat + 2 ^ 32 - u.lastTick.toNat) % 2 ^ 32 ≤ cfg s 0x0B01 0 0 4 3600 * ticksPerS s) →
      exec .updateLockLapse s = .next s)
  ∧ (∀ (u : UpdSession) (s : State), Processing s → s.cov.upd.session = some u → u.pending = false →
      cfg s 0x0B01 0 0 4 3600 * ticksPerS s < (s.work.log.tick.toNat + 2 ^ 32 - u.lastTick.toNat) % 2 ^ 32 →
      exec .updateLockLapse s = .next (kept s (raise (Src.sweep 0) 0xB002 [1, u.received] (dropVerify (putSession (Src.sweep 0) none s)))))
  ∧ (∀ (ok : Bool) (s : State), (∀ w rest, s.upd.writes = w :: rest → norOn s = false ∨ isDurable s w.log = false) →
      exec (.updateDataWrite ok) s = .next s)
  ∧ (∀ (w : DataWrite) (rest : List DataWrite) (s : State), s.upd.writes = w :: rest → norOn s = true → isDurable s w.log = true →
      exec (.updateDataWrite true) s = .next { s with upd.writes := rest, upd.delta := writeAt s.upd.delta w.offset w.bytes }
      ∧ exec (.updateDataWrite false) s = .next { s with
          upd.writes := rest, upd.writeFailed := true, upd.delta := writeAt s.upd.delta w.offset [] })
  ∧ (∀ s : State, (∀ u, s.cov.upd.session = some u →
        norOn s = false ∨ u.kind ≠ 0 ∨ u.target ≠ ownEui s ∨ s.upd.verify ≠ .waiting ∨ s.upd.writes ≠ []) →
      exec .updateRebuild s = .next s)
  ∧ (∀ (u : UpdSession) (s : State), s.cov.upd.session = some u → norOn s = true → u.kind = 0 → u.target = ownEui s →
      s.upd.verify = .waiting → s.upd.writes = [] →
      exec .updateRebuild s = .next (kept s (match rebuild s u.size with
        | .inl c => raiseU 0xB004 [c] { s with upd.verify := .rejected, upd.cause := c, upd.rebuilt := [] }
        | .inr (h, img) => raiseU 0xB003 [ofLe (h.fwDigest.take 4), h.procVersion.toNat, h.build.toNat]
            { s with upd.verify := .verified, upd.cause := 0, upd.fresh := h, upd.rebuilt := img })))
  ∧ (∀ (s : State) (size : Nat), match rebuild s size with
    | .inl c => 1 ≤ c ∧ c ≤ 8
    | .inr (h, img) =>
      let d := s.upd.delta.take size
      let vkey := slice d 0x58 64
      let counter := (slotValue s (ofLe (slice d 0x54 2))).getD []
      ofLe (slice d 0 4) = 0x4C454457 ∧ ofLe (slice d 4 2) = 1 ∧ ofLe (slice d 8 4) = size ∧ d.length = size
      ∧ slice d 0x10 32 = s.upd.fw.fwDigest ∧ sha256 vkey ∈ Config.vendorDigests s.upd.fw.fwDigest
      ∧ ecdsaVerify (pointOf vkey).1 (pointOf vkey).2 (sha256 (d.take (size - 128))) (ofLe (slice d (size - 128) 32)) (ofLe (slice d (size - 96) 32)) = true
      ∧ usable { s with cov := s.view } 4 (ofLe (slice d 0x54 2)) = true
      ∧ ecdsaVerify (pointOf counter).1 (pointOf counter).2 (sha256 (d.take (size - 64))) (ofLe (slice d (size - 64) 32)) (ofLe (slice d (size - 32) 32)) = true
      ∧ applyOps (runningImage s) size (slice d 0xC0 (size - 128 - 0xC0)) = some img ∧ img.length = ofLe (slice d 0xC 4)
      ∧ sha256 img = slice d 0x30 32 ∧ h.fwDigest = sha256 img)
  ∧ (∀ s : State, readbackOf s = none ∨ norOn s = false ∨ s.upd.writes ≠ [] → exec .campaignReadback s = .next s)
  ∧ (∀ (size : Nat) (digest : Bytes) (s : State), readbackOf s = some (size, digest) → norOn s = true → s.upd.writes = [] →
      (size ≤ s.upd.delta.length → sha256 (s.upd.delta.take size) = digest →
        exec .campaignReadback s = .next (kept s (raiseU 0xB003 [ofLe (digest.take 4), 0, 0]
          { s with upd.verify := .verified, upd.cause := 0, upd.readback := true, upd.hasImage := true })))
      ∧ (s.upd.delta.length < size ∨ sha256 (s.upd.delta.take size) ≠ digest →
        exec .campaignReadback s = .next (kept s (raiseU 0xB004 [10]
          { s with upd.verify := .rejected, upd.cause := 10, upd.readback := true, upd.hasImage := false }))))
  ∧ (∀ (ms : Nat) (s : State),
      let ready := ∃ a, s.upd.activation = some a ∧ s.sys.mode = .pause ∧ s.upd.deadWindow = false ∧ isDurable s a = true
        ∧ s.store.checkpoint = none ∧ s.store.ckptDue = none ∧ s.keys.vaultDue = [] ∧ s.nor.journal.due = []
      (¬ready → exec (.deadWindowOpen ms) s = .next s)
      ∧ (ready → exec (.deadWindowOpen ms) s = .next { s with
          nor.boot := none, upd.deadWindow := true, upd.fw := s.upd.fresh, upd.fwImage := s.upd.rebuilt
          recorder := if s.recorder.noGrain then s.recorder else s.recorder.flush }))
  ∧ (∀ (ms : Nat) (ok : Bool) (s : State),
      let written := { s with nor.boot := some s.upd.fresh, nor.firmware := s.upd.rebuilt, upd.deadWindow := false }
      let dead := settlePins { s with sys.mode := .dead, cap.isOn := false }
      (s.upd.mirrorRewrite = true →
        (s.sys.mode ≠ .running → s.sys.mode ≠ .waiting → exec (.norRewrite ms ok) s = .next s)
        ∧ (s.sys.mode = .running ∨ s.sys.mode = .waiting →
          (ok = true → exec (.norRewrite ms ok) s = .next (kept s (resetUnit 10 { written with upd.mirrorRewrite := false })))
          ∧ (ok = false → exec (.norRewrite ms ok) s = .next (kept s dead))))
      ∧ (s.upd.mirrorRewrite = false →
        ((∀ x, s.upd.rewriteDue = some x → s.sys.mode ≠ .running ∨ isDurable s x = false ∨ (ok = true ∧ norQuiet s = false)) →
          exec (.norRewrite ms ok) s = .next s)
        ∧ (∀ x, s.upd.rewriteDue = some x → s.sys.mode = .running → isDurable s x = true →
          (ok = false → exec (.norRewrite ms ok) s = .next (kept s dead))
          ∧ (ok = true → norQuiet s = true →
            exec (.norRewrite ms ok) s = .next (kept s (raiseU 0xB006 [ms] { dropVerify written with upd.rewriteDue := none }))))))

/-- A reply to a campaign request answers it and moves its meter on as R506 lists: refused is cause 2, or 4 for the
verification; a wrong block size is cause 3; missing blocks are noted and a repaired one struck off; an activation that
did not take is cause 5; then the campaign ends if every target is final. A tariff's reply does the same with the
attribute writes of R510, the active name confirming it. A request without a reply for 256 ticks is repeated twice and
then fails with cause 1. At DEADLINE every open target fails with cause 6 and the campaign ends; at the activation time
targets not yet scheduled fail with cause 7. A block is multicast every BLOCK_TICKS on the bearers chosen, by a unit that
has the image. Outcomes are read from 900 s after activation on, as requests allow. Nothing of this happens outside
processing, for a meter with no request, or without a campaign or tariff. The model's own readings or choices that it
rests on: assumption log 48, 96. -/
def Obligations.CampaignsAndTariffs : Prop :=
  (∀ (c : Instr) (s : State), ¬ Processing s → (∃ org slot, (∃ r, c = .campaignMeterReply org slot r) ∨ (∃ r, c = .tariffMeterReply org slot r)
        ∨ c = .meterRequestTimeout org slot ∨ c = .campaignConfirm slot ∨ c = .tariffConfirm slot ∨ c = .activateAtPassed
        ∨ c = .campaignDeadline ∨ c = .campaignBlockMulticast org) → exec c s = .next s)
  ∧ (∀ (org : Org) (slot : BitVec 20) (reply : CampaignReply) (s : State), Processing s →
      takeRequest slot.toNat true s = none ∨ s.cov.upd.campaign = none → exec (.campaignMeterReply org slot reply) s = .next s)
  ∧ (∀ (org : Org) (slot : BitVec 20) (reply : CampaignReply) (s : State) (r : MeterRequest) (c : Campaign), Processing s →
      takeRequest slot.toNat true s = some r → s.cov.upd.campaign = some c →
      let k := slot.toNat
      let u := dropRequest k s
      let gives := fun t => exec (.campaignMeterReply org slot reply) s = .next (kept s (settleCampaign (Src.slot k org) t))
      (c.phase = 3 → exec (.campaignMeterReply org slot reply) s = .next u)
      ∧ (c.phase ≠ 3 →
        (r.step = .verify → reply = .refused → gives (failCamp c k 4 u))
        ∧ (r.step ≠ .verify → reply = .refused → gives (failCamp c k 2 u))
        ∧ (r.step = .initiate → reply = .done → gives (setCamp c k 1 0 0 0 u))
        ∧ (∀ n, r.step = .sizeCheck → reply = .blockSize n →
            gives (if n = c.word 6 2 then setCamp c k 2 0 0 1 u else failCamp c k 3 u))
        ∧ (∀ l, r.step = .poll → reply = .missing l →
            let lacking := l.filter fun b => decide (b < c.blockCount)
            gives (setCamp c k 2 0 lacking.length c.round { u with
              upd.missing := tput s.upd.missing k lacking,
              upd.polled := if s.upd.polled.contains k then s.upd.polled else s.upd.polled ++ [k] }))
        ∧ (∀ n, r.step = .repair n → reply = .done → gives { u with
            upd.missing := tput s.upd.missing k (((tget s.upd.missing k).getD []).filter (· != n))
            upd.polled := s.upd.polled.filter (· != k) })
        ∧ (r.step = .verify → reply = .done → gives (setCamp c k 3 0 0 c.round u))
        ∧ (r.step = .schedule → reply = .done → gives (setCamp c k 4 0 0 c.round u))
        ∧ (∀ n, r.step = .confirm → reply = .status n → gives (if n = 6 then setCamp c k 5 0 0 c.round u else failCamp c k 5 u))))
  ∧ (∀ (org : Org) (slot : BitVec 20) (reply : TariffReply) (s : State), Processing s → takeRequest slot.toNat false s = none →
      exec (.tariffMeterReply org slot reply) s = .next s)
  ∧ (∀ (org : Org) (slot : BitVec 20) (reply : TariffReply) (s : State) (r : MeterRequest), Processing s →
      takeRequest slot.toNat false s = some r →
      let k := slot.toNat
      let u := dropRequest k s
      let gives := fun t => exec (.tariffMeterReply org slot reply) s = .next (kept s (settleTariff (Src.slot k org) r.tariff t))
      (tget s.cov.upd.tariffs r.tariff = none → exec (.tariffMeterReply org slot reply) s = .next u)
      ∧ (∀ t, tget s.cov.upd.tariffs r.tariff = some t →
        (reply = .refused → gives (failTariff t k 2 u))
        ∧ (∀ a, r.step = .tariffSet a → reply = .done → a ≠ 9 → a ≠ 10 → gives { u with upd.attrs := tput s.upd.attrs (k * 4 + r.tariff) (a + 1) })
        ∧ (r.step = .tariffSet 9 → reply = .done → gives (setTariff t k 1 0 false u))
        ∧ (r.step = .tariffSet 10 → reply = .done → gives (setTariff t k 2 0 false u))
        ∧ (∀ n, r.step = .tariffConfirm → reply = .name n →
            gives (if n = slice t.item 8 (t.word 6 1) then setTariff t k 3 0 true u else failTariff t k 5 u))))
  ∧ (∀ (org : Org) (slot : BitVec 20) (s : State), Processing s →
      (∀ r, s.upd.requests.find? (·.slot == slot.toNat) = some r → s.work.log.tick.toNat < r.tick.toNat + 256) →
      exec (.meterRequestTimeout org slot) s = .next s)
  ∧ (∀ (org : Org) (slot : BitVec 20) (s : State) (r : MeterRequest), Processing s →
      s.upd.requests.find? (·.slot == slot.toNat) = some r → r.tick.toNat + 256 ≤ s.work.log.tick.toNat →
      let k := slot.toNat
      let u := dropRequest k s
      (r.silences < 2 → exec (.meterRequestTimeout org slot) s
        = .next (kept s (sendRequest { r with tick := s.work.log.tick, silences := r.silences + 1 } u)))
      ∧ (∀ c, 2 ≤ r.silences → r.tariff = 4 → s.cov.upd.campaign = some c →
          exec (.meterRequestTimeout org slot) s = .next (kept s (settleCampaign (Src.slot k org) (failCamp c k 1 u))))
      ∧ (∀ t, 2 ≤ r.silences → r.tariff ≠ 4 → tget s.cov.upd.tariffs r.tariff = some t →
          exec (.meterRequestTimeout org slot) s = .next (kept s (settleTariff (Src.slot k org) r.tariff (failTariff t k 1 u)))))
  ∧ (∀ s : State, Processing s →
      (∀ c, s.cov.upd.campaign = some c → c.phase = 3 ∨ logUtc s.work.log < (c.word 0x40 4 : Int)) → exec .campaignDeadline s = .next s)
  ∧ (∀ (c : Campaign) (s : State), Processing s → s.cov.upd.campaign = some c → c.phase ≠ 3 → (c.word 0x40 4 : Int) ≤ logUtc s.work.log →
      exec .campaignDeadline s = .next (kept s (endCampaign (Src.sweep 0)
        ((c.targets.filter fun k => !campFinal c (campState s c k)).foldl (fun s k => failCamp c k 6 s) s))))
  ∧ (∀ s : State, Processing s →
      let campaign := match s.cov.upd.campaign with
        | none => s
        | some c =>
          if c.phase ≠ 3 ∧ c.activateAt ≠ 0 ∧ (c.activateAt : Int) ≤ logUtc s.work.log then
            settleCampaign (Src.sweep 0)
              ((c.targets.filter fun k => campState s c k == 3).foldl (fun s k => failCamp c k 7 (dropRequest k s)) s)
          else s
      exec .activateAtPassed s = .next (kept s (campaign.cov.upd.tariffs.foldl (fun u p =>
        if (p.2.word 0x10 4 : Int) ≤ logUtc s.work.log then
          settleTariff (Src.sweep 0) p.1
            ((p.2.targets.filter fun k => decide (tariffState u p.2 k < 2)).foldl (fun u k => failTariff p.2 k 7 (dropRequest k u)) u)
        else u) campaign)))
  ∧ (∀ (slot : BitVec 20) (s : State), Processing s →
      let k := slot.toNat
      let ready := ∃ c, s.cov.upd.campaign = some c ∧ c.phase ≠ 3 ∧ k ∈ c.targets ∧ campState s c k = 4
        ∧ (c.activateAt : Int) + 900 ≤ logUtc s.work.log ∧ requestsLeft s ≠ 0 ∧ meterIdle s k = true
      (¬ready → exec (.campaignConfirm slot) s = .next s)
      ∧ (ready → exec (.campaignConfirm slot) s = .next (kept s (sendRequest ⟨k, .confirm, 4, s.work.log.tick, 0⟩ s))))
  ∧ (∀ (slot : BitVec 20) (s : State), Processing s →
      exec (.tariffConfirm slot) s = .next (kept s (s.cov.upd.tariffs.foldl (fun u p =>
        if slot.toNat ∈ p.2.targets ∧ tariffState u p.2 slot.toNat = 2 ∧ (p.2.word 0x10 4 : Int) + 900 ≤ logUtc u.work.log
            ∧ requestsLeft u ≠ 0 ∧ meterIdle u slot.toNat = true then
          sendRequest ⟨slot.toNat, .tariffConfirm, p.1, u.work.log.tick, 0⟩ u
        else u) s)))
  ∧ (∀ (org : Org) (s : State), Processing s →
      (∀ c, s.cov.upd.campaign = some c → c.phase ≠ 1 ∨ c.blocks[c.cursor]? = none
        ∨ s.work.log.tick.toNat < s.upd.lastBlock.toNat + cfg s 0x0B01 0 4 2 16) →
      exec (.campaignBlockMulticast org) s = .next s)
  ∧ (∀ (org : Org) (c : Campaign) (n : Nat) (s : State), Processing s → s.cov.upd.campaign = some c → c.phase = 1 →
      c.blocks[c.cursor]? = some n → s.upd.lastBlock.toNat + cfg s 0x0B01 0 4 2 16 ≤ s.work.log.tick.toNat →
      let u := putCampaign (Src.sweep 0) { c with cursor := c.cursor + 1 } { s with upd.lastBlock := s.work.log.tick }
      let pay := wrapApdu 0 (blockRequest u c n)
      let wired := if testBit (c.word 0x39 1) 0 then
          plcAddLaunch (.stripe (u.work.log.tick + 2) (cfg u 0x0102 0 2 1 0)) 0 0xFFF 0 false pay u else u
      let sent := if testBit (c.word 0x39 1) 1 then
          (List.range 4).foldl (fun t i => if c.word (0x44 + 2 * i) 2 = 0xFFFF then t
            else radioAddLaunch (tickStartNs t 2) (chanOf (c.word (0x44 + 2 * i) 2)) 0 0xFFF 0 pay t) wired
        else wired
      (s.upd.hasImage = false → exec (.campaignBlockMulticast org) s = .next (kept s u))
      ∧ (s.upd.hasImage = true → exec (.campaignBlockMulticast org) s = .next (kept s { sent with upd.multicast := sent.upd.multicast.inc })))

/-- For every list of leaf hashes and every position in it, the verifier of R273, climbing from the leaf hash with the
siblings the M20 gives, one for each of the ⌈log2 n⌉ levels, ends at MERKLE_ROOT of the list. So the leaf of a proof that
PROOF_READ takes from a seal's records and events, hashed by its kind, leads to the root of those leaves: the record with
its payload's digest where one is present, or the event record. -/
def Obligations.InclusionProofsVerify : Prop :=
  (∀ (leaves : List Bytes) (i : Nat) (h : Bytes), leaves[i]? = some h →
    let d := depthOf leaves.length
    let sib := siblings d (paddedLeaves leaves) i
    climb sib i h = merkleRoot leaves ∧ sib.length = d ∧ leaves.length ≤ 2 ^ d ∧ 2 ^ d < 2 * leaves.length)
  ∧ (∀ (s : State) (x : SealSlot) (recs : List Record) (i : Nat) (leaf : Bytes × Option Bytes × List Bytes),
    sealRecords s x = some recs →
    let root := merkleRoot (recs.map Record.leaf ++ x.events.map eventLeaf)
    (proofLeaf s 0 x i = some leaf →
      climb leaf.2.2 i (sha256 ([0] ++ leaf.1 ++ leaf.2.1.getD [])) = root)
    ∧ (proofLeaf s 1 x i = some leaf → climb leaf.2.2 i (sha256 ([2] ++ leaf.1)) = root))

/-- A LENS_CLEAR has the layout that R465 checks exactly when its body holds 8 bytes. One that passes the checks in any
life-cycle state but FIELD is answered DENIED: the denial is an event and is counted, the reply is held for repeats and
sent, and the recorder and its claim to be cleared stay as they were. -/
def Obligations.LensClearNeedsField : Prop :=
  (∀ body : List Byte, layoutOk 0x1A body = true ↔ body.length = 8)
  ∧ (∀ (m : Msg) (x : Session) (s : State), Passes 0x1A 6 m x s → lifeState (asSealed s) ≠ .field →
    ∃ t, exec (.lensClear m) s = .next (kept s (answered 0x1A m ⟨4, 0, 0, []⟩ t))
      ∧ t = tookUp m s ∧ (answered 0x1A m ⟨4, 0, 0, []⟩ t).bey.clear = s.bey.clear
      ∧ (answered 0x1A m ⟨4, 0, 0, []⟩ t).bey.denied = s.bey.denied.inc
      ∧ (answered 0x1A m ⟨4, 0, 0, []⟩ t).recorder = s.recorder)

/-- Once the outputs have settled, a unit in reset, held by PFAIL_N or dead holds every output at high impedance; a halted
unit parks the QSPI balls and holds the rest at high impedance; a unit that waits for its peer or before its first tick
holds line-facing and other outputs inactive and the transmit outputs at common mode; a running single unit or primary
drives every output as its function; a running mirror only those that are not line-facing; and after last gasp or in the
pause of an activation the line-facing outputs are inactive. -/
def Obligations.OutputsFollowTheMode : Prop :=
  ∀ s : State,
    let pins := (settlePins s).sys.pins
    (s.sys.mode = .inReset ∨ s.sys.mode = .pfailHeld ∨ s.sys.mode = .dead → pins = ⟨.hiz, .hiz, .hiz, .hiz, false⟩)
    ∧ (s.sys.mode = .halted → pins = ⟨.parked, .hiz, .hiz, .hiz, false⟩)
    ∧ (s.sys.mode = .waiting → pins = ⟨.asFunction, .inactive, .inactive, .commonMode, false⟩)
    ∧ (s.sys.mode = .gaspDone ∨ s.sys.mode = .pause → pins = ⟨.asFunction, .inactive, .asFunction, .commonMode, s.store.writeProtect⟩)
    ∧ (s.sys.mode = .running → s.cap.isOn = true → s.twin.role = .single ∨ s.twin.role = .primary →
        pins = ⟨.asFunction, .asFunction, .asFunction, .asFunction, false⟩)
    ∧ (s.sys.mode = .running → s.twin.role = .mirror → pins = ⟨.asFunction, .inactive, .asFunction, .commonMode, false⟩)
    ∧ (s.sys.mode = .running → s.cap.isOn = false → s.twin.role ≠ .mirror → s.sys.firstTick = true →
        pins = ⟨.asFunction, .inactive, .inactive, .commonMode, false⟩)
    ∧ (∃ p, settlePins s = { s with sys.pins := p })

/-- Right after reset the unit is in reset with every output at high impedance, nothing waits in its queue and nothing has
left it; every endpoint slot reads as 16 zero bytes, which is FREE; there is no session, subscription, staging set,
pending set, key slot, seal or stored record; and every count that a read clears is zero. The model's own readings or
choices that it rests on: assumption log 2, 3, 34, 104. -/
def Obligations.ResetState : Prop :=
  State.reset.sys.mode = .inReset ∧ State.reset.sys.pins = ⟨.hiz, .hiz, .hiz, .hiz, false⟩ ∧ State.reset.pending = [] ∧ State.reset.out = []
  ∧ (∀ slot, endpoint State.reset slot = Endpoint.blank) ∧ Endpoint.blank.bytes = zeros 16 ∧ Endpoint.blank.state = .free
  ∧ State.reset.bey.sessions = [] ∧ State.reset.bey.dtls = [] ∧ State.reset.bey.staging = [] ∧ State.reset.cov.sys.sets = []
  ∧ State.reset.cov.keys.slots = [] ∧ State.reset.store.seals = [] ∧ State.reset.store.records = [] ∧ State.reset.seals = []
  ∧ (∀ f ∈ rcFields, f.get State.reset = 0)

/-- Every RC field lies within one aligned word of the 24-bit observation space, and no two share a bit. For every RC
field and every state, once a read has cleared the field it reads zero. -/
def Obligations.ReadsClearTheirFields : Prop :=
  (∀ f ∈ rcFields, f.addr % 4 = 0 ∧ f.addr < 2 ^ 24 ∧ 1 ≤ f.width ∧ f.lo + f.width ≤ 32)
  ∧ rcFields.Pairwise (fun f g => f.addr ≠ g.addr ∨ f.lo + f.width ≤ g.lo ∨ g.lo + g.width ≤ f.lo)
  ∧ (∀ f ∈ rcFields, ∀ s : State, f.get (f.clear s) = 0)
end

