-- ==== Sys2Proof/Laws/Frames.lean ====
section
/-!
SUPPORT. What the hardware's own operations leave alone: one lemma for each, cited in place of unfolding it.
-/
namespace Sys2Proof.Machine

open Sys2Proof

/-- The system block, the twin, the capture and the work in progress are those of `s`, and a start is in its first processing or not as it was. -/
structure SameCore (s t : State) : Prop where
  sys  : t.sys = s.sys
  twin : t.twin = s.twin
  cap  : t.cap = s.cap
  work : t.work = s.work
  start : t.keys.starting = s.keys.starting

theorem SameCore.refl (s : State) : SameCore s s := ⟨rfl, rfl, rfl, rfl, rfl⟩

theorem SameCore.trans {s t u : State} (h : SameCore s t) (k : SameCore t u) : SameCore s u :=
  ⟨k.sys.trans h.sys, k.twin.trans h.twin, k.cap.trans h.cap, k.work.trans h.work, k.start.trans h.start⟩

theorem foldl_same {α : Type} (f : State → α → State) (h : ∀ s a, SameCore s (f s a)) (l : List α) (s : State) :
    SameCore s (l.foldl f s) := by
  induction l generalizing s with
  | nil => exact .refl s
  | cons a l ih => exact (h s a).trans (ih _)

theorem raiseU_same (code : Nat) (ps : List Nat) (s : State) : SameCore s (raiseU code ps s) := by
  unfold raiseU; simp only []; split <;> exact ⟨rfl, rfl, rfl, rfl, rfl⟩

theorem emit_same (e : Emission) (s : State) : SameCore s (emit e s) := ⟨rfl, rfl, rfl, rfl, rfl⟩

theorem putFaultLink_same (k : Nat) (l : FaultLink) (s : State) : SameCore s (putFaultLink k l s) := ⟨rfl, rfl, rfl, rfl, rfl⟩

theorem injectFault_same (k : Nat) (rx failed : Bool) (s : State) : SameCore s (injectFault k rx failed s).2 := by
  unfold injectFault; simp only []; repeat' split
  all_goals exact ⟨rfl, rfl, rfl, rfl, rfl⟩

theorem serialOut_same (b : Bool) (f : Bytes) (s : State) : SameCore s (serialOut b f s) := by
  unfold serialOut
  have h := injectFault_same (if b then 7 else 6) false false s
  split <;> rename_i e <;> rw [e] at h
  · exact h
  · exact h.trans (emit_same _ _)
  · exact h.trans (emit_same _ _)

theorem ethernetOut_same (p : Nat) (e : Emission) (s : State) : SameCore s (ethernetOut p e s) := by
  unfold ethernetOut
  have h := injectFault_same (0x10 + p) false false s
  split <;> rename_i e <;> rw [e] at h
  · exact h
  · exact h
  · exact h.trans (emit_same _ _)

theorem modPhase_same (p : Nat) (f : PhaseState → PhaseState) (s : State) : SameCore s (modPhase p f s) := ⟨rfl, rfl, rfl, rfl, rfl⟩

theorem setClock_same (t : Int) (s : State) : SameCore s (setClock t s) := ⟨rfl, rfl, rfl, rfl, rfl⟩

theorem servoTo_same (v : Servo) (s : State) : SameCore s (servoTo v s) := by
  unfold servoTo; split
  · exact .refl s
  · exact ⟨(raiseU_same _ _ _).sys, (raiseU_same _ _ _).twin, (raiseU_same _ _ _).cap, (raiseU_same _ _ _).work, (raiseU_same _ _ _).start⟩

theorem ptpRestart_same (s : State) : SameCore s (ptpRestart s) :=
  ⟨(servoTo_same _ _).sys, (servoTo_same _ _).twin, (servoTo_same _ _).cap, (servoTo_same _ _).work, (servoTo_same _ _).start⟩

theorem ptpSwitch_same (old : Tab Bytes) (s : State) : SameCore s (ptpSwitch old s) := by
  unfold ptpSwitch; simp only []; split
  · exact ptpRestart_same s
  · exact .refl s

theorem leapWindow_same (s : State) : SameCore s (leapWindow s) := by
  unfold leapWindow; split <;> exact ⟨rfl, rfl, rfl, rfl, rfl⟩

theorem loadHardware_same (t : Nat) (s : State) : SameCore s (loadHardware t s) := ⟨rfl, rfl, rfl, rfl, rfl⟩

theorem remask_same (k : Nat) (s : State) : SameCore s (remask k s) := by
  unfold remask
  split
  · exact .refl s
  · split <;> exact ⟨rfl, rfl, rfl, rfl, rfl⟩

theorem zeroise_same (s : State) : SameCore s (zeroise s) := by
  unfold zeroise makeEphemeral; simp only []; split <;> exact ⟨rfl, rfl, rfl, rfl, rfl⟩

theorem loadPublic_same (s : State) : SameCore s (loadPublic s) :=
  foldl_same _ (fun st p => by simp only []; split <;> exact ⟨rfl, rfl, rfl, rfl, rfl⟩) _ s

theorem keysBoundary_same (t : Nat) (s : State) : SameCore s (keysBoundary t s) := by
  unfold keysBoundary
  have h := (remask_same (2 * (t % 4096)) s).trans (remask_same (2 * (t % 4096) + 1) _)
  generalize remask _ (remask _ s) = u at h
  simp only []
  have g : SameCore s (if u.keys.zeroiseDue then zeroise u else u) := by
    split
    · exact h.trans (zeroise_same u)
    · exact h
  generalize (if u.keys.zeroiseDue then zeroise u else u) = v at g ⊢
  split
  · exact g
  · exact g.trans ⟨(loadPublic_same _).sys, (loadPublic_same _).twin, (loadPublic_same _).cap, (loadPublic_same _).work, (loadPublic_same _).start⟩

theorem armUntil_same (n : Nat) (s : State) : SameCore s (armUntil n s) := by
  unfold armUntil
  simp only []
  have key : ∀ (f : State → ArmWindow → State) (l : List ArmWindow) (u : State), (∀ s w, SameCore s (f s w)) →
      SameCore s u → SameCore s { (l.foldl f u) with radio.held := ((l.foldl f u).radio.held.map fun x =>
        if x.any (fun w => decide (w.closeNs < n)) then none else x) } := by
    intro f l u hf hu
    have := hu.trans (foldl_same f hf l u)
    exact ⟨this.sys, this.twin, this.cap, this.work, this.start⟩
  apply key
  · intro s w; split <;> exact ⟨rfl, rfl, rfl, rfl, rfl⟩
  · exact ⟨rfl, rfl, rfl, rfl, rfl⟩

theorem radioBoundary_same (old : Tab LinkEntry) (n : Nat) (s : State) : SameCore s (radioBoundary old n s) := by
  have h := armUntil_same n s
  exact ⟨h.sys, h.twin, h.cap, h.work, h.start⟩

theorem testRefusals_same (s : State) : SameCore s (testRefusals s) := by
  have h := foldl_same (fun (s : State) (m : Nat) => raiseU 0xF002 [m, (hwLifeState s).code] s) (fun s m => raiseU_same _ _ s)
    ((refusedModes s).filter fun m => !s.test.refused.contains m) s
  exact ⟨h.sys, h.twin, h.cap, h.work, h.start⟩

theorem predictTick_same (f : Int) (s : State) : SameCore s (predictTick f s) := ⟨rfl, rfl, rfl, rfl, rfl⟩

theorem startLedgers_same (n : Nat) (s : State) : SameCore s (startLedgers n s) := by
  have h : SameCore s (chargeWindow s) := foldl_same _ (fun s p => modPhase_same _ _ s) _ s
  exact ⟨h.sys, h.twin, h.cap, h.work, h.start⟩

/-! ### Inputs of a unit without a partner -/

/-- What a unit without a partner keeps while inputs enter its log. -/
structure Gains (s t : State) : Prop where
  twin    : t.twin = s.twin
  work    : t.work = s.work
  keys    : t.keys = s.keys
  cov     : t.cov = s.cov
  upd     : t.upd = s.upd
  mode    : t.sys.mode = s.sys.mode
  first   : t.sys.firstTick = s.sys.firstTick
  tick    : t.cap.tick = s.cap.tick
  isOn    : t.cap.isOn = s.cap.isOn
  logTick : t.cap.log.tick = s.cap.log.tick
  lock    : t.cap.log.curLock = s.cap.log.curLock
  frozen  : t.cap.frozen = s.cap.frozen

theorem Gains.refl (s : State) : Gains s s := ⟨rfl, rfl, rfl, rfl, rfl, rfl, rfl, rfl, rfl, rfl, rfl, rfl⟩

theorem Gains.trans {s t u : State} (h : Gains s t) (k : Gains t u) : Gains s u :=
  ⟨k.twin.trans h.twin, k.work.trans h.work, k.keys.trans h.keys, k.cov.trans h.cov, k.upd.trans h.upd, k.mode.trans h.mode,
    k.first.trans h.first, k.tick.trans h.tick, k.isOn.trans h.isOn, k.logTick.trans h.logTick, k.lock.trans h.lock,
    k.frozen.trans h.frozen⟩

/-- The log's entries stand, with more behind them. -/
def Extends (s t : State) : Prop := ∃ l, t.cap.log.entries = s.cap.log.entries ++ l

theorem Extends.refl (s : State) : Extends s s := ⟨[], by simp⟩

theorem Extends.trans {s t u : State} (h : Extends s t) (k : Extends t u) : Extends s u := by
  obtain ⟨a, ha⟩ := h; obtain ⟨b, hb⟩ := k
  exact ⟨a ++ b, by rw [hb, ha, List.append_assoc]⟩

/-- What an input's way into the log does on a unit without a partner. -/
def Enters (s t : State) : Prop := s.twin.role = .single → Gains s t ∧ Extends s t

theorem Enters.trans {s t u : State} (h : Enters s t) (k : Enters t u) : Enters s u := fun hr =>
  have a := h hr
  have b := k (by rw [a.1.twin]; exact hr)
  ⟨a.1.trans b.1, a.2.trans b.2⟩

theorem foldl_enters {α : Type} (f : State → α → State) (h : ∀ s a, Enters s (f s a)) (l : List α) (s : State) :
    Enters s (l.foldl f s) := by
  induction l generalizing s with
  | nil => exact fun _ => ⟨.refl s, .refl s⟩
  | cons a l ih => exact (h s a).trans (ih _)

theorem shipLog_single (b : Bool) (s : State) (h : s.twin.role = .single) : shipLog b s = s := by
  unfold shipLog; rw [if_pos (by rw [h]; decide)]

theorem enterLog_single (e : LogEntry) (s : State) (h : s.twin.role = .single) :
    enterLog e s = { s with cap.log.entries := s.cap.log.entries ++ [e] } :=
  shipLog_single false { s with cap.log.entries := s.cap.log.entries ++ [e] } h

theorem enterLog_enters (e : LogEntry) (s : State) : Enters s (enterLog e s) := by
  intro h
  rw [enterLog_single e s h]
  exact ⟨⟨rfl, rfl, rfl, rfl, rfl, rfl, rfl, rfl, rfl, rfl, rfl, rfl⟩, ⟨[e], rfl⟩⟩

theorem placeInput_enters (e : LogEntry) (s : State) : Enters s (placeInput e s) := by
  unfold placeInput
  split
  · exact enterLog_enters e s
  · split <;> exact fun _ => ⟨⟨rfl, rfl, rfl, rfl, rfl, rfl, rfl, rfl, rfl, rfl, rfl, rfl⟩, ⟨[], by simp⟩⟩

theorem takeDeferred_enters (s : State) : Enters s (takeDeferred s) := by
  intro h
  unfold takeDeferred
  split
  · split
    · rw [enterLog_single _ _ (by exact h)]
      exact ⟨⟨rfl, rfl, rfl, rfl, rfl, rfl, rfl, rfl, rfl, rfl, rfl, rfl⟩, ⟨_, rfl⟩⟩
    · exact ⟨⟨rfl, rfl, rfl, rfl, rfl, rfl, rfl, rfl, rfl, rfl, rfl, rfl⟩, ⟨[], by simp⟩⟩
  · exact ⟨⟨rfl, rfl, rfl, rfl, rfl, rfl, rfl, rfl, rfl, rfl, rfl, rfl⟩, ⟨[], by simp⟩⟩

theorem takeDeferredAll_enters (n : Nat) (s : State) : Enters s (takeDeferredAll n s) := by
  induction n generalizing s with
  | zero => exact fun _ => ⟨.refl s, .refl s⟩
  | succ n ih => exact (takeDeferred_enters s).trans (ih _)

theorem placeReleased_enters (s : State) : Enters s (placeReleased s) := by
  have h : Enters s { s with cap.released := [] } :=
    fun _ => ⟨⟨rfl, rfl, rfl, rfl, rfl, rfl, rfl, rfl, rfl, rfl, rfl, rfl⟩, ⟨[], by simp⟩⟩
  exact h.trans (foldl_enters _ (fun s e => placeInput_enters e s) _ _)

theorem placeReports_enters (s : State) : Enters s (placeReports s) := by
  have h : Enters s { s with cap.reports := [] } :=
    fun _ => ⟨⟨rfl, rfl, rfl, rfl, rfl, rfl, rfl, rfl, rfl, rfl, rfl, rfl⟩, ⟨[], by simp⟩⟩
  exact h.trans (foldl_enters _ (fun s e => placeInput_enters e s) _ _)

theorem settleLog_enters (s : State) : Enters s (settleLog s) :=
  (takeDeferredAll_enters _ s).trans ((placeReleased_enters _).trans (placeReports_enters _))

theorem appendInput_enters (e : LogEntry) (s : State) : Enters s (appendInput e s) :=
  (settleLog_enters s).trans (placeInput_enters e _)

theorem settleAtOnce_enters (s : State) : Enters s (settleAtOnce s) := by
  intro h
  unfold settleAtOnce; rw [shipLog_single _ _ h]
  simp only []
  split
  · exact settleLog_enters s h
  · exact ⟨.refl s, .refl s⟩

/-- A capture's entry may be rewritten in place, so that only what `Gains` names stays. -/
theorem closeCaptures_gains (b : Stamp) (s : State) (h : s.twin.role = .single) : Gains s (closeCaptures b s) := by
  unfold closeCaptures
  generalize List.range 4 = l
  induction l generalizing s with
  | nil => exact .refl s
  | cons n l ih =>
    have one : Gains s (setPin n { pinInput s n with entry := none, seen := (pinInput s n).active }
        (match (pinInput s n).entry with
          | some c => updateCapture n (pinInput s n).active c s
          | none =>
            if (pinInput s n).active && captureOn s n then
              appendInput ⟨0, 4, BitVec.ofNat 32 (stampNs b % 2 ^ 32), captureBytes n true ⟨⟨0, 0, 0⟩, 0⟩, none⟩ s
            else s)) := by
      split
      · exact ⟨rfl, rfl, rfl, rfl, rfl, rfl, rfl, rfl, rfl, rfl, rfl, rfl⟩
      · split
        · have g := (appendInput_enters ⟨0, 4, BitVec.ofNat 32 (stampNs b % 2 ^ 32), captureBytes n true ⟨⟨0, 0, 0⟩, 0⟩, none⟩ s h).1
          exact ⟨g.twin, g.work, g.keys, g.cov, g.upd, g.mode, g.first, g.tick, g.isOn, g.logTick, g.lock, g.frozen⟩
        · exact ⟨rfl, rfl, rfl, rfl, rfl, rfl, rfl, rfl, rfl, rfl, rfl, rfl⟩
    rw [List.foldl_cons]
    exact one.trans (ih _ (by rw [one.twin]; exact h))

/-! ### The new tick -/

/-- As `SameCore`, the frames released from reorder apart. -/
structure SameButReleased (s t : State) : Prop where
  sys   : t.sys = s.sys
  twin  : t.twin = s.twin
  cap   : { t.cap with released := [] } = { s.cap with released := [] }
  work  : t.work = s.work
  start : t.keys.starting = s.keys.starting

theorem SameCore.but {s t : State} (h : SameCore s t) : SameButReleased s t :=
  ⟨h.sys, h.twin, by rw [h.cap], h.work, h.start⟩

theorem SameButReleased.trans {s t u : State} (h : SameButReleased s t) (k : SameButReleased t u) : SameButReleased s u :=
  ⟨k.sys.trans h.sys, k.twin.trans h.twin, k.cap.trans h.cap, k.work.trans h.work, k.start.trans h.start⟩

theorem faultBoundary_same (tick : Nat) (s : State) : SameButReleased s (faultBoundary tick s) := by
  unfold faultBoundary
  simp only []
  have h : ∀ r, SameButReleased s { s with cap.released := r } := fun _ => ⟨rfl, rfl, rfl, rfl, rfl⟩
  exact (h _).trans (foldl_same _ (fun s k => putFaultLink_same k _ s) _ _).but

theorem tickClock_same (b : BoundaryIn) (r : Tab Bytes) (s : State) : SameCore s (tickClock b r s) :=
  ⟨rfl, rfl, rfl, rfl, rfl⟩

theorem tickHardware_same (b : BoundaryIn) (tick : BitVec 48) (r : Tab Bytes) (l : Tab LinkEntry) (s : State) :
    SameButReleased s (tickHardware b tick r l s) := by
  show SameButReleased s (predictTick b.fitNs (testRefusals (faultBoundary tick.toNat (radioBoundary l (stampNs b.stamp)
    (modPhase 3 PhaseState.newTick (modPhase 2 PhaseState.newTick (modPhase 1 PhaseState.newTick
      (keysBoundary (tick.toNat - 1) (ptpSwitch r (leapWindow (tickClock b r s)))))))))))
  have h := (((tickClock_same b r s).trans (leapWindow_same _)).trans (ptpSwitch_same r _)).trans
    (keysBoundary_same (tick.toNat - 1) _)
  generalize keysBoundary (tick.toNat - 1) _ = u at h ⊢
  have k := ((h.trans (modPhase_same 1 PhaseState.newTick _)).trans (modPhase_same 2 PhaseState.newTick _)).trans
    (modPhase_same 3 PhaseState.newTick _)
  generalize modPhase 3 PhaseState.newTick _ = v at k ⊢
  have m := ((k.trans (radioBoundary_same l (stampNs b.stamp) v)).but).trans (faultBoundary_same tick.toNat _)
  generalize faultBoundary tick.toNat _ = w at m ⊢
  exact m.trans ((testRefusals_same w).trans (predictTick_same b.fitNs _)).but

/-- A new tick leaves the system block, the twin and the work alone. -/
theorem newTick_sys (b : BoundaryIn) (tick : BitVec 48) (s : State) : (newTick b tick s).sys = s.sys :=
  (tickHardware_same b tick _ _ _).sys
theorem newTick_twin (b : BoundaryIn) (tick : BitVec 48) (s : State) : (newTick b tick s).twin = s.twin :=
  (tickHardware_same b tick _ _ _).twin
theorem newTick_work (b : BoundaryIn) (tick : BitVec 48) (s : State) : (newTick b tick s).work = s.work :=
  (tickHardware_same b tick _ _ _).work
theorem newTick_starting (b : BoundaryIn) (tick : BitVec 48) (s : State) :
    (newTick b tick s).keys.starting = s.keys.starting := (tickHardware_same b tick _ _ _).start

/-- A new tick opens a log of its own with its tick-start entry alone. -/
theorem newTick_cap (b : BoundaryIn) (tick : BitVec 48) (s : State) :
    (newTick b tick s).cap.tick = tick ∧ (newTick b tick s).cap.isOn = s.cap.isOn
      ∧ (newTick b tick s).cap.frozen = s.cap.frozen ∧ (newTick b tick s).cap.log.tick = tick
      ∧ ∃ sync, (newTick b tick s).cap.log.entries =
          [⟨0, 0, b.stamp.ns, tickStart tick s.cap.log.curLock b.lengthNs b.stamp sync, none⟩] := by
  have h := (tickHardware_same b tick s.hw.records s.hw.links
    (openLog b tick s.hw.records (loadHardware (tick.toNat - 1) s))).cap
  have g : ∀ {α : Type} (f : CaptureBlock → α), (∀ c, f { c with released := [] } = f c) →
      f (newTick b tick s).cap = f (openLog b tick s.hw.records (loadHardware (tick.toNat - 1) s)).cap := by
    intro α f hf
    have := congrArg f h
    rwa [hf, hf] at this
  exact ⟨g (·.tick) fun _ => rfl, g (·.isOn) fun _ => rfl, g (·.frozen) fun _ => rfl, g (·.log.tick) fun _ => rfl,
    _, g (·.log.entries) fun _ => rfl⟩

/-! ### The opening of a processing -/

/-- Work goes on: what events and changes leave alone. -/
structure Works (s t : State) : Prop where
  sys   : t.sys.mode = s.sys.mode
  twin  : t.twin = s.twin
  cap   : t.cap = s.cap
  isOpen  : t.work.isOpen = s.work.isOpen
  log   : t.work.log = s.work.log
  start : t.keys.starting = s.keys.starting

theorem Works.refl (s : State) : Works s s := ⟨rfl, rfl, rfl, rfl, rfl, rfl⟩

theorem Works.trans {s t u : State} (h : Works s t) (k : Works t u) : Works s u :=
  ⟨k.sys.trans h.sys, k.twin.trans h.twin, k.cap.trans h.cap, k.isOpen.trans h.isOpen, k.log.trans h.log,
    k.start.trans h.start⟩

theorem foldl_works {α : Type} (f : State → α → State) (h : ∀ s a, Works s (f s a)) (l : List α) (s : State) :
    Works s (l.foldl f s) := by
  induction l generalizing s with
  | nil => exact .refl s
  | cons a l ih => exact (h s a).trans (ih _)

theorem raise_works (src : Src) (code : Nat) (ps : List Nat) (s : State) : Works s (raise src code ps s) :=
  ⟨rfl, rfl, rfl, rfl, rfl, rfl⟩

theorem change_works (src : Src) (block kind index : Nat) (v : Bytes) (s : State) : Works s (change src block kind index v s) :=
  ⟨rfl, rfl, rfl, rfl, rfl, rfl⟩

theorem putLc_works (src : Src) (r : LcRecord) (s : State) : Works s (putLc src r s) := by
  unfold putLc; split <;> exact ⟨rfl, rfl, rfl, rfl, rfl, rfl⟩

theorem lockEvents_works (s : State) : Works s (lockEvents s) := by
  unfold lockEvents drawWord; simp only []
  repeat' split
  all_goals exact ⟨rfl, rfl, rfl, rfl, rfl, rfl⟩

theorem openingEvents_works (s : State) : Works s (openingEvents s) := by
  have h1 : Works s (restartEvents s) := by
    unfold restartEvents; split
    · exact ⟨rfl, rfl, rfl, rfl, rfl, rfl⟩
    · split <;> exact ⟨rfl, rfl, rfl, rfl, rfl, rfl⟩
  have h2 : ∀ s, Works s (gaspEvents s) := fun s => by unfold gaspEvents; split <;> exact ⟨rfl, rfl, rfl, rfl, rfl, rfl⟩
  have h3 : ∀ s, Works s (termEvents s) := fun s => by unfold termEvents; split <;> exact ⟨rfl, rfl, rfl, rfl, rfl, rfl⟩
  have h4 : ∀ s, Works s (notedEvents s) := fun s => foldl_works _ (fun s e => raise_works _ _ _ s) _ s
  have h5 : ∀ s, Works s (syncEvents s) := fun s => by
    unfold syncEvents; simp only []; split <;> exact ⟨rfl, rfl, rfl, rfl, rfl, rfl⟩
  exact ((((h1.trans (h2 _)).trans (h3 _)).trans (h4 _)).trans (lockEvents_works _)).trans (h5 _)

theorem lcCatchUp_works (s : State) : Works s (lcCatchUp s) := by
  unfold lcCatchUp
  simp only []
  have key : ∀ (l : List Nat) (v : State), Works s v →
      Works s { l.foldl (fun st n => raise Src.image 0x8009 [n] st) v with keys.burnCause := [] } := by
    intro l v hv
    have h := hv.trans (foldl_works (fun st n => raise Src.image 0x8009 [n] st) (fun s n => raise_works _ _ _ s) l v)
    exact ⟨h.sys, h.twin, h.cap, h.isOpen, h.log, h.start⟩
  apply key
  split
  · exact putLc_works _ _ s
  · exact (putLc_works _ _ s).trans (raise_works _ _ _ _)

/-- A processing that is not the first after a start opens on its log. -/
theorem openWork_works (l : InputLog) (s : State) (h : s.keys.starting = false) :
    (openWork l s).sys.mode = s.sys.mode ∧ (openWork l s).twin = s.twin ∧ (openWork l s).cap = s.cap
      ∧ (openWork l s).work.isOpen = true ∧ (openWork l s).work.log = l := by
  let s0 : State := { s with work := Work.on l, tstat.floods := 0,
                             sys.answer := if s.sys.genesis then none else s.sys.prevSeal.map (·.1) }
  have w : Works s0 (lcCatchUp (openingEvents s0)) := (openingEvents_works s0).trans (lcCatchUp_works _)
  have e : openWork l s = lcCatchUp (openingEvents s0) := by
    show (if (lcCatchUp (openingEvents s0)).keys.starting = true then _ else _) = _
    rw [if_neg (by rw [w.start]; show ¬ s.keys.starting = true; rw [h]; decide)]
  rw [e]
  exact ⟨w.sys, w.twin, w.cap, w.isOpen, w.log⟩

end Sys2Proof.Machine
end

