-- ==== Sys2Proof/Laws/Powerline.lean ====
section
/-!
SUPPORT. What the powerline's own operations change: the counters and statistics of the three phases, and nothing else.
-/
namespace Sys2Proof.Machine

open Sys2Proof

theorem foldl_inv {α β : Type} (P : β → Prop) (f : β → α → β) (h : ∀ b a, P b → P (f b a)) (l : List α) (b : β) (hb : P b) :
    P (l.foldl f b) := by
  induction l generalizing b with
  | nil => exact hb
  | cons a l ih => exact ih _ (h b a hb)

/-- Only the phases' own states differ. -/
def OnlyPhases (s t : State) : Prop := ∃ a b c, t = { s with plc.l1 := a, plc.l2 := b, plc.l3 := c }

theorem OnlyPhases.refl (s : State) : OnlyPhases s s := ⟨_, _, _, rfl⟩

theorem OnlyPhases.trans {s t u : State} (h : OnlyPhases s t) (k : OnlyPhases t u) : OnlyPhases s u := by
  obtain ⟨_, _, _, rfl⟩ := h; obtain ⟨_, _, _, rfl⟩ := k
  exact ⟨_, _, _, rfl⟩

theorem modPhase_phases (p : Nat) (f : PhaseState → PhaseState) (s : State) : OnlyPhases s (modPhase p f s) := by
  unfold modPhase Plc.setPhase
  split
  · exact ⟨_, _, _, rfl⟩
  · split <;> exact ⟨_, _, _, rfl⟩

theorem blankAll_phases (st i : Nat) (p : PpduIn) (s : State) : OnlyPhases s (blankAll st i p s).2 := by
  unfold blankAll
  refine foldl_inv (fun a : Nat × State => OnlyPhases s a.2) _ ?_ _ _ (OnlyPhases.refl s)
  intro a ph h
  simp only []
  split
  · exact h
  · exact h.trans (modPhase_phases _ _ _)

theorem blankPpdu_phases (p : PpduIn) (s : State) : OnlyPhases s (blankPpdu p s).2.2 := by
  unfold blankPpdu
  refine foldl_inv (fun a : Nat × Nat × State => OnlyPhases s a.2.2) _ ?_ _ _ (OnlyPhases.refl s)
  intro a i h
  exact h.trans (blankAll_phases _ _ _ _)

theorem chargePpdu_phases (n : Nat) (pr : Projection) (s : State) : OnlyPhases s (chargePpdu n pr s) := by
  unfold chargePpdu
  refine foldl_inv (fun u : State => OnlyPhases s u) _ ?_ _ _ (OnlyPhases.refl s)
  intro a i h
  simp only []
  split
  · exact h
  · exact h.trans (modPhase_phases _ _ _)

theorem countPpdu_phases (p : PpduIn) (u : MapUse) (c : Byte) (s : State) : OnlyPhases s (countPpdu p u c s) :=
  modPhase_phases _ _ s

/-- An acknowledgement leaves the part or is withheld. -/
theorem ackPpdu_frame (p : PpduIn) (ok : Bool) (s : State) :
    (ackPpdu p ok s).cap = s.cap ∧ (ackPpdu p ok s).plc.reception = s.plc.reception := by
  unfold ackPpdu
  split
  · simp only [plcAck]
    split
    · exact ⟨rfl, rfl⟩
    · obtain ⟨a, b, c, h⟩ := chargePpdu_phases (intoTick s p.arrival + 106666 + 1920000 + 480000 * ppduSymbols p + 240000)
        (robustProjection (linkWeights s p.fc.link.toNat) 0 0) s
      constructor
      · show (chargePpdu _ _ s).cap = _; rw [h]
      · show (chargePpdu _ _ s).plc.reception = _; rw [h]
  · exact ⟨rfl, rfl⟩

end Sys2Proof.Machine
end

