-- ==== Sys2Proof/Laws/Radio.lean ====
section
/-!
SUPPORT. What the radio's own operations change: the radio block, and of it neither the chains nor the queue.
-/
namespace Sys2Proof.Machine

open Sys2Proof

/-- Only the radio block differs, its chains and queue apart. -/
structure OnlyRadio (s t : State) : Prop where
  rest   : t = { s with radio := t.radio }
  chain0 : t.radio.chain0 = s.radio.chain0
  chain1 : t.radio.chain1 = s.radio.chain1
  queue  : t.radio.queue = s.radio.queue

theorem OnlyRadio.refl (s : State) : OnlyRadio s s := ⟨rfl, rfl, rfl, rfl⟩

theorem OnlyRadio.trans {s t u : State} (h : OnlyRadio s t) (k : OnlyRadio t u) : OnlyRadio s u :=
  ⟨by rw [k.rest, h.rest], k.chain0.trans h.chain0, k.chain1.trans h.chain1, k.queue.trans h.queue⟩

theorem hwCharge_radio (c : Chan) (a u : Nat) (s : State) : OnlyRadio s (hwCharge c a u s) := by
  unfold hwCharge; split <;> exact ⟨rfl, rfl, rfl, rfl⟩

theorem preemptContexts_radio (c : Chan) (s : State) : OnlyRadio s (preemptContexts c s) := by
  unfold preemptContexts
  refine foldl_inv (fun u : State => OnlyRadio s u) _ ?_ _ _ (OnlyRadio.refl s)
  intro u x h
  simp only []
  split
  · exact h
  · split <;> exact h.trans ⟨rfl, rfl, rfl, rfl⟩

theorem countRadio_radio (v : RadioVerdict) (s : State) : OnlyRadio s (countRadio v s) := by
  unfold countRadio
  simp only []
  repeat' split
  all_goals exact ⟨rfl, rfl, rfl, rfl⟩

theorem filterTakes_radio (f : RadioIn) (v : RadioVerdict) (s : State) : OnlyRadio s (filterTakes f v s) := by
  unfold filterTakes; repeat' split
  all_goals exact ⟨rfl, rfl, rfl, rfl⟩

theorem mailboxReady_radio (k : RadioCtx) (v : RadioVerdict) (s : State) : OnlyRadio s (mailboxReady k v s) := by
  unfold mailboxReady; repeat' split
  all_goals exact ⟨rfl, rfl, rfl, rfl⟩

/-- A hardware acknowledgement changes the radio block and emits one frame. -/
theorem radioAck_frame (f : RadioIn) (k : RadioCtx) (v : RadioVerdict) (s : State) :
    ∃ p bytes, (radioAck f k v s).cap = s.cap ∧ (radioAck f k v s).out = s.out ++ [.radio p k.chan bytes] := by
  unfold radioAck
  simp only []
  have a : OnlyRadio s { s with radio.acksSent := s.radio.acksSent.inc, radio.tick.txed := true,
                                radio.hwDup := if v.cls = .retransmission then s.radio.hwDup.inc else s.radio.hwDup } :=
    ⟨rfl, rfl, rfl, rfl⟩
  have h := (((a.trans (filterTakes_radio f v _)).trans (mailboxReady_radio k v _)).trans
    (hwCharge_radio k.chan (v.endNs + 1000000) v.ackUs _)).trans (preemptContexts_radio k.chan _)
  generalize preemptContexts k.chan _ = u at h ⊢
  have ho : ∀ e, (emit e u).cap = s.cap ∧ (emit e u).out = s.out ++ [e] := by
    intro e
    have hc : u.cap = s.cap := by rw [h.rest]
    have hu : u.out = s.out := by rw [h.rest]
    exact ⟨hc, congrArg (· ++ [e]) hu⟩
  exact ⟨_, _, ho _⟩

/-- A frame on a chain, no fault being injected: the chain holds it, and it leaves the part. -/
theorem startChain_facts (one : Bool) (t : ChainTx) (payload : Bytes) (s : State) (h : faultOn s 4 false = false) :
    (startChain one t payload s).cap = s.cap ∧ chainTx (startChain one t payload s) one = some t
      ∧ chainTx (startChain one t payload s) (!one) = chainTx s (!one)
      ∧ (startChain one t payload s).radio.queue = s.radio.queue
      ∧ (startChain one t payload s).out = s.out ++ [.radio (bit one) t.chan payload] := by
  have hi : injectFault 4 false false s = (.pass, s) := by unfold injectFault; rw [if_pos (by rw [h]; rfl)]
  unfold startChain
  simp only [hi, reduceCtorEq, if_false]
  cases one
  · have k := (hwCharge_radio t.chan t.startNs t.airtime { s with radio.tick.txed := true, radio.chain0 := some t }).trans
      (preemptContexts_radio t.chan _)
    simp only [Bool.false_eq_true, if_false]
    generalize preemptContexts t.chan _ = u at k ⊢
    refine ⟨?_, ?_, ?_, ?_, ?_⟩
    · show u.cap = _; rw [k.rest]
    · exact k.chain0
    · exact k.chain1
    · exact k.queue
    · show u.out ++ _ = _; rw [show u.out = s.out by rw [k.rest]]
  · have k := (hwCharge_radio t.chan t.startNs t.airtime { s with radio.tick.txed := true, radio.chain1 := some t }).trans
      (preemptContexts_radio t.chan _)
    simp only [if_true]
    generalize preemptContexts t.chan _ = u at k ⊢
    refine ⟨?_, ?_, ?_, ?_, ?_⟩
    · show u.cap = _; rw [k.rest]
    · exact k.chain1
    · exact k.chain0
    · exact k.queue
    · show u.out ++ _ = _; rw [show u.out = s.out by rw [k.rest]]

end Sys2Proof.Machine
end

