-- ==== Sys2Proof/Laws/Tab.lean ====
section
/-!
SUPPORT. The laws of tables by number: a read after a write, a write beside a read, and the rising order of keys.
-/
namespace Sys2Proof.Machine

open Sys2Proof

variable {α : Type}

@[simp] theorem tget_nil (k : Nat) : tget ([] : Tab α) k = none := rfl

@[simp] theorem tget_tput_same (t : Tab α) (k : Nat) (a : α) : tget (tput t k a) k = some a := by
  induction t with
  | nil => simp [tput, tget]
  | cons p t ih =>
    obtain ⟨j, b⟩ := p
    unfold tput
    split
    · simp [tget]
    · split
      · simp [tget]
      · unfold tget; rw [if_neg ‹_›, if_neg ‹_›]; exact ih

theorem tget_tput_ne (t : Tab α) {k n : Nat} (a : α) (h : n ≠ k) : tget (tput t k a) n = tget t n := by
  induction t with
  | nil => simp only [tput, tget]; rw [if_neg (fun e => h e.symm)]; split <;> rfl
  | cons p t ih =>
    obtain ⟨j, b⟩ := p
    by_cases h1 : j = k
    · subst h1
      simp only [tput, if_true, tget]
      simp only [show ¬ j = n from fun e => h e.symm, if_false]
    · by_cases h2 : k < j
      · simp only [tput, h1, h2, if_true, if_false, tget]
        rw [if_neg (fun e => h e.symm)]
        by_cases h3 : n < k
        · rw [if_pos h3, if_neg (by omega), if_pos (by omega)]
        · rw [if_neg h3]
      · simp only [tput, h1, h2, if_false, tget, ih]

@[simp] theorem tgetD_tput_same (t : Tab α) (k : Nat) (a d : α) : tgetD (tput t k a) k d = a := by simp [tgetD]

theorem tgetD_tput_ne (t : Tab α) {k n : Nat} (a d : α) (h : n ≠ k) : tgetD (tput t k a) n d = tgetD t n d := by
  simp [tgetD, tget_tput_ne t a h]

theorem tget_tdel_ne (t : Tab α) {k n : Nat} (w : twf t = true) (h : n ≠ k) : tget (tdel t k) n = tget t n := by
  induction t with
  | nil => rfl
  | cons p t ih =>
    obtain ⟨j, b⟩ := p
    have wt : twf t = true := by simp only [twf, Bool.and_eq_true] at w; exact w.2
    by_cases h1 : j = k
    · subst h1
      simp only [tdel, if_true, tget]
      rw [if_neg (fun e => h e.symm)]
      by_cases h3 : n < j
      · rw [if_pos h3]
        cases t with
        | nil => rfl
        | cons q t =>
          obtain ⟨i, c⟩ := q
          simp only [twf, Bool.and_eq_true, decide_eq_true_eq] at w
          simp only [tget]
          rw [if_neg (by omega), if_pos (by omega)]
      · rw [if_neg h3]
    · by_cases h2 : k < j
      · simp only [tdel, h1, h2, if_true, if_false]
      · simp only [tdel, h1, h2, if_false, tget, ih wt]

/-- A key below every listed one is not listed. -/
theorem twf_cons {j : Nat} {b : α} {t : Tab α} :
    twf ((j, b) :: t) = true ↔ (∀ i c r, t = (i, c) :: r → j < i) ∧ twf t = true := by
  cases t with
  | nil => simp [twf]
  | cons q t => obtain ⟨i, c⟩ := q; simp [twf]

/-- A write keeps the rising order of keys. -/
theorem twf_tput (t : Tab α) (k : Nat) (a : α) (w : twf t = true) : twf (tput t k a) = true := by
  induction t with
  | nil => rfl
  | cons p t ih =>
    obtain ⟨j, b⟩ := p
    have wt := twf_cons.mp w
    unfold tput
    split
    · rename_i h; subst h; exact twf_cons.mpr wt
    · split
      · refine twf_cons.mpr ⟨?_, w⟩
        intro i c r e; cases e; assumption
      · refine twf_cons.mpr ⟨?_, ih wt.2⟩
        intro i c r e
        cases t with
        | nil => simp only [tput] at e; cases e; omega
        | cons q t =>
          obtain ⟨m, d⟩ := q
          have hm := wt.1 m d t rfl
          simp only [tput] at e
          split at e
          · cases e; omega
          · split at e <;> (cases e; omega)

end Sys2Proof.Machine
end

