-- ==== Sys2Proof/Laws/Faults.lean ====
section
/-!
SUPPORT. What a frame that leaves by a serial or an Ethernet port changes: the fault generators and what has left the part.
-/
namespace Sys2Proof.Machine

open Sys2Proof

/-- Only the fault block and what has left the part differ. -/
def OnlyLine (s t : State) : Prop := t = { s with test := t.test, out := t.out }

theorem OnlyLine.refl (s : State) : OnlyLine s s := rfl

theorem OnlyLine.trans {s t u : State} (h : OnlyLine s t) (k : OnlyLine t u) : OnlyLine s u := by
  unfold OnlyLine at *; rw [k, h]

theorem injectFault_line (k : Nat) (rx failed : Bool) (s : State) : OnlyLine s (injectFault k rx failed s).2 := by
  unfold injectFault; simp only []; repeat' split
  all_goals exact rfl

theorem emit_line (e : Emission) (s : State) : OnlyLine s (emit e s) := rfl

theorem serialOut_line (b : Bool) (f : Bytes) (s : State) : OnlyLine s (serialOut b f s) := by
  unfold serialOut
  have h := injectFault_line (if b then 7 else 6) false false s
  split <;> rename_i e <;> rw [e] at h
  · exact h
  · exact h.trans (emit_line _ _)
  · exact h.trans (emit_line _ _)

theorem ethernetOut_line (p : Nat) (e : Emission) (s : State) : OnlyLine s (ethernetOut p e s) := by
  unfold ethernetOut
  have h := injectFault_line (0x10 + p) false false s
  split <;> rename_i e <;> rw [e] at h
  · exact h
  · exact h
  · exact h.trans (emit_line _ _)

/-- Without injection the frame leaves by its serial port. -/
theorem serialOut_plain (b : Bool) (f : Bytes) (s : State) (h : faultOn s (if b then 7 else 6) false = false) :
    serialOut b f s = emit (.serial b f) s := by
  unfold serialOut injectFault; simp [h]

/-- Without injection the frame leaves by its Ethernet port. -/
theorem ethernetOut_plain (p : Nat) (e : Emission) (s : State) (h : faultOn s (0x10 + p) false = false) :
    ethernetOut p e s = emit e s := by
  unfold ethernetOut injectFault; simp [h]

end Sys2Proof.Machine
end

