-- ==== Sys2Proof/Laws/Store.lean ====
section
/-!
SUPPORT. What programming, moving and merging grains leave alone: the seals and records the store holds, its packages and the
seal that is durable.
-/
namespace Sys2Proof.Machine

open Sys2Proof

/-- What the store answers a query from is the same: its seals, its records, the packages that wait and the durable seal. -/
structure Store.SameHeld (a b : Store) : Prop where
  seals    : b.seals = a.seals
  records  : b.records = a.records
  packages : b.packages = a.packages
  durable  : b.durable = a.durable

theorem Store.SameHeld.refl (a : Store) : a.SameHeld a := ⟨rfl, rfl, rfl, rfl⟩

theorem Store.SameHeld.trans {a b c : Store} (h : a.SameHeld b) (k : b.SameHeld c) : a.SameHeld c :=
  ⟨k.seals.trans h.seals, k.records.trans h.records, k.packages.trans h.packages, k.durable.trans h.durable⟩

theorem takeBlock_held (st : Store) (stream day : Nat) (x : Nat × Store) (h : st.takeBlock stream day = some x) :
    st.SameHeld x.2 := by
  unfold Store.takeBlock at h
  simp only [Option.map_eq_some_iff] at h
  obtain ⟨y, -, rfl⟩ := h
  exact ⟨rfl, rfl, rfl, rfl⟩

theorem setOpen_held (st : Store) (stream : Nat) (b : Option Nat) : st.SameHeld (st.setOpen stream b) := by
  unfold Store.setOpen; repeat' split
  all_goals exact ⟨rfl, rfl, rfl, rfl⟩

theorem close_held (st : Store) (n : Nat) (now : Nat × Nat) : st.SameHeld (st.close n now) := by
  unfold Store.close
  simp only []
  split
  · exact Store.SameHeld.trans (b := st.setBlock n _) ⟨rfl, rfl, rfl, rfl⟩ (setOpen_held _ _ _)
  · exact ⟨rfl, rfl, rfl, rfl⟩

theorem mapGrain_held (st : Store) (pga : Nat) (g : GrainTag) : st.SameHeld (st.mapGrain pga g).2 := by
  unfold Store.mapGrain Store.touchPage; repeat' split
  all_goals exact ⟨rfl, rfl, rfl, rfl⟩

theorem logBlock_held (st : Store) (x : Nat × Store) (h : st.logBlock = some x) : st.SameHeld x.2 := by
  unfold Store.logBlock at h
  have grow : ∀ y, (st.takeBlock 0x15 0).map (fun x => (x.1, { x.2 with logBlocks := x.2.logBlocks ++ [x.1] })) = some y →
      st.SameHeld y.2 := by
    intro y hy
    simp only [Option.map_eq_some_iff] at hy
    obtain ⟨z, hz, rfl⟩ := hy
    exact (takeBlock_held _ _ _ _ hz).trans ⟨rfl, rfl, rfl, rfl⟩
  split at h
  · split at h
    · cases h; exact .refl st
    · split at h
      · exact grow x h
      · cases h
  · exact grow x h

theorem forProgram_held (st : Store) (stream day : Nat) (x : Nat × Store) (h : st.forProgram stream day = some x) :
    st.SameHeld x.2 := by
  unfold Store.forProgram at h
  split at h
  · exact logBlock_held st x h
  · split at h
    · cases h; exact .refl st
    · simp only [Option.map_eq_some_iff] at h
      obtain ⟨y, hy, rfl⟩ := h
      exact (takeBlock_held _ _ _ _ hy).trans (setOpen_held _ _ _)

theorem mapAll_held (st : Store) (n at_ : Nat) (gs : List GrainTag) : st.SameHeld (st.mapAll n at_ gs).2 := by
  unfold Store.mapAll
  refine foldl_inv (fun a : List Nat × Store => st.SameHeld a.2) _ ?_ _ _ (Store.SameHeld.refl st)
  intro u g hu
  exact hu.trans (mapGrain_held _ _ _)

theorem page_held (st : Store) (stream day : Nat) (now : Nat × Nat) (gs : List GrainTag) (x : List Nat × Store)
    (h : st.page stream day now gs = some x) : st.SameHeld x.2 := by
  unfold Store.page at h
  simp only [Option.map_eq_some_iff] at h
  obtain ⟨y, hy, rfl⟩ := h
  have a := forProgram_held _ _ _ _ hy
  have b : y.2.SameHeld (y.2.fillPage stream day y.1 gs) := ⟨rfl, rfl, rfl, rfl⟩
  have c := (a.trans b).trans (mapAll_held (y.2.fillPage stream day y.1 gs) y.1 (y.2.block y.1).grains.length gs)
  simp only []
  split
  · exact c
  · exact c.trans (close_held _ _ _)

theorem writeMapPages_held (now : Nat × Nat) (out : List Nat) (st : Store) : st.SameHeld (Store.writeMapPages now out st) := by
  unfold Store.writeMapPages
  refine foldl_inv (fun a : Store => st.SameHeld a) _ ?_ _ _ (.refl st)
  intro u m hu
  simp only []
  split
  · rename_i x hx; exact (hu.trans (page_held _ _ _ _ _ _ hx)).trans ⟨rfl, rfl, rfl, rfl⟩
  · exact hu

theorem pages_held (stream day : Nat) (now : Nat × Nat) (ps : List (List GrainTag)) (st t : Store)
    (h : Store.pages_ stream day now ps st = some t) : st.SameHeld t := by
  induction ps generalizing st with
  | nil => cases h; exact .refl _
  | cons p ps ih =>
    unfold Store.pages_ at h
    split at h
    · cases h
    · rename_i x hx
      exact ((page_held _ _ _ _ _ _ hx).trans (writeMapPages_held _ _ _)).trans (ih _ h)

theorem program_held (st t : Store) (stream day : Nat) (now : Nat × Nat) (gs : List GrainTag)
    (h : st.program stream day now gs = some t) : st.SameHeld t := by
  unfold Store.program at h
  simp only [Option.map_eq_some_iff] at h
  obtain ⟨y, hy, rfl⟩ := h
  exact (pages_held _ _ _ _ _ _ hy).trans ⟨rfl, rfl, rfl, rfl⟩

theorem programCopy_held (st t : Store) (stream day : Nat) (now : Nat × Nat) (gs : List GrainTag)
    (h : st.programCopy stream day now gs = some t) : st.SameHeld t := by
  unfold Store.programCopy at h
  simp only [Option.map_eq_some_iff] at h
  obtain ⟨y, hy, rfl⟩ := h
  exact (pages_held _ _ _ _ _ _ hy).trans ⟨rfl, rfl, rfl, rfl⟩

theorem journalize_held (st t : Store) (now : Nat × Nat) (es : List StoreEntry) (h : st.journalize now es = some t) :
    st.SameHeld t := by
  unfold Store.journalize at h
  simp only [Option.map_eq_some_iff] at h
  obtain ⟨y, hy, rfl⟩ := h
  exact (program_held _ _ _ _ _ _ hy).trans ⟨rfl, rfl, rfl, rfl⟩

theorem erase_held (st : Store) (n : Nat) : st.SameHeld (st.erase n) := ⟨rfl, rfl, rfl, rfl⟩

theorem raiseDay_held (st : Store) (stream day : Nat) : st.SameHeld (st.raiseDay stream day) := by
  unfold Store.raiseDay; split <;> exact ⟨rfl, rfl, rfl, rfl⟩

theorem moveGrain_held (st : Store) (refresh : Bool) (src : Block) (x : Nat × GrainTag) (now : Nat × Nat)
    (t : List StoreEntry × Store) (h : st.moveGrain refresh src x now = some t) : st.SameHeld t.2 := by
  unfold Store.moveGrain at h
  simp only [Option.map_eq_some_iff] at h
  obtain ⟨y, hy, rfl⟩ := h
  simp only []
  have k := raiseDay_held st (st.target refresh src x.1 x.2).1 (st.target refresh src x.1 x.2).2.1
  split at hy
  · exact k.trans (program_held _ _ _ _ _ _ hy)
  · exact k.trans (programCopy_held _ _ _ _ _ _ hy)

theorem moveGrains_held (refresh : Bool) (src : Block) (now : Nat × Nat) (l : List (Nat × GrainTag))
    (a b : List StoreEntry × Store) (h : Store.moveGrains refresh src now l a = some b) : a.2.SameHeld b.2 := by
  induction l generalizing a with
  | nil => cases h; exact .refl _
  | cons x xs ih =>
    unfold Store.moveGrains at h
    split at h
    · cases h
    · rename_i y hy
      exact (moveGrain_held _ _ _ _ _ _ hy).trans (ih (a.1 ++ y.1, y.2) h)

/-- Moving a block's live grains keeps every seal and record. -/
theorem moveBlock_held (st t : Store) (n : Nat) (refresh : Bool) (now : Nat × Nat) (h : st.moveBlock n refresh now = some t) :
    st.SameHeld t := by
  unfold Store.moveBlock at h
  simp only [Option.bind_eq_some_iff, Option.map_eq_some_iff] at h
  obtain ⟨a, ha, b, hb, rfl⟩ := h
  have c : st.SameHeld b := (moveGrains_held _ _ _ _ _ _ ha).trans (journalize_held _ _ _ _ hb)
  split
  · exact c.trans ⟨rfl, rfl, rfl, rfl⟩
  · exact c.trans (erase_held _ _)

theorem mergeLogical_held (st t : Store) (logs : List Nat) (l : Nat) (h : st.mergeLogical logs l = some t) : st.SameHeld t := by
  unfold Store.mergeLogical at h
  simp only [Option.map_eq_some_iff] at h
  obtain ⟨x, hx, rfl⟩ := h
  have a := takeBlock_held _ _ _ _ hx
  split
  · exact a.trans ⟨rfl, rfl, rfl, rfl⟩
  · exact a.trans ⟨rfl, rfl, rfl, rfl⟩

theorem mergeAll_held (logs ls : List Nat) (st t : Store) (h : Store.mergeAll logs ls st = some t) : st.SameHeld t := by
  induction ls generalizing st with
  | nil => cases h; exact .refl _
  | cons l ls ih =>
    unfold Store.mergeAll at h
    split at h
    · cases h
    · rename_i x hx; exact (mergeLogical_held _ _ _ _ hx).trans (ih _ h)

/-- Merging a log block keeps every seal and record. -/
theorem mergeOldest_held (st t : Store) (h : st.mergeOldest = some t) : st.SameHeld t := by
  unfold Store.mergeOldest at h
  split at h
  · cases h
  · simp only [Option.map_eq_some_iff] at h
    obtain ⟨x, hx, rfl⟩ := h
    have a := mergeAll_held _ _ _ _ hx
    exact Store.SameHeld.trans ⟨a.seals, a.records, a.packages, a.durable⟩ (erase_held x _)

theorem raiseU_recorder (code : Nat) (ps : List Nat) (s : State) : raiseU code ps s = { s with recorder := (raiseU code ps s).recorder } := by
  unfold raiseU; simp only []; split <;> rfl

/-- Retiring a block keeps every seal and record and changes the store and the recorder. -/
theorem retire_held (n cause : Nat) (s : State) : s.store.SameHeld (retire n cause s).store
    ∧ retire n cause s = { s with store := (retire n cause s).store, recorder := (retire n cause s).recorder } := by
  unfold retire
  simp only []
  rw [raiseU_recorder]
  refine ⟨?_, rfl⟩
  cases h : s.store.journalize (storeNow s) [.retire n] with
  | none => exact ⟨rfl, rfl, rfl, rfl⟩
  | some st => exact (journalize_held _ _ _ _ h).trans ⟨rfl, rfl, rfl, rfl⟩

/-- The low-space check changes the recorder and the tick of its latest event. -/
theorem lowSpace_held (s : State) : s.store.SameHeld (lowSpace s).store
    ∧ lowSpace s = { s with store := (lowSpace s).store, recorder := (lowSpace s).recorder } := by
  unfold lowSpace
  simp only []
  split
  · rw [raiseU_recorder]; exact ⟨⟨rfl, rfl, rfl, rfl⟩, rfl⟩
  · exact ⟨.refl _, rfl⟩

/-- Of the store the low-space check writes the tick of its latest event alone. -/
theorem lowSpace_store (s : State) : (lowSpace s).store = { s.store with lastLow := (lowSpace s).store.lastLow } := by
  unfold lowSpace
  split
  · rw [raiseU_recorder]
  · rfl

theorem anchor_held (st : Store) (no tick : Nat) : st.SameHeld (st.anchor no tick) := by
  unfold Store.anchor
  refine foldl_inv (fun a : Store => st.SameHeld a) _ ?_ _ _ (.refl st)
  intro u n hu
  exact hu.trans ⟨rfl, rfl, rfl, rfl⟩

theorem eraseReleased_held (st : Store) : st.SameHeld st.eraseReleased := by
  unfold Store.eraseReleased
  refine foldl_inv (fun a : Store => st.SameHeld a) _ ?_ _ _ (.refl st)
  intro u b hu
  split
  · exact hu.trans (erase_held _ _)
  · exact hu

/-- A checkpoint's structures keep every seal and record; its root is the latest, the journal starts anew. -/
theorem finish_held (st t : Store) (c : Checkpoint) (hash : Bytes) (ledger : List Charge) (now : Nat × Nat)
    (h : st.finish c hash ledger now = some t) : st.SameHeld t ∧ t.checkpoint = none ∧ t.journal = []
      ∧ (t.roots.head?.map fun r => (r.tick, r.hash)) = some (c.tick, hash) := by
  unfold Store.finish at h
  simp only [Option.bind_eq_some_iff, Option.map_eq_some_iff] at h
  obtain ⟨a, ha, b, hb, d, hd, e, he, f, hf, rfl⟩ := h
  refine ⟨?_, rfl, rfl, rfl⟩
  have h1 := (program_held _ _ _ _ _ _ ha).trans (program_held _ _ _ _ _ _ hb)
  have h2 := program_held _ _ _ _ _ _ hd
  have h3 := (program_held _ _ _ _ _ _ he).trans (program_held _ _ _ _ _ _ hf)
  have h4 := h3.trans (anchor_held f (((st.roots.head?.map (·.number)).getD 0) + 1) c.tick.toNat)
  have h5 : b.SameHeld d := ⟨h2.seals, h2.records, h2.packages, h2.durable⟩
  exact (h1.trans (h5.trans h4)).trans ⟨rfl, rfl, rfl, rfl⟩

/-- A history write-back keeps every seal and record and changes the store alone. -/
theorem writeHistory_held (slot tick : Nat) (s : State) : s.store.SameHeld (writeHistory slot tick s).store
    ∧ writeHistory slot tick s = { s with store := (writeHistory slot tick s).store } := by
  unfold writeHistory
  split
  · exact ⟨.refl _, rfl⟩
  · rename_i st h
    exact ⟨(program_held _ _ _ _ _ _ h).trans ⟨rfl, rfl, rfl, rfl⟩, rfl⟩

end Sys2Proof.Machine
end

