-- ==== Sys2Proof/Laws/Holham.lean ====
section
/-!
SUPPORT. The Holham link without injection: what leaves, and what a frame from the peer comes to.
-/
namespace Sys2Proof.Machine

open Sys2Proof

@[simp] theorem le_length (n v : Nat) : (le n v).length = n := by
  induction n generalizing v with
  | zero => rfl
  | succ n ih => simp [le, ih]

@[simp] theorem be_length (n v : Nat) : (be n v).length = n := by simp [be]

@[simp] theorem zeros_length (n : Nat) : (zeros n).length = n := by simp [zeros]

@[simp] theorem fit_length (n : Nat) (b : Bytes) : (fit n b).length = n := by
  simp only [fit, List.length_append, List.length_take, zeros_length]; omega

theorem faultOn_link (s t : State) (k : Nat) (rx : Bool) (h : t.keys.fuses = s.keys.fuses) (g : t.hw = s.hw) :
    faultOn t k rx = faultOn s k rx := by
  unfold faultOn faultPermitted hwLifeState hwCfg; rw [h, g]

/-- Without injection a frame leaves as it is. -/
theorem holhamOut_plain (f : HolhamTx) (r : Bool) (s : State) (h : faultOn s 5 false = false) :
    holhamOut f r s = { s with out := s.out ++ [.holham f r true] } := by
  unfold holhamOut injectFault; simp [h, emit]

/-- A frame with room in the buffer leaves and is held. -/
theorem holhamSend_framed (type : Nat) (tick : BitVec 48) (b : Bytes) (s : State) (u : s.twin.linkUp = true)
    (h : faultOn s 5 false = false) (r : HolhamRoom b.length s) : holhamSend type tick b s = framed type tick b s := by
  unfold holhamSend
  have n : ¬ 524288 < unackedBytes s.twin.unacked + HolhamTx.size ⟨type, tick, s.twin.txSeq, b⟩ := Nat.not_lt.mpr r
  rw [if_neg (by simp [u])]
  simp only []
  rw [if_neg n, holhamOut_plain]
  · rfl
  · exact h

/-- Of the state a sent frame touches the link's own fields, the fault block, the recorder and what has left the part. -/
def OnlyLink (s t : State) : Prop :=
  t = { s with twin.txSeq := t.twin.txSeq, twin.unacked := t.twin.unacked, twin.linkUp := t.twin.linkUp,
               twin.linkDowns := t.twin.linkDowns, test := t.test, out := t.out, recorder := t.recorder }

theorem OnlyLink.trans {s t u : State} (h : OnlyLink s t) (k : OnlyLink t u) : OnlyLink s u := by
  unfold OnlyLink at *; rw [k, h]

theorem OnlyLine.onlyLink {s t : State} (h : OnlyLine s t) : OnlyLink s t := by
  unfold OnlyLine at h; unfold OnlyLink; rw [h]

theorem raiseU_onlyLink (c : Nat) (ps : List Nat) (s : State) : OnlyLink s (raiseU c ps s) := by
  unfold OnlyLink; rw [raiseU_recorder]

theorem holhamOut_line (f : HolhamTx) (r : Bool) (s : State) : OnlyLine s (holhamOut f r s) := by
  unfold holhamOut
  have h := injectFault_line 5 false false s
  split <;> rename_i e <;> rw [e] at h
  · exact h
  · exact h.trans (emit_line _ _)
  · exact h.trans (emit_line _ _)

theorem holhamDown_link (c : LinkDownCause) (s : State) : OnlyLink s (holhamDown c s) := by
  unfold holhamDown
  split
  · exact rfl
  · exact OnlyLink.trans (t := { s with twin.linkUp := false, twin.unacked := [], twin.linkDowns := s.twin.linkDowns.inc })
      rfl (raiseU_onlyLink _ _ _)

theorem holhamSend_link (type : Nat) (tick : BitVec 48) (b : Bytes) (s : State) : OnlyLink s (holhamSend type tick b s) := by
  unfold holhamSend
  split
  · exact rfl
  · simp only []
    split
    · exact holhamDown_link _ _
    · exact OnlyLink.trans (t := { s with
        twin.txSeq := s.twin.txSeq + 1, twin.unacked := s.twin.unacked ++ [⟨type, tick, s.twin.txSeq, b⟩] }) rfl
        (holhamOut_line _ _ _).onlyLink

/-- Of the state an input's way into the log touches the capture, its two counters, and what a frame sent touches; the tick
and whether the unit captures stand. -/
structure OnlyInputs (s t : State) : Prop where
  state : t = { s with cap := t.cap, sys.logDeferred := t.sys.logDeferred, sys.captureDropped := t.sys.captureDropped,
                       twin.txSeq := t.twin.txSeq, twin.unacked := t.twin.unacked, twin.linkUp := t.twin.linkUp,
                       twin.linkDowns := t.twin.linkDowns, test := t.test, out := t.out, recorder := t.recorder }
  tick  : t.cap.tick = s.cap.tick
  isOn  : t.cap.isOn = s.cap.isOn

theorem OnlyInputs.refl (s : State) : OnlyInputs s s := ⟨rfl, rfl, rfl⟩

theorem OnlyInputs.trans {s t u : State} (h : OnlyInputs s t) (k : OnlyInputs t u) : OnlyInputs s u :=
  ⟨by rw [k.state, h.state], k.tick.trans h.tick, k.isOn.trans h.isOn⟩

theorem OnlyLink.inputs {s t : State} (h : OnlyLink s t) : OnlyInputs s t := by
  unfold OnlyLink at h
  refine ⟨?_, ?_, ?_⟩ <;> rw [h]

theorem foldl_inputs {α : Type} (f : State → α → State) (h : ∀ s a, OnlyInputs s (f s a)) (l : List α) (s : State) :
    OnlyInputs s (l.foldl f s) := by
  induction l generalizing s with
  | nil => exact .refl s
  | cons a l ih => exact (h s a).trans (ih _)

theorem shipLog_inputs (b : Bool) (s : State) : OnlyInputs s (shipLog b s) := by
  unfold shipLog
  split
  · exact .refl s
  · refine OnlyInputs.trans ?_ (foldl_inputs _ (fun s e => (holhamSend_link _ _ _ s).inputs) _ _)
    exact ⟨rfl, rfl, rfl⟩

theorem enterLog_inputs (e : LogEntry) (s : State) : OnlyInputs s (enterLog e s) :=
  OnlyInputs.trans (t := { s with cap.log.entries := s.cap.log.entries ++ [e] }) ⟨rfl, rfl, rfl⟩ (shipLog_inputs _ _)

theorem placeInput_inputs (e : LogEntry) (s : State) : OnlyInputs s (placeInput e s) := by
  unfold placeInput
  split
  · exact enterLog_inputs e s
  · split <;> exact ⟨rfl, rfl, rfl⟩

theorem takeDeferred_inputs (s : State) : OnlyInputs s (takeDeferred s) := by
  unfold takeDeferred
  split
  · split
    · refine OnlyInputs.trans ?_ (enterLog_inputs _ _)
      exact ⟨rfl, rfl, rfl⟩
    · exact ⟨rfl, rfl, rfl⟩
  · exact ⟨rfl, rfl, rfl⟩

theorem takeDeferredAll_inputs (n : Nat) (s : State) : OnlyInputs s (takeDeferredAll n s) := by
  induction n generalizing s with
  | zero => exact .refl s
  | succ n ih => exact (takeDeferred_inputs s).trans (ih _)

theorem appendInput_inputs (e : LogEntry) (s : State) : OnlyInputs s (appendInput e s) := by
  refine OnlyInputs.trans ?_ (placeInput_inputs e _)
  have a := takeDeferredAll_inputs s.cap.carried s
  have b : ∀ s, OnlyInputs s (placeReleased s) := fun s =>
    OnlyInputs.trans (t := { s with cap.released := [] }) ⟨rfl, rfl, rfl⟩ (foldl_inputs _ (fun s e => placeInput_inputs e s) _ _)
  have c : ∀ s, OnlyInputs s (placeReports s) := fun s =>
    OnlyInputs.trans (t := { s with cap.reports := [] }) ⟨rfl, rfl, rfl⟩ (foldl_inputs _ (fun s e => placeInput_inputs e s) _ _)
  exact (a.trans (b _)).trans (c _)

/-- An input that nothing waits ahead of stands last in a log that takes it, whoever the log is shipped to. -/
theorem enterLog_last (e : LogEntry) (s : State) : (enterLog e s).cap.log = { s.cap.log with entries := s.cap.log.entries ++ [e] } := by
  have key : ∀ (l : List LogEntry) (u : State), (l.foldl (fun s e => holhamSend holLog s.cap.tick (entryBytes e) s) u).cap = u.cap := by
    intro l
    induction l with
    | nil => intro u; rfl
    | cons x l ih =>
      intro u
      rw [List.foldl_cons, ih]
      have h := holhamSend_link holLog u.cap.tick (entryBytes x) u
      unfold OnlyLink at h; rw [h]
  unfold enterLog shipLog
  split
  · rfl
  · simp only []; rw [key]

/-- Every session ends in the first log of a term. -/
theorem closeSessions_inputs (s : State) :
    OnlyInputs { s with bey.dtls := [], bey.own := [], bey.queries := [], bey.tribClients := [], bey.handshakes := 0 }
      (closeSessions s) :=
  foldl_inputs _ (fun s _ => appendInput_inputs _ s) _ _

/-- With the link up the ACK leaves. -/
theorem holhamAck_sent (s : State) (u : s.twin.linkUp = true) (h : faultOn s 5 false = false) : holhamAck s = ackSent s := by
  unfold holhamAck
  rw [if_neg (by simp [u]), holhamOut_plain _ _ _ h]; rfl

/-- A frame without injection: a wrong CRC counts, another is taken. -/
theorem holhamFrame_plain (h : HolhamHdr) (f : State → State) (s : State) (l : LinkPlain s) :
    holhamFrame h f s = done s (if h.crcOk then f s else { s with twin.crcErrors := s.twin.crcErrors.inc }) := by
  obtain ⟨a, b, c, _⟩ := l
  unfold holhamFrame injectFault
  simp [a, b, c]

/-- A numbered frame in order is acknowledged and taken. -/
theorem holhamIn_next (h : HolhamHdr) (f : State → State) (s : State) (l : LinkPlain s) (n : NextFrame h s) :
    holhamIn h f s = done s (f (acked s)) := by
  unfold holhamIn
  rw [holhamFrame_plain _ _ _ l]
  simp only [n.1, if_true, n.2, ne_eq, not_true_eq_false, if_false]
  rw [holhamAck_sent]
  · rfl
  · exact l.2.1
  · exact l.2.2.2

/-- A numbered frame out of order is answered with the ACK of the last one in order. -/
theorem holhamIn_other (h : HolhamHdr) (f : State → State) (s : State) (l : LinkPlain s) (c : h.crcOk = true) (n : h.seq ≠ s.twin.rxSeq) :
    holhamIn h f s = done s (ackSent s) := by
  unfold holhamIn
  rw [holhamFrame_plain _ _ _ l]
  simp only [c, if_true, n, ne_eq, not_false_eq_true]
  rw [holhamAck_sent _ l.2.1 l.2.2.2]

/-- Frames sent again leave in order, with RETRY. -/
theorem resend_plain (s : State) (h : faultOn s 5 false = false) :
    resend s = { s with twin.retransmits := s.twin.retransmits.add s.twin.unacked.length,
                        out := s.out ++ s.twin.unacked.map fun f => .holham f true true } := by
  have key : ∀ (l : List HolhamTx) (t : State), faultOn t 5 false = false →
      l.foldl (fun s f => holhamOut f true s) t = { t with out := t.out ++ l.map fun f => .holham f true true } := by
    intro l
    induction l with
    | nil => intro t _; simp
    | cons f l ih =>
      intro t ht
      rw [List.foldl_cons, holhamOut_plain _ _ _ ht, ih _ (by exact ht)]
      simp
  unfold resend
  rw [key _ _ (by exact h)]

end Sys2Proof.Machine
end

