-- ==== Sys2Proof/Laws/Beysyn.lean ====
section
/-!
SUPPORT. One Beysyn message: what stands between the command and its type's own effect.
-/
namespace Sys2Proof.Machine

open Sys2Proof

/-- With every entry before it handled, nothing is taken ahead of a message. -/
theorem beysynUpTo_handled (stop : Nat) (s : State)
    (h : ∀ p ∈ s.work.log.entries.zipIdx, p.1.kind = 2 → p.2 < stop → s.work.handled.contains (0, p.2) = true) :
    beysynUpTo stop s = s := by
  unfold beysynUpTo
  have key : ∀ l : List (LogEntry × Nat), (∀ p ∈ l, s.work.handled.contains (0, p.2) = true) →
      l.foldl (fun s p => if s.work.handled.contains (0, p.2) then s else takeEntry p.2 p.1 s) s = s := by
    intro l
    induction l with
    | nil => intro _; rfl
    | cons p l ih =>
      intro hl
      rw [List.foldl_cons, if_pos (hl p List.mem_cons_self)]
      exact ih fun q hq => hl q (List.mem_cons_of_mem _ hq)
  apply key
  intro p hp
  simp only [List.mem_filter, Bool.and_eq_true, beq_iff_eq, decide_eq_true_eq] at hp
  exact h p hp.1 hp.2.1 hp.2.2

/-- A message that comes up is taken by its session. -/
theorem beysynMessage_due (type : Nat) (m : Msg) (s : State) (h : Due m s) :
    beysynMessage type m s = takeMessage (ctxOf m) m.version type m.body { s with work.handled := (0, m.org.pos) :: s.work.handled } := by
  obtain ⟨⟨hr, ho⟩, hm, hg, hh, hu⟩ := h
  unfold beysynMessage
  rw [if_neg (by simp [hr]), if_neg hm, if_neg (by simp [ho]), beysynUpTo_handled _ _ hu]
  simp only []
  rw [if_neg (by rw [hh]; simp), if_neg (by simp [hg])]
  rfl

/-- A message that passes the checks of R465 has its own effect, and its reply. -/
theorem beysynMessage_passes (type right : Nat) (m : Msg) (x : Session) (s : State) (hr : typeRight type = some right)
    (h : Passes type right m x s) :
    beysynMessage type m s = match serve (ctxOf m) x type m.body (tookUp m s) with
      | (none, t) => t
      | (some r, t) => answered type m r t := by
  obtain ⟨⟨hd, hf, he⟩, hv, hl, ht, hc, hq⟩ := h
  rw [beysynMessage_due _ _ _ hd]
  unfold takeMessage
  have f : (ctxOf m).find { s with work.handled := (0, m.org.pos) :: s.work.handled } = some x := hf
  rw [f]
  simp only []
  rw [if_neg (by simp [he]), if_neg (by simp [hv])]
  have c : (if isCached type = true then x.replies.find? (·.1 == (ctxOf m).rid) else none) = none := by
    by_cases k : isCached type = true
    · rw [if_pos k]; exact hc k
    · rw [if_neg k]
  rw [c]
  simp only []
  have own : (ctxOf m).own = false := rfl
  have sends : (ctxOf m).sends (tookUp m s) = true := by
    unfold MsgCtx.sends
    have : (tookUp m s).twin.role ≠ .mirror := hd.2.1
    simp [this]
  have k : checkedServe (ctxOf m) x type m.body (tookUp m s)
      = ((serve (ctxOf m) x type m.body (tookUp m s)).1, isStoreQuery type, (serve (ctxOf m) x type m.body (tookUp m s)).2) := by
    unfold checkedServe
    rw [hr]
    simp only []
    rw [if_neg (by simp [hl]), if_neg (by have : testBit (rightsOf (tookUp m s) x.digest) right = true := ht
                                          simp [this]), if_neg (by simp [own]), if_neg, sends, Bool.and_true]
    rintro ⟨a, _, b⟩
    have : queriesFull (tookUp m s) (ctxOf m).session = false := hq a
    rw [this] at b; cases b
  show (match checkedServe (ctxOf m) x type m.body (tookUp m s) with
    | (none, _, s) => s
    | (some r, later, s) =>
      respond (ctxOf m) type later (isCached type) r (if r.status = 4 ∧ !(ctxOf m).own then raise (ctxOf m).src 0xA004 [(ctxOf m).session, type] s else s)) = _
  rw [k]
  cases hs : serve (ctxOf m) x type m.body (tookUp m s) with
  | mk r t =>
    cases r with
    | none => rfl
    | some r =>
      simp only [own, Bool.not_false, and_true]
      rfl

end Sys2Proof.Machine
end

