-- ==== Sys2Proof/Laws/Start.lean ====
section
/-!
SUPPORT. Where a start ends: one lemma for each of its last steps.
-/
namespace Sys2Proof.Machine

open Sys2Proof

/-- A unit that enters service runs, or waits for HELLO as a mirror with its drivers inactive. -/
theorem standBy_mode (s : State) : (standBy s).sys.mode = .running ∨
    ((standBy s).sys.mode = .waiting ∧ (standBy s).twin.role = .mirror ∧ (standBy s).twin.waitingHello = true
      ∧ (standBy s).sys.pins = ⟨.asFunction, .inactive, .inactive, .commonMode, false⟩) := by
  unfold standBy
  simp only []
  split
  · exact .inr ⟨rfl, rfl, rfl, rfl⟩
  · exact .inl rfl

theorem enterService_mode (s : State) : (enterService s).sys.mode = .running ∨
    ((enterService s).sys.mode = .waiting ∧ (enterService s).twin.role = .mirror ∧ (enterService s).twin.waitingHello = true
      ∧ (enterService s).sys.pins = ⟨.asFunction, .inactive, .inactive, .commonMode, false⟩) := by
  unfold enterService
  simp only []
  exact standBy_mode _

theorem unlock_nor (s : State) : (unlock s).nor = s.nor := by
  unfold unlock; simp only []
  repeat' split
  all_goals rfl

/-- A start without an alarm: the image decides between a halt and the recovery. -/
theorem startUnit_eq (b : StartIn) (s : State) (h4 : (release b s).nor.boot.any (·.sound) = true) (h5 : s.keys.latch = none)
    (h6 : b.tamper = none) {cause : Nat} {info : ImageInfo} {img : List ImgRecord}
    (h7 : checkImage (unlock (release b s)) (unlock (release b s)).nor.image = (cause, info, img)) :
    startUnit b s = if 2 ≤ cause then haltWith cause info.serial (unlock (release b s))
      else recoverStart b none none s.sys.vbat.stage s.sys.pfailWait cause info img (unlock (release b s)) := by
  have hl : (release b s).keys.latch = none := h5
  have ha : actLatch (release b s) = release b s := by unfold actLatch; rw [hl]
  unfold startUnit
  generalize release b s = u at h4 h7 hl ha ⊢
  simp only [h4, Bool.not_true, Bool.false_eq_true, if_false, ha, h6, Bool.false_and, h7, hl]

/-- Without a chain to recover the recovery ends in service. -/
theorem recoverStart_enters (b : StartIn) (stage : BitVec 2) (wait : Option Nat) (cause : Nat) (info : ImageInfo)
    (img : List ImgRecord) (u : State)
    (h : ∀ l, storePlan (testWanted u (startRecords u.nor.journal (lifeState u == .quarantine) info img)) u.store info
      ≠ .mismatch l ∧
      storePlan (testWanted u (startRecords u.nor.journal (lifeState u == .quarantine) info img)) u.store info ≠ .chain l) :
    ∃ x, recoverStart b none none stage wait cause info img u = enterService x := by
  unfold recoverStart
  simp only []
  split
  · rename_i l hl; exact absurd hl (h l).1
  · rename_i l hl; exact absurd hl (h l).2
  · exact ⟨_, rfl⟩
  · exact ⟨_, rfl⟩

end Sys2Proof.Machine
end

