-- ==== Sys2Proof/Laws/State.lean ====
section
/-!
SUPPORT. What each of the state's small updates leaves of each field: one lemma for each, so that no proof unfolds a record
update.
-/
namespace Sys2Proof.Machine

open Sys2Proof

@[simp] theorem settlePins_pll (s : State) : (settlePins s).pll = s.pll := rfl
@[simp] theorem settlePins_cap (s : State) : (settlePins s).cap = s.cap := rfl
@[simp] theorem settlePins_work (s : State) : (settlePins s).work = s.work := rfl
@[simp] theorem settlePins_cov (s : State) : (settlePins s).cov = s.cov := rfl
@[simp] theorem settlePins_view (s : State) : (settlePins s).view = s.view := rfl
@[simp] theorem settlePins_snaps (s : State) : (settlePins s).snaps = s.snaps := rfl
@[simp] theorem settlePins_closing (s : State) : (settlePins s).closing = s.closing := rfl
@[simp] theorem settlePins_seals (s : State) : (settlePins s).seals = s.seals := rfl
@[simp] theorem settlePins_hw (s : State) : (settlePins s).hw = s.hw := rfl
@[simp] theorem settlePins_obs (s : State) : (settlePins s).obs = s.obs := rfl
@[simp] theorem settlePins_plc (s : State) : (settlePins s).plc = s.plc := rfl
@[simp] theorem settlePins_radio (s : State) : (settlePins s).radio = s.radio := rfl
@[simp] theorem settlePins_tstat (s : State) : (settlePins s).tstat = s.tstat := rfl
@[simp] theorem settlePins_ingest (s : State) : (settlePins s).ingest = s.ingest := rfl
@[simp] theorem settlePins_metro (s : State) : (settlePins s).metro = s.metro := rfl
@[simp] theorem settlePins_store (s : State) : (settlePins s).store = s.store := rfl
@[simp] theorem settlePins_time (s : State) : (settlePins s).time = s.time := rfl
@[simp] theorem settlePins_keys (s : State) : (settlePins s).keys = s.keys := rfl
@[simp] theorem settlePins_twin (s : State) : (settlePins s).twin = s.twin := rfl
@[simp] theorem settlePins_bey (s : State) : (settlePins s).bey = s.bey := rfl
@[simp] theorem settlePins_upd (s : State) : (settlePins s).upd = s.upd := rfl
@[simp] theorem settlePins_recorder (s : State) : (settlePins s).recorder = s.recorder := rfl
@[simp] theorem settlePins_nor (s : State) : (settlePins s).nor = s.nor := rfl
@[simp] theorem settlePins_test (s : State) : (settlePins s).test = s.test := rfl
@[simp] theorem settlePins_out (s : State) : (settlePins s).out = s.out := rfl
@[simp] theorem settlePins_freeCtr (s : State) : (settlePins s).freeCtr = s.freeCtr := rfl
@[simp] theorem settlePins_pending (s : State) : (settlePins s).pending = s.pending := rfl

@[simp] theorem raise_sys (src : Src) (code : Nat) (ps : List Nat) (s : State) : (raise src code ps s).sys = s.sys := rfl
@[simp] theorem raise_pll (src : Src) (code : Nat) (ps : List Nat) (s : State) : (raise src code ps s).pll = s.pll := rfl
@[simp] theorem raise_cap (src : Src) (code : Nat) (ps : List Nat) (s : State) : (raise src code ps s).cap = s.cap := rfl
@[simp] theorem raise_cov (src : Src) (code : Nat) (ps : List Nat) (s : State) : (raise src code ps s).cov = s.cov := rfl
@[simp] theorem raise_view (src : Src) (code : Nat) (ps : List Nat) (s : State) : (raise src code ps s).view = s.view := rfl
@[simp] theorem raise_snaps (src : Src) (code : Nat) (ps : List Nat) (s : State) : (raise src code ps s).snaps = s.snaps := rfl
@[simp] theorem raise_closing (src : Src) (code : Nat) (ps : List Nat) (s : State) : (raise src code ps s).closing = s.closing := rfl
@[simp] theorem raise_seals (src : Src) (code : Nat) (ps : List Nat) (s : State) : (raise src code ps s).seals = s.seals := rfl
@[simp] theorem raise_hw (src : Src) (code : Nat) (ps : List Nat) (s : State) : (raise src code ps s).hw = s.hw := rfl
@[simp] theorem raise_obs (src : Src) (code : Nat) (ps : List Nat) (s : State) : (raise src code ps s).obs = s.obs := rfl
@[simp] theorem raise_plc (src : Src) (code : Nat) (ps : List Nat) (s : State) : (raise src code ps s).plc = s.plc := rfl
@[simp] theorem raise_radio (src : Src) (code : Nat) (ps : List Nat) (s : State) : (raise src code ps s).radio = s.radio := rfl
@[simp] theorem raise_tstat (src : Src) (code : Nat) (ps : List Nat) (s : State) : (raise src code ps s).tstat = s.tstat := rfl
@[simp] theorem raise_ingest (src : Src) (code : Nat) (ps : List Nat) (s : State) : (raise src code ps s).ingest = s.ingest := rfl
@[simp] theorem raise_metro (src : Src) (code : Nat) (ps : List Nat) (s : State) : (raise src code ps s).metro = s.metro := rfl
@[simp] theorem raise_store (src : Src) (code : Nat) (ps : List Nat) (s : State) : (raise src code ps s).store = s.store := rfl
@[simp] theorem raise_time (src : Src) (code : Nat) (ps : List Nat) (s : State) : (raise src code ps s).time = s.time := rfl
@[simp] theorem raise_keys (src : Src) (code : Nat) (ps : List Nat) (s : State) : (raise src code ps s).keys = s.keys := rfl
@[simp] theorem raise_twin (src : Src) (code : Nat) (ps : List Nat) (s : State) : (raise src code ps s).twin = s.twin := rfl
@[simp] theorem raise_bey (src : Src) (code : Nat) (ps : List Nat) (s : State) : (raise src code ps s).bey = s.bey := rfl
@[simp] theorem raise_upd (src : Src) (code : Nat) (ps : List Nat) (s : State) : (raise src code ps s).upd = s.upd := rfl
@[simp] theorem raise_recorder (src : Src) (code : Nat) (ps : List Nat) (s : State) : (raise src code ps s).recorder = s.recorder := rfl
@[simp] theorem raise_nor (src : Src) (code : Nat) (ps : List Nat) (s : State) : (raise src code ps s).nor = s.nor := rfl
@[simp] theorem raise_test (src : Src) (code : Nat) (ps : List Nat) (s : State) : (raise src code ps s).test = s.test := rfl
@[simp] theorem raise_out (src : Src) (code : Nat) (ps : List Nat) (s : State) : (raise src code ps s).out = s.out := rfl
@[simp] theorem raise_freeCtr (src : Src) (code : Nat) (ps : List Nat) (s : State) : (raise src code ps s).freeCtr = s.freeCtr := rfl
@[simp] theorem raise_pending (src : Src) (code : Nat) (ps : List Nat) (s : State) : (raise src code ps s).pending = s.pending := rfl

@[simp] theorem raiseU_sys (code : Nat) (ps : List Nat) (s : State) : (raiseU code ps s).sys = s.sys := by unfold raiseU; simp only []; split <;> rfl
@[simp] theorem raiseU_pll (code : Nat) (ps : List Nat) (s : State) : (raiseU code ps s).pll = s.pll := by unfold raiseU; simp only []; split <;> rfl
@[simp] theorem raiseU_cap (code : Nat) (ps : List Nat) (s : State) : (raiseU code ps s).cap = s.cap := by unfold raiseU; simp only []; split <;> rfl
@[simp] theorem raiseU_work (code : Nat) (ps : List Nat) (s : State) : (raiseU code ps s).work = s.work := by unfold raiseU; simp only []; split <;> rfl
@[simp] theorem raiseU_cov (code : Nat) (ps : List Nat) (s : State) : (raiseU code ps s).cov = s.cov := by unfold raiseU; simp only []; split <;> rfl
@[simp] theorem raiseU_view (code : Nat) (ps : List Nat) (s : State) : (raiseU code ps s).view = s.view := by unfold raiseU; simp only []; split <;> rfl
@[simp] theorem raiseU_snaps (code : Nat) (ps : List Nat) (s : State) : (raiseU code ps s).snaps = s.snaps := by unfold raiseU; simp only []; split <;> rfl
@[simp] theorem raiseU_closing (code : Nat) (ps : List Nat) (s : State) : (raiseU code ps s).closing = s.closing := by unfold raiseU; simp only []; split <;> rfl
@[simp] theorem raiseU_seals (code : Nat) (ps : List Nat) (s : State) : (raiseU code ps s).seals = s.seals := by unfold raiseU; simp only []; split <;> rfl
@[simp] theorem raiseU_hw (code : Nat) (ps : List Nat) (s : State) : (raiseU code ps s).hw = s.hw := by unfold raiseU; simp only []; split <;> rfl
@[simp] theorem raiseU_obs (code : Nat) (ps : List Nat) (s : State) : (raiseU code ps s).obs = s.obs := by unfold raiseU; simp only []; split <;> rfl
@[simp] theorem raiseU_plc (code : Nat) (ps : List Nat) (s : State) : (raiseU code ps s).plc = s.plc := by unfold raiseU; simp only []; split <;> rfl
@[simp] theorem raiseU_radio (code : Nat) (ps : List Nat) (s : State) : (raiseU code ps s).radio = s.radio := by unfold raiseU; simp only []; split <;> rfl
@[simp] theorem raiseU_tstat (code : Nat) (ps : List Nat) (s : State) : (raiseU code ps s).tstat = s.tstat := by unfold raiseU; simp only []; split <;> rfl
@[simp] theorem raiseU_ingest (code : Nat) (ps : List Nat) (s : State) : (raiseU code ps s).ingest = s.ingest := by unfold raiseU; simp only []; split <;> rfl
@[simp] theorem raiseU_metro (code : Nat) (ps : List Nat) (s : State) : (raiseU code ps s).metro = s.metro := by unfold raiseU; simp only []; split <;> rfl
@[simp] theorem raiseU_store (code : Nat) (ps : List Nat) (s : State) : (raiseU code ps s).store = s.store := by unfold raiseU; simp only []; split <;> rfl
@[simp] theorem raiseU_time (code : Nat) (ps : List Nat) (s : State) : (raiseU code ps s).time = s.time := by unfold raiseU; simp only []; split <;> rfl
@[simp] theorem raiseU_keys (code : Nat) (ps : List Nat) (s : State) : (raiseU code ps s).keys = s.keys := by unfold raiseU; simp only []; split <;> rfl
@[simp] theorem raiseU_twin (code : Nat) (ps : List Nat) (s : State) : (raiseU code ps s).twin = s.twin := by unfold raiseU; simp only []; split <;> rfl
@[simp] theorem raiseU_bey (code : Nat) (ps : List Nat) (s : State) : (raiseU code ps s).bey = s.bey := by unfold raiseU; simp only []; split <;> rfl
@[simp] theorem raiseU_upd (code : Nat) (ps : List Nat) (s : State) : (raiseU code ps s).upd = s.upd := by unfold raiseU; simp only []; split <;> rfl
@[simp] theorem raiseU_nor (code : Nat) (ps : List Nat) (s : State) : (raiseU code ps s).nor = s.nor := by unfold raiseU; simp only []; split <;> rfl
@[simp] theorem raiseU_test (code : Nat) (ps : List Nat) (s : State) : (raiseU code ps s).test = s.test := by unfold raiseU; simp only []; split <;> rfl
@[simp] theorem raiseU_out (code : Nat) (ps : List Nat) (s : State) : (raiseU code ps s).out = s.out := by unfold raiseU; simp only []; split <;> rfl
@[simp] theorem raiseU_freeCtr (code : Nat) (ps : List Nat) (s : State) : (raiseU code ps s).freeCtr = s.freeCtr := by unfold raiseU; simp only []; split <;> rfl
@[simp] theorem raiseU_pending (code : Nat) (ps : List Nat) (s : State) : (raiseU code ps s).pending = s.pending := by unfold raiseU; simp only []; split <;> rfl

@[simp] theorem change_sys (src : Src) (block kind index : Nat) (value : Bytes) (s : State) : (change src block kind index value s).sys = s.sys := rfl
@[simp] theorem change_pll (src : Src) (block kind index : Nat) (value : Bytes) (s : State) : (change src block kind index value s).pll = s.pll := rfl
@[simp] theorem change_cap (src : Src) (block kind index : Nat) (value : Bytes) (s : State) : (change src block kind index value s).cap = s.cap := rfl
@[simp] theorem change_cov (src : Src) (block kind index : Nat) (value : Bytes) (s : State) : (change src block kind index value s).cov = s.cov := rfl
@[simp] theorem change_view (src : Src) (block kind index : Nat) (value : Bytes) (s : State) : (change src block kind index value s).view = s.view := rfl
@[simp] theorem change_snaps (src : Src) (block kind index : Nat) (value : Bytes) (s : State) : (change src block kind index value s).snaps = s.snaps := rfl
@[simp] theorem change_closing (src : Src) (block kind index : Nat) (value : Bytes) (s : State) : (change src block kind index value s).closing = s.closing := rfl
@[simp] theorem change_seals (src : Src) (block kind index : Nat) (value : Bytes) (s : State) : (change src block kind index value s).seals = s.seals := rfl
@[simp] theorem change_hw (src : Src) (block kind index : Nat) (value : Bytes) (s : State) : (change src block kind index value s).hw = s.hw := rfl
@[simp] theorem change_obs (src : Src) (block kind index : Nat) (value : Bytes) (s : State) : (change src block kind index value s).obs = s.obs := rfl
@[simp] theorem change_plc (src : Src) (block kind index : Nat) (value : Bytes) (s : State) : (change src block kind index value s).plc = s.plc := rfl
@[simp] theorem change_radio (src : Src) (block kind index : Nat) (value : Bytes) (s : State) : (change src block kind index value s).radio = s.radio := rfl
@[simp] theorem change_tstat (src : Src) (block kind index : Nat) (value : Bytes) (s : State) : (change src block kind index value s).tstat = s.tstat := rfl
@[simp] theorem change_ingest (src : Src) (block kind index : Nat) (value : Bytes) (s : State) : (change src block kind index value s).ingest = s.ingest := rfl
@[simp] theorem change_metro (src : Src) (block kind index : Nat) (value : Bytes) (s : State) : (change src block kind index value s).metro = s.metro := rfl
@[simp] theorem change_store (src : Src) (block kind index : Nat) (value : Bytes) (s : State) : (change src block kind index value s).store = s.store := rfl
@[simp] theorem change_time (src : Src) (block kind index : Nat) (value : Bytes) (s : State) : (change src block kind index value s).time = s.time := rfl
@[simp] theorem change_keys (src : Src) (block kind index : Nat) (value : Bytes) (s : State) : (change src block kind index value s).keys = s.keys := rfl
@[simp] theorem change_twin (src : Src) (block kind index : Nat) (value : Bytes) (s : State) : (change src block kind index value s).twin = s.twin := rfl
@[simp] theorem change_bey (src : Src) (block kind index : Nat) (value : Bytes) (s : State) : (change src block kind index value s).bey = s.bey := rfl
@[simp] theorem change_upd (src : Src) (block kind index : Nat) (value : Bytes) (s : State) : (change src block kind index value s).upd = s.upd := rfl
@[simp] theorem change_recorder (src : Src) (block kind index : Nat) (value : Bytes) (s : State) : (change src block kind index value s).recorder = s.recorder := rfl
@[simp] theorem change_nor (src : Src) (block kind index : Nat) (value : Bytes) (s : State) : (change src block kind index value s).nor = s.nor := rfl
@[simp] theorem change_test (src : Src) (block kind index : Nat) (value : Bytes) (s : State) : (change src block kind index value s).test = s.test := rfl
@[simp] theorem change_out (src : Src) (block kind index : Nat) (value : Bytes) (s : State) : (change src block kind index value s).out = s.out := rfl
@[simp] theorem change_freeCtr (src : Src) (block kind index : Nat) (value : Bytes) (s : State) : (change src block kind index value s).freeCtr = s.freeCtr := rfl
@[simp] theorem change_pending (src : Src) (block kind index : Nat) (value : Bytes) (s : State) : (change src block kind index value s).pending = s.pending := rfl

@[simp] theorem emit_sys (e : Emission) (s : State) : (emit e s).sys = s.sys := rfl
@[simp] theorem emit_pll (e : Emission) (s : State) : (emit e s).pll = s.pll := rfl
@[simp] theorem emit_cap (e : Emission) (s : State) : (emit e s).cap = s.cap := rfl
@[simp] theorem emit_work (e : Emission) (s : State) : (emit e s).work = s.work := rfl
@[simp] theorem emit_cov (e : Emission) (s : State) : (emit e s).cov = s.cov := rfl
@[simp] theorem emit_view (e : Emission) (s : State) : (emit e s).view = s.view := rfl
@[simp] theorem emit_snaps (e : Emission) (s : State) : (emit e s).snaps = s.snaps := rfl
@[simp] theorem emit_closing (e : Emission) (s : State) : (emit e s).closing = s.closing := rfl
@[simp] theorem emit_seals (e : Emission) (s : State) : (emit e s).seals = s.seals := rfl
@[simp] theorem emit_hw (e : Emission) (s : State) : (emit e s).hw = s.hw := rfl
@[simp] theorem emit_obs (e : Emission) (s : State) : (emit e s).obs = s.obs := rfl
@[simp] theorem emit_plc (e : Emission) (s : State) : (emit e s).plc = s.plc := rfl
@[simp] theorem emit_radio (e : Emission) (s : State) : (emit e s).radio = s.radio := rfl
@[simp] theorem emit_tstat (e : Emission) (s : State) : (emit e s).tstat = s.tstat := rfl
@[simp] theorem emit_ingest (e : Emission) (s : State) : (emit e s).ingest = s.ingest := rfl
@[simp] theorem emit_metro (e : Emission) (s : State) : (emit e s).metro = s.metro := rfl
@[simp] theorem emit_store (e : Emission) (s : State) : (emit e s).store = s.store := rfl
@[simp] theorem emit_time (e : Emission) (s : State) : (emit e s).time = s.time := rfl
@[simp] theorem emit_keys (e : Emission) (s : State) : (emit e s).keys = s.keys := rfl
@[simp] theorem emit_twin (e : Emission) (s : State) : (emit e s).twin = s.twin := rfl
@[simp] theorem emit_bey (e : Emission) (s : State) : (emit e s).bey = s.bey := rfl
@[simp] theorem emit_upd (e : Emission) (s : State) : (emit e s).upd = s.upd := rfl
@[simp] theorem emit_recorder (e : Emission) (s : State) : (emit e s).recorder = s.recorder := rfl
@[simp] theorem emit_nor (e : Emission) (s : State) : (emit e s).nor = s.nor := rfl
@[simp] theorem emit_test (e : Emission) (s : State) : (emit e s).test = s.test := rfl
@[simp] theorem emit_freeCtr (e : Emission) (s : State) : (emit e s).freeCtr = s.freeCtr := rfl
@[simp] theorem emit_pending (e : Emission) (s : State) : (emit e s).pending = s.pending := rfl

@[simp] theorem putFaultLink_sys (link : Nat) (l : FaultLink) (s : State) : (putFaultLink link l s).sys = s.sys := rfl
@[simp] theorem putFaultLink_pll (link : Nat) (l : FaultLink) (s : State) : (putFaultLink link l s).pll = s.pll := rfl
@[simp] theorem putFaultLink_cap (link : Nat) (l : FaultLink) (s : State) : (putFaultLink link l s).cap = s.cap := rfl
@[simp] theorem putFaultLink_work (link : Nat) (l : FaultLink) (s : State) : (putFaultLink link l s).work = s.work := rfl
@[simp] theorem putFaultLink_cov (link : Nat) (l : FaultLink) (s : State) : (putFaultLink link l s).cov = s.cov := rfl
@[simp] theorem putFaultLink_view (link : Nat) (l : FaultLink) (s : State) : (putFaultLink link l s).view = s.view := rfl
@[simp] theorem putFaultLink_snaps (link : Nat) (l : FaultLink) (s : State) : (putFaultLink link l s).snaps = s.snaps := rfl
@[simp] theorem putFaultLink_closing (link : Nat) (l : FaultLink) (s : State) : (putFaultLink link l s).closing = s.closing := rfl
@[simp] theorem putFaultLink_seals (link : Nat) (l : FaultLink) (s : State) : (putFaultLink link l s).seals = s.seals := rfl
@[simp] theorem putFaultLink_hw (link : Nat) (l : FaultLink) (s : State) : (putFaultLink link l s).hw = s.hw := rfl
@[simp] theorem putFaultLink_obs (link : Nat) (l : FaultLink) (s : State) : (putFaultLink link l s).obs = s.obs := rfl
@[simp] theorem putFaultLink_plc (link : Nat) (l : FaultLink) (s : State) : (putFaultLink link l s).plc = s.plc := rfl
@[simp] theorem putFaultLink_radio (link : Nat) (l : FaultLink) (s : State) : (putFaultLink link l s).radio = s.radio := rfl
@[simp] theorem putFaultLink_tstat (link : Nat) (l : FaultLink) (s : State) : (putFaultLink link l s).tstat = s.tstat := rfl
@[simp] theorem putFaultLink_ingest (link : Nat) (l : FaultLink) (s : State) : (putFaultLink link l s).ingest = s.ingest := rfl
@[simp] theorem putFaultLink_metro (link : Nat) (l : FaultLink) (s : State) : (putFaultLink link l s).metro = s.metro := rfl
@[simp] theorem putFaultLink_store (link : Nat) (l : FaultLink) (s : State) : (putFaultLink link l s).store = s.store := rfl
@[simp] theorem putFaultLink_time (link : Nat) (l : FaultLink) (s : State) : (putFaultLink link l s).time = s.time := rfl
@[simp] theorem putFaultLink_keys (link : Nat) (l : FaultLink) (s : State) : (putFaultLink link l s).keys = s.keys := rfl
@[simp] theorem putFaultLink_twin (link : Nat) (l : FaultLink) (s : State) : (putFaultLink link l s).twin = s.twin := rfl
@[simp] theorem putFaultLink_bey (link : Nat) (l : FaultLink) (s : State) : (putFaultLink link l s).bey = s.bey := rfl
@[simp] theorem putFaultLink_upd (link : Nat) (l : FaultLink) (s : State) : (putFaultLink link l s).upd = s.upd := rfl
@[simp] theorem putFaultLink_recorder (link : Nat) (l : FaultLink) (s : State) : (putFaultLink link l s).recorder = s.recorder := rfl
@[simp] theorem putFaultLink_nor (link : Nat) (l : FaultLink) (s : State) : (putFaultLink link l s).nor = s.nor := rfl
@[simp] theorem putFaultLink_out (link : Nat) (l : FaultLink) (s : State) : (putFaultLink link l s).out = s.out := rfl
@[simp] theorem putFaultLink_freeCtr (link : Nat) (l : FaultLink) (s : State) : (putFaultLink link l s).freeCtr = s.freeCtr := rfl
@[simp] theorem putFaultLink_pending (link : Nat) (l : FaultLink) (s : State) : (putFaultLink link l s).pending = s.pending := rfl

@[simp] theorem modPhase_sys (p : Nat) (f : PhaseState → PhaseState) (s : State) : (modPhase p f s).sys = s.sys := rfl
@[simp] theorem modPhase_pll (p : Nat) (f : PhaseState → PhaseState) (s : State) : (modPhase p f s).pll = s.pll := rfl
@[simp] theorem modPhase_cap (p : Nat) (f : PhaseState → PhaseState) (s : State) : (modPhase p f s).cap = s.cap := rfl
@[simp] theorem modPhase_work (p : Nat) (f : PhaseState → PhaseState) (s : State) : (modPhase p f s).work = s.work := rfl
@[simp] theorem modPhase_cov (p : Nat) (f : PhaseState → PhaseState) (s : State) : (modPhase p f s).cov = s.cov := rfl
@[simp] theorem modPhase_view (p : Nat) (f : PhaseState → PhaseState) (s : State) : (modPhase p f s).view = s.view := rfl
@[simp] theorem modPhase_snaps (p : Nat) (f : PhaseState → PhaseState) (s : State) : (modPhase p f s).snaps = s.snaps := rfl
@[simp] theorem modPhase_closing (p : Nat) (f : PhaseState → PhaseState) (s : State) : (modPhase p f s).closing = s.closing := rfl
@[simp] theorem modPhase_seals (p : Nat) (f : PhaseState → PhaseState) (s : State) : (modPhase p f s).seals = s.seals := rfl
@[simp] theorem modPhase_hw (p : Nat) (f : PhaseState → PhaseState) (s : State) : (modPhase p f s).hw = s.hw := rfl
@[simp] theorem modPhase_obs (p : Nat) (f : PhaseState → PhaseState) (s : State) : (modPhase p f s).obs = s.obs := rfl
@[simp] theorem modPhase_radio (p : Nat) (f : PhaseState → PhaseState) (s : State) : (modPhase p f s).radio = s.radio := rfl
@[simp] theorem modPhase_tstat (p : Nat) (f : PhaseState → PhaseState) (s : State) : (modPhase p f s).tstat = s.tstat := rfl
@[simp] theorem modPhase_ingest (p : Nat) (f : PhaseState → PhaseState) (s : State) : (modPhase p f s).ingest = s.ingest := rfl
@[simp] theorem modPhase_metro (p : Nat) (f : PhaseState → PhaseState) (s : State) : (modPhase p f s).metro = s.metro := rfl
@[simp] theorem modPhase_store (p : Nat) (f : PhaseState → PhaseState) (s : State) : (modPhase p f s).store = s.store := rfl
@[simp] theorem modPhase_time (p : Nat) (f : PhaseState → PhaseState) (s : State) : (modPhase p f s).time = s.time := rfl
@[simp] theorem modPhase_keys (p : Nat) (f : PhaseState → PhaseState) (s : State) : (modPhase p f s).keys = s.keys := rfl
@[simp] theorem modPhase_twin (p : Nat) (f : PhaseState → PhaseState) (s : State) : (modPhase p f s).twin = s.twin := rfl
@[simp] theorem modPhase_bey (p : Nat) (f : PhaseState → PhaseState) (s : State) : (modPhase p f s).bey = s.bey := rfl
@[simp] theorem modPhase_upd (p : Nat) (f : PhaseState → PhaseState) (s : State) : (modPhase p f s).upd = s.upd := rfl
@[simp] theorem modPhase_recorder (p : Nat) (f : PhaseState → PhaseState) (s : State) : (modPhase p f s).recorder = s.recorder := rfl
@[simp] theorem modPhase_nor (p : Nat) (f : PhaseState → PhaseState) (s : State) : (modPhase p f s).nor = s.nor := rfl
@[simp] theorem modPhase_test (p : Nat) (f : PhaseState → PhaseState) (s : State) : (modPhase p f s).test = s.test := rfl
@[simp] theorem modPhase_out (p : Nat) (f : PhaseState → PhaseState) (s : State) : (modPhase p f s).out = s.out := rfl
@[simp] theorem modPhase_freeCtr (p : Nat) (f : PhaseState → PhaseState) (s : State) : (modPhase p f s).freeCtr = s.freeCtr := rfl
@[simp] theorem modPhase_pending (p : Nat) (f : PhaseState → PhaseState) (s : State) : (modPhase p f s).pending = s.pending := rfl

@[simp] theorem modTx_sys (q : BitVec 16) (f : RadioTx → RadioTx) (s : State) : (modTx q f s).sys = s.sys := rfl
@[simp] theorem modTx_pll (q : BitVec 16) (f : RadioTx → RadioTx) (s : State) : (modTx q f s).pll = s.pll := rfl
@[simp] theorem modTx_cap (q : BitVec 16) (f : RadioTx → RadioTx) (s : State) : (modTx q f s).cap = s.cap := rfl
@[simp] theorem modTx_work (q : BitVec 16) (f : RadioTx → RadioTx) (s : State) : (modTx q f s).work = s.work := rfl
@[simp] theorem modTx_cov (q : BitVec 16) (f : RadioTx → RadioTx) (s : State) : (modTx q f s).cov = s.cov := rfl
@[simp] theorem modTx_view (q : BitVec 16) (f : RadioTx → RadioTx) (s : State) : (modTx q f s).view = s.view := rfl
@[simp] theorem modTx_snaps (q : BitVec 16) (f : RadioTx → RadioTx) (s : State) : (modTx q f s).snaps = s.snaps := rfl
@[simp] theorem modTx_closing (q : BitVec 16) (f : RadioTx → RadioTx) (s : State) : (modTx q f s).closing = s.closing := rfl
@[simp] theorem modTx_seals (q : BitVec 16) (f : RadioTx → RadioTx) (s : State) : (modTx q f s).seals = s.seals := rfl
@[simp] theorem modTx_hw (q : BitVec 16) (f : RadioTx → RadioTx) (s : State) : (modTx q f s).hw = s.hw := rfl
@[simp] theorem modTx_obs (q : BitVec 16) (f : RadioTx → RadioTx) (s : State) : (modTx q f s).obs = s.obs := rfl
@[simp] theorem modTx_plc (q : BitVec 16) (f : RadioTx → RadioTx) (s : State) : (modTx q f s).plc = s.plc := rfl
@[simp] theorem modTx_tstat (q : BitVec 16) (f : RadioTx → RadioTx) (s : State) : (modTx q f s).tstat = s.tstat := rfl
@[simp] theorem modTx_ingest (q : BitVec 16) (f : RadioTx → RadioTx) (s : State) : (modTx q f s).ingest = s.ingest := rfl
@[simp] theorem modTx_metro (q : BitVec 16) (f : RadioTx → RadioTx) (s : State) : (modTx q f s).metro = s.metro := rfl
@[simp] theorem modTx_store (q : BitVec 16) (f : RadioTx → RadioTx) (s : State) : (modTx q f s).store = s.store := rfl
@[simp] theorem modTx_time (q : BitVec 16) (f : RadioTx → RadioTx) (s : State) : (modTx q f s).time = s.time := rfl
@[simp] theorem modTx_keys (q : BitVec 16) (f : RadioTx → RadioTx) (s : State) : (modTx q f s).keys = s.keys := rfl
@[simp] theorem modTx_twin (q : BitVec 16) (f : RadioTx → RadioTx) (s : State) : (modTx q f s).twin = s.twin := rfl
@[simp] theorem modTx_bey (q : BitVec 16) (f : RadioTx → RadioTx) (s : State) : (modTx q f s).bey = s.bey := rfl
@[simp] theorem modTx_upd (q : BitVec 16) (f : RadioTx → RadioTx) (s : State) : (modTx q f s).upd = s.upd := rfl
@[simp] theorem modTx_recorder (q : BitVec 16) (f : RadioTx → RadioTx) (s : State) : (modTx q f s).recorder = s.recorder := rfl
@[simp] theorem modTx_nor (q : BitVec 16) (f : RadioTx → RadioTx) (s : State) : (modTx q f s).nor = s.nor := rfl
@[simp] theorem modTx_test (q : BitVec 16) (f : RadioTx → RadioTx) (s : State) : (modTx q f s).test = s.test := rfl
@[simp] theorem modTx_out (q : BitVec 16) (f : RadioTx → RadioTx) (s : State) : (modTx q f s).out = s.out := rfl
@[simp] theorem modTx_freeCtr (q : BitVec 16) (f : RadioTx → RadioTx) (s : State) : (modTx q f s).freeCtr = s.freeCtr := rfl
@[simp] theorem modTx_pending (q : BitVec 16) (f : RadioTx → RadioTx) (s : State) : (modTx q f s).pending = s.pending := rfl

@[simp] theorem raise_events (src : Src) (code : Nat) (ps : List Nat) (s : State) :
    (raise src code ps s).work.events = ⟨src, code, ps⟩ :: s.work.events := rfl
@[simp] theorem raise_changes (src : Src) (code : Nat) (ps : List Nat) (s : State) :
    (raise src code ps s).work.changes = s.work.changes := rfl
@[simp] theorem raise_log (src : Src) (code : Nat) (ps : List Nat) (s : State) : (raise src code ps s).work.log = s.work.log := rfl
@[simp] theorem raise_isOpen (src : Src) (code : Nat) (ps : List Nat) (s : State) :
    (raise src code ps s).work.isOpen = s.work.isOpen := rfl
@[simp] theorem change_changes (src : Src) (block kind index : Nat) (value : Bytes) (s : State) :
    (change src block kind index value s).work.changes = ⟨src, block, kind, index, value⟩ :: s.work.changes := rfl
@[simp] theorem change_events (src : Src) (block kind index : Nat) (value : Bytes) (s : State) :
    (change src block kind index value s).work.events = s.work.events := rfl
@[simp] theorem change_log (src : Src) (block kind index : Nat) (value : Bytes) (s : State) :
    (change src block kind index value s).work.log = s.work.log := rfl
@[simp] theorem change_isOpen (src : Src) (block kind index : Nat) (value : Bytes) (s : State) :
    (change src block kind index value s).work.isOpen = s.work.isOpen := rfl
@[simp] theorem emit_out (e : Emission) (s : State) : (emit e s).out = s.out ++ [e] := rfl
@[simp] theorem settlePins_pins (s : State) : (settlePins s).sys.pins = pinStates s := rfl
@[simp] theorem settlePins_mode (s : State) : (settlePins s).sys.mode = s.sys.mode := rfl

@[simp] theorem kept_sys (s t : State) : (kept s t).sys = t.sys := rfl
@[simp] theorem kept_pll (s t : State) : (kept s t).pll = t.pll := rfl
@[simp] theorem kept_cap (s t : State) : (kept s t).cap = t.cap := rfl
@[simp] theorem kept_work (s t : State) : (kept s t).work = t.work := rfl
@[simp] theorem kept_cov (s t : State) : (kept s t).cov = t.cov := rfl
@[simp] theorem kept_view (s t : State) : (kept s t).view = t.view := rfl
@[simp] theorem kept_snaps (s t : State) : (kept s t).snaps = t.snaps := rfl
@[simp] theorem kept_closing (s t : State) : (kept s t).closing = t.closing := rfl
@[simp] theorem kept_seals (s t : State) : (kept s t).seals = t.seals := rfl
@[simp] theorem kept_hw (s t : State) : (kept s t).hw = t.hw := rfl
@[simp] theorem kept_obs (s t : State) : (kept s t).obs = t.obs := rfl
@[simp] theorem kept_plc (s t : State) : (kept s t).plc = t.plc := rfl
@[simp] theorem kept_radio (s t : State) : (kept s t).radio = t.radio := rfl
@[simp] theorem kept_tstat (s t : State) : (kept s t).tstat = t.tstat := rfl
@[simp] theorem kept_ingest (s t : State) : (kept s t).ingest = t.ingest := rfl
@[simp] theorem kept_metro (s t : State) : (kept s t).metro = t.metro := rfl
@[simp] theorem kept_store (s t : State) : (kept s t).store = t.store := rfl
@[simp] theorem kept_time (s t : State) : (kept s t).time = t.time := rfl
@[simp] theorem kept_twin (s t : State) : (kept s t).twin = t.twin := rfl
@[simp] theorem kept_bey (s t : State) : (kept s t).bey = t.bey := rfl
@[simp] theorem kept_upd (s t : State) : (kept s t).upd = t.upd := rfl
@[simp] theorem kept_recorder (s t : State) : (kept s t).recorder = t.recorder := rfl
@[simp] theorem kept_test (s t : State) : (kept s t).test = t.test := rfl
@[simp] theorem kept_out (s t : State) : (kept s t).out = t.out := rfl
@[simp] theorem kept_freeCtr (s t : State) : (kept s t).freeCtr = t.freeCtr := rfl
@[simp] theorem kept_pending (s t : State) : (kept s t).pending = s.pending := rfl
@[simp] theorem kept_fuses (s t : State) : (kept s t).keys.fuses = s.keys.fuses := rfl
@[simp] theorem kept_image (s t : State) : (kept s t).nor.image = s.nor.image := rfl

/-! ### How a command answers -/

theorem done_eq (s t : State) : done s t = .next (kept s t) := rfl

theorem whenRunning_on {s : State} {f : State → State} (h : running s = true) : whenRunning s f = .next (kept s (f s)) := by
  simp [whenRunning, h, done_eq]

theorem whenRunning_off {s : State} {f : State → State} (h : running s = false) : whenRunning s f = .next s := by
  simp [whenRunning, h, done_eq, kept]

theorem whenProcessing_on {s : State} {f : State → State} (h : Processing s) :
    whenProcessing s f = .next (kept s (f s)) := by
  simp [whenProcessing, h.1, h.2, done_eq]

theorem whenProcessing_off {s : State} {f : State → State} (h : ¬ Processing s) : whenProcessing s f = .next s := by
  have : (running s && s.work.isOpen) = false := by
    cases hr : running s <;> cases ho : s.work.isOpen <;> simp_all [Processing]
  simp [whenProcessing, this, done_eq, kept]

theorem whenCapturing_on {s : State} {f : State → State} (h : capturing s = true) :
    whenCapturing s f = .next (kept s (f s)) := by
  simp [whenCapturing, h, done_eq]

theorem whenCapturing_off {s : State} {f : State → State} (h : capturing s = false) : whenCapturing s f = .next s := by
  simp [whenCapturing, h, done_eq, kept]

/-- A command that answers by `done` answers a next state and leaves the queue, the fuses and the image alone. -/
theorem done_frame {s t u : State} (h : done s t = .next u) :
    u.pending = s.pending ∧ u.keys.fuses = s.keys.fuses ∧ u.nor.image = s.nor.image := by
  cases h; exact ⟨rfl, rfl, rfl⟩

/-- A command that may burn fuses leaves the queue and the image alone. -/
theorem doneFuse_frame {s t u : State} (h : doneFuse s t = .next u) : u.pending = s.pending ∧ u.nor.image = s.nor.image := by
  cases h; exact ⟨rfl, rfl⟩

/-- A burned fuse stays burned. -/
theorem burnedInto_lifecycle (old new : Fuses) : (burnedInto old new).lifecycle = old.lifecycle ||| new.lifecycle := rfl

end Sys2Proof.Machine
end

