-- ==== Sys2Proof/WellFormed.lean ====
section
/-!
DEFINITION. Which commands are well formed: the ranges that an operand's own place in the spec gives it.
-/
namespace Sys2Proof

/-- The port of an originating input has 9 bits, and a log holds at most 16,384 entries (R22, R23). -/
def Org.wf (o : Org) : Bool := decide (o.port < 512) && decide (o.pos < 16384)

/-- A Beysyn session number is 0 to 63, and a message has at most 16,384 bytes with its header (R454, R457). -/
def Msg.wf (m : Msg) : Bool := m.org.wf && decide (m.session < 64) && decide (m.body.length + 16 ≤ 16384)

/-- A native PPDU is first detected on phase 1 to 3 and carries samples and gains of three phases (R117, R118). -/
def PpduIn.wf (p : PpduIn) : Bool :=
  decide (1 ≤ p.phase.toNat) && decide (p.samples.length = 3) && decide (p.phaseGain.length = 3)
    && p.snr.all (fun b => decide (b.length = 52))

/-- A captured length is a tick of R14 and the metrology hands over 32 channels (R293). -/
def BoundaryIn.wf (b : BoundaryIn) : Bool :=
  decide (7246376 ≤ b.lengthNs) && decide (b.lengthNs ≤ 11764706) && decide (b.outputs.length = 32)

/-- A body is at most 1 MiB (R23). -/
def LogEntry.wf (e : LogEntry) : Bool := decide (e.body.length ≤ 1048576)

/-- Which commands are well formed. -/
def Instr.wf : Instr → Bool
  | .zeroCrossing i => i.all (fun n => decide (0 < n))
  | .tickBoundary b => b.wf
  | .inputAppend e _ => e.wf
  | .ppduReceive p => p.wf
  | .ieee1901PpduReceive p => decide (1 ≤ p.phase.toNat)
  | .preambleDetect phase => decide (1 ≤ phase.toNat)
  | .radioFrameReceive f => decide (f.ctx < 32)
  | .balanceEvaluation f => decide (1 ≤ f) && decide (f ≤ 7)
  | .samplePreload b p => decide (b.length = 166) && decide (p.length = 166)
  | .dtlsHandshakeComplete c _ => decide (c.key.length = 64)
  | .sealRead m => m.wf | .recordRead m => m.wf | .payloadRead m => m.wf | .proofRead m => m.wf
  | .endpointGet m => m.wf | .setList m => m.wf | .lensObserve m => m.wf | .lensRecorder m => m.wf
  | .lensClear m => m.wf | .subscribe m => m.wf | .unsubscribe m => m.wf | .write m => m.wf
  | .stageOpen m => m.wf | .stageAdd m => m.wf | .stageCheck m => m.wf | .stageCommit m => m.wf
  | .stageDiscard m => m.wf | .setAbort m => m.wf | .lifecycle m => m.wf | .swapRequest m => m.wf
  | .updateOpen m => m.wf | .updateData m => m.wf | .updateVerify m => m.wf | .updateActivate m => m.wf
  | .updateAbort m => m.wf
  | _ => true

end Sys2Proof
end

