-- ==== Sys2Proof/Tests/Slice0.lean ====
section
/-!
SUPPORT. Small tests of the model: ill-formed commands, and a witness for each clause of the statements.
-/
namespace Sys2Proof.Tests

open Sys2Proof Sys2Proof.Machine

set_option maxRecDepth 100000

/-! ### States that the witnesses start from -/

/-- A unit that runs. -/
def on : State := { State.reset with sys.mode := .running }

/-- A unit that captures. -/
def cap : State := { on with cap.isOn := true }

/-- A unit that processes a log. -/
def proc : State := { on with work.isOpen := true }

/-- A robust frame to the M20 from link 1. -/
def nativeRx : PlcRx :=
  { org := ⟨1, 0⟩, tick := 0, mode := 0, payloadOk := true, robust := true, mapMiss := false, stepSymbol := none, link := 1,
    rate := 3, startStripe := 0, startOffset := 0, stripeMask := 0, mapSet := 0, meanSnr := 0, phaseGain := [],
    snr := [], dsn := 7, retry := false, srcAddr := 1, dest := 0xFFE, route := none }

/-- A unit that processes a log, with a valid powerline link 1 to the endpoint of slot 0. -/
def linked : State :=
  { proc with cov.tables.links := [(1, ⟨⟨0, true, false, true, false, false⟩, .plc PlcPart.initial⟩)],
              cov.tables.endpoints := [(0, { Endpoint.blank with state := .active })] }

/-- A frame of an upstream endpoint, without security. -/
def frameIn : Upstream :=
  { org := ⟨1, 0⟩, eui := 5, dsn := 0, retry := false, fc := none, secured := false, tagOk := false, keyGen := false,
    hwDup := false, radio := none }

/-- A short broadcast frame of queue number 5, for slot stripe 2. -/
def plcFrame : PlcTx := ⟨5, 0, 0, 0xFFF, 0xFFF, 0, 1, true, false, false, [], 2, 0, false, []⟩

/-- A queued radio frame on channel 3. -/
def radioTx : RadioTx := ⟨5, 1, ⟨false, 3⟩, 0, 7, 1, 0, 0, 0, .queued, [1]⟩

/-- The state of `proc` with the log of tick 1000. -/
def procAt : State := { proc with work.log.tick := 1000 }

/-- A unit that runs, with a store of two LUNs of four blocks of two pages of two grains. -/
def storing : State :=
  { on with store.lunSet := [0, 1], store.perLun := 4, store.pages := 2, store.perPage := 2, store.mode := .fine }

/-- A member of a pair that runs, its link up. -/
def paired : State :=
  { on with hw.records := [(0x0901 * 65536, 1 :: List.replicate 63 0)], cov.sys.records := [(0x0901 * 65536, 1 :: List.replicate 63 0)],
            twin.role := .mirror, twin.standby := .synced, twin.linkUp := true }

/-- The header of a sound frame with number 0 of tick 9. -/
def hdr : HolhamHdr := ⟨true, false, 0, 9⟩

/-- A member of a pair that waits for HELLO with the link up. -/
def waiting : State := { paired with sys.mode := .waiting, twin.standby := .starting }

/-- An ORPHANED mirror of a pair with a witness. -/
def orphan : State :=
  { paired with twin.standby := .orphaned, hw.records := [(0x0901 * 65536, 1 :: List.replicate 7 0 ++ List.replicate 24 1)], bey.witnessUp := true }

/-- A unit that processes a log, with session 3 carried by the DTLS engine and no ACCESS record. -/
def talking : State :=
  { procAt with bey.sessions := [(3, ⟨1, 2, 0, [], 0, [], none, none⟩)], bey.dtls := [(3, ⟨1, 2, 0, [], 0, true⟩)] }

/-- A message of session 3 at position 4 of the log. -/
def msg (body : List Byte) : Msg := ⟨⟨0, 4⟩, 3, 1, 7, body⟩

/-- `talking` with an ACCESS record that gives every client every right, with given bits of the life-cycle record. -/
def ruled (l : BitVec 20) : State :=
  { talking with view.sys.records := [(0x0A01 * 65536, [0, 0, 255, 255, 127, 0, 64, 0])], view.keys.record.lifecycle := l }

/-- The session of `talking`. -/
def client3 : Session := ⟨1, 2, 0, [], 0, [], none, none⟩

/-- `ruled` in log 1000 with an update session of session 3's client. -/
def updating (u : UpdSession) : State := { ruled 3 with work.log.tick := 1000, cov.upd.session := some u }

/-- A session of a Delta of 8 bytes for this unit. -/
def delta8 (received : Nat) (pending : Bool) : UpdSession := ⟨0, false, pending, 8, received, 0, 0, [], 1100, []⟩

/-! ### Ill-formed commands, one for each check of `Instr.wf`, and well-formed ones beside them -/

theorem test_wf_crossing : Instr.wf (.zeroCrossing (some 0)) = false ∧ Instr.wf (.zeroCrossing (some 1)) = true := by decide

/-- A boundary of a 10 ms tick. -/
def edge10 : BoundaryIn := ⟨⟨0, 0⟩, 10000000, 0, false, List.replicate 32 [], [[], [], []], false⟩

theorem test_wf_boundary_lengths :
    Instr.wf (.tickBoundary edge10) = true ∧ Instr.wf (.tickBoundary { edge10 with lengthNs := 7246375 }) = false ∧
    Instr.wf (.tickBoundary { edge10 with lengthNs := 11764707 }) = false := by decide

theorem test_wf_boundary_outputs : Instr.wf (.tickBoundary { edge10 with outputs := [] }) = false := by decide

theorem test_wf_log_entry :
    Instr.wf (.inputAppend ⟨0, 1, 0, List.replicate 1048577 0, none⟩ none) = false := by
  simp only [Instr.wf, LogEntry.wf, List.length_replicate]; decide

/-- A native PPDU with empty samples, first detected on a given phase. -/
def ppduOn (phase : BitVec 2) : PpduIn :=
  ⟨phase, true, ⟨0, 0, 0, 0, 0, 0, 0, 0⟩, 1, 0, 0, 0, [[], [], []], [], [0, 0, 0], 0, [], []⟩

theorem test_wf_ppdu_phase : Instr.wf (.ppduReceive (ppduOn 1)) = true ∧ Instr.wf (.ppduReceive (ppduOn 0)) = false := by decide

theorem test_wf_ppdu_parts :
    Instr.wf (.ppduReceive { ppduOn 1 with samples := [] }) = false ∧ Instr.wf (.ppduReceive { ppduOn 1 with phaseGain := [] }) = false ∧
    Instr.wf (.ppduReceive { ppduOn 1 with snr := [[]] }) = false := by decide

theorem test_wf_phases :
    Instr.wf (.ieee1901PpduReceive ⟨0, 0, true, 0, []⟩) = false ∧ Instr.wf (.preambleDetect 0) = false ∧
    Instr.wf (.preambleDetect 3) = true := by decide

theorem test_wf_radio_context :
    Instr.wf (.radioFrameReceive ⟨32, true, false, .data, true, true, 0, none, 0, 0, none, 0, 0, ⟨0, 0⟩, 0, [], false, none⟩) =
      false := by decide

theorem test_wf_feeder : Instr.wf (.balanceEvaluation 0) = false ∧ Instr.wf (.balanceEvaluation 8) = false ∧
    Instr.wf (.balanceEvaluation 7) = true := by decide

theorem test_wf_preload : Instr.wf (.samplePreload [] (List.replicate 166 false)) = false ∧
    Instr.wf (.samplePreload (List.replicate 166 false) []) = false := by decide

theorem test_wf_client_key : Instr.wf (.dtlsHandshakeComplete ⟨0, 0, 0, [], true⟩ 0) = false := by decide

theorem test_wf_message_org :
    Instr.wf (.sealRead { msg [] with org := ⟨512, 0⟩ }) = false ∧ Instr.wf (.write { msg [] with org := ⟨511, 16384⟩ }) = false ∧
    Instr.wf (.write { msg [] with org := ⟨511, 16383⟩ }) = true := by decide

theorem test_wf_message_session : Instr.wf (.updateData { msg [] with session := 64 }) = false := by decide

theorem test_wf_message_length : Instr.wf (.stageAdd (msg (List.replicate 16369 0))) = false := by
  simp only [Instr.wf, Msg.wf, Org.wf, msg, List.length_replicate]; decide

/-! ### Worked examples of the spec -/

theorem test_step_idles_on_empty_queue : Machine.step Machine.State.reset = .next Machine.State.reset := rfl

/-- The example under R170: channel 0 of the 863-876 MHz band lies in bin 64 with a residual of +25 kHz. -/
theorem test_channel_bins :
    binOf false ⟨false, 0⟩ = 64 ∧ residual false ⟨false, 0⟩ = 25 ∧ binOf true ⟨false, 113⟩ = 145 ∧
    residual true ⟨false, 113⟩ = 0 ∧ binOf true ⟨true, 0⟩ = 33 ∧ residual true ⟨true, 0⟩ = -100 := by decide

/-- The three prefixes of the example of chapter 6 and its three lookups. -/
theorem test_longest_match :
    let rs : List Route := [⟨0xFE80000000000000, 64, .toLocal⟩, ⟨0x20010DB84A000000, 40, .toChild 3⟩,
      ⟨0x20010DB84A170000, 48, .toChild 9⟩, ⟨0x20010DB84A172C00, 56, .toLocal⟩]
    (longestMatch rs 0x20010DB84A172C05).map (·.action) = some .toLocal ∧
    (longestMatch rs 0x20010DB84A179E00).map (·.action) = some (.toChild 9) ∧ longestMatch rs 0x20010DB84B000000 = none := by
  decide

/-- The item of the example of chapter 13, 20 bytes in all. -/
theorem test_endpoint_item :
    parseItems 1 [0x03, 0x00, 0x10, 0x00, 0x70, 0xB3, 0xD5, 0xFF, 0x00, 0x21, 0x4C, 0x07, 0x00, 0x01, 0x00, 0x00, 0x00, 0x00,
        0x2A, 0x10] =
      some [⟨3, [0x70, 0xB3, 0xD5, 0xFF, 0x00, 0x21, 0x4C, 0x07, 0x00, 0x01, 0x00, 0x00, 0x00, 0x00, 0x2A, 0x10]⟩] := by decide

/-- The input of the first derivation in the example of chapter 11. -/
theorem test_group_key_input (k : Bytes) :
    kdf k (kdfLabel 0x47 0x4B) (le 2 42) 128 =
      (cmac k [0x01, 0x57, 0x4C, 0x53, 0x2D, 0x47, 0x4B, 0x00, 0x2A, 0x00, 0x00, 0x80] ++ []).take 16 := rfl

/-- The message digest of "abc" as its standard publishes it. -/
theorem test_sha256_abc :
    ofBe (sha256 [0x61, 0x62, 0x63]) = 0xBA7816BF8F01CFEA414140DE5DAE2223B00361A396177A9CB410FF61F20015AD := by decide +kernel

/-- The links of the example of chapter 4, every capability and candidate as given there. -/
def repeaterLinks : State :=
  let none4 : Cand := ⟨0, false, 0⟩
  let peer (rep : Bool) : Peer := ⟨0, true, false, true, rep, false⟩
  let part (q : BitVec 32) (c : List Cand) : PlcPart :=
    { PlcPart.initial with map := List.replicate 416 4, unconfirmed := false, directQ := q, cand := c ++ List.replicate (4 - c.length) none4 }
  { on with cov.tables.links :=
      [(0x107, ⟨peer true, .plc (part 0xBBA99ABB [])⟩),
       (0x388, ⟨peer true, .plc (part 0x55544555 [])⟩),
       (0x412, ⟨peer false, .plc (part 0x11100211 [⟨0x107, true, 0x88766788⟩, ⟨0x388, true, 0x99999999⟩])⟩)] }

/-- Every stripe of the example costs 140 through 0x0107, so stripe 0 is the slot stripe. -/
theorem test_repeater_path : choosePath repeaterLinks false 0x412 2 = some (0, ⟨140, 2, [0x107]⟩) := by decide +kernel

theorem wit_StepRunsFrontCommand : ({ State.reset with pending := [.idcode] } : State).pending = .idcode :: [] := rfl

theorem wit_StepIdlesOnEmptyQueue : State.reset.pending = [] := rfl

/-- A start with an empty board but for an unsigned image whose SYSTEM record names a REGION of 3. -/
def misusedStart : StartIn :=
  let body := le 2 1 ++ le 2 8 ++ zeros 4 ++ [3, 0, 1, 0, 0, 0, 0, 0] ++ zeros 8
  let head := le 4 0x49434C57 ++ le 2 1 ++ le 2 0x80 ++ le 4 (0xC0 + body.length) ++ le 4 2 ++ le 4 1 ++ [0xFF] ++ zeros 83
    ++ le 4 (crc32 body).toNat ++ zeros 16
  { region := 0, boot := some ⟨1, 0, [], 0, true⟩, image := some (head ++ le 4 (crc32 head).toNat ++ body ++ zeros 64),
    pfailLow := false, bootMs := 0, nand := ⟨2, 2048, 64, 4, []⟩, mapLost := false, stateLost := none, tamper := none,
    peerLow := false }

theorem misused_image : imageBlank (release misusedStart State.reset).nor.image = false
    ∧ (∀ q, imageMisused q (imageRecords (release misusedStart State.reset).nor.image) = true)
    ∧ (checkImage (unlock (release misusedStart State.reset)) (unlock (release misusedStart State.reset)).nor.image).1 = 0 := by
  decide +kernel

theorem misused_plan : ∀ info : ImageInfo, ∀ img, ∀ l,
    storePlan (testWanted (unlock (release misusedStart State.reset)) img) (unlock (release misusedStart State.reset)).store info
      ≠ .mismatch l ∧
    storePlan (testWanted (unlock (release misusedStart State.reset)) img) (unlock (release misusedStart State.reset)).store info
      ≠ .chain l := by
  intro info img l
  have h : (unlock (release misusedStart State.reset)).store.anchorBlocks.isEmpty = true := by decide
  constructor <;> (unfold storePlan; rw [if_pos h]; exact fun h => nomatch h)

theorem wit_CommandsLeaveQueueAndImage_fault :
    State.reset.sys.mode = .inReset ∧ State.reset.test.resetLow = false ∧ misusedStart.pfailLow = false
    ∧ startMisused misusedStart State.reset (startUnit misusedStart State.reset) = true := by
  refine ⟨rfl, rfl, rfl, ?_⟩
  obtain ⟨hb, hm, hc⟩ := misused_image
  obtain ⟨x, hx⟩ := recoverStart_enters misusedStart State.reset.sys.vbat.stage State.reset.sys.pfailWait _ _ _
    (unlock (release misusedStart State.reset)) (fun l => misused_plan
      (checkImage (unlock (release misusedStart State.reset)) (unlock (release misusedStart State.reset)).nor.image).2.1
      (startRecords _ _ _
        (checkImage (unlock (release misusedStart State.reset)) (unlock (release misusedStart State.reset)).nor.image).2.2) l)
  have e := startUnit_eq misusedStart State.reset (by decide) rfl rfl (cause := 0)
    (info := (checkImage (unlock (release misusedStart State.reset)) (unlock (release misusedStart State.reset)).nor.image).2.1)
    (img := (checkImage (unlock (release misusedStart State.reset)) (unlock (release misusedStart State.reset)).nor.image).2.2)
    (by rw [← hc])
  rw [if_neg (by decide), hx] at e
  unfold startMisused
  rw [e]
  simp only [hb, hm]
  rcases enterService_mode x with h | h
  · simp [h]
  · simp [h.1]

theorem wit_CommandsLeaveQueueAndImage_next : ∃ t, exec (.fuseBurn true) on = .next t := ⟨_, rfl⟩

theorem wit_FusesOnlyBurn : step State.reset = .next State.reset := rfl

/-- A unit whose SCRAP fuse is burned. -/
def scrapped : State := { State.reset with keys.fuses.lifecycle := 0x80000 }

theorem wit_ScrapIsFinal : Follows [scrapped, scrapped] ∧ decodeLife scrapped.keys.fuses.lifecycle.toNat = .scrap :=
  ⟨⟨rfl, trivial⟩, by decide⟩

theorem wit_TickLockStates :
    (clockOn on = true ∧ on.pll.lock = .freeRun ∧ periodsOk 1 10000000 = true
      ∧ averageOk ((10000000 :: on.pll.intervals).take 8) = true)
    ∧ (let s : State := { on with pll.lock := .acquiring, pll.intervals := List.replicate 8 10000000, pll.run := 31 }
       clockOn s = true ∧ within2 10000000 10000000 = true ∧ averageOk ((10000000 :: s.pll.intervals).take 8) = true
         ∧ 31 ≤ s.pll.run)
    ∧ clockOn { on with pll.lock := .locked } = true := by decide

theorem wit_InputTakesItsPlace :
    Taking cap ∧ cap.cap.log.takes ⟨5, 7, 0, [], none⟩ = true ∧ queueRoom cap ⟨5, 7, 0, [], none⟩ = true := by decide

theorem wit_DeferredInputsGoFirst :
    (let e : LogEntry := ⟨5, 7, 0, [], none⟩
     let s : State := { cap with cap.queue := [e], cap.carried := 1 }
     capturing s = true ∧ s.twin.role = .single ∧ s.cap.log.takes e = true)
    ∧ (let e : LogEntry := ⟨5, 7, 0, [], none⟩
       let s : State := { cap with cap.released := [e] }
       capturing s = true ∧ s.twin.role = .single ∧ s.cap.queue = [] ∧ s.cap.carried = 0 ∧ s.cap.log.takes e = true) := by decide

/-- A unit that captures active edges on every input. -/
def capEdges : State := { cap with hw.records := [(recKey 0x0701 0, List.replicate 64 0xFF)] }

theorem wit_CapturedEdges :
    (Taking capEdges ∧ captureOn capEdges 0 = true ∧ (pinInput capEdges 0).entry = none
      ∧ capEdges.cap.log.takes ⟨0, 4, 0, captureBytes 0 true ⟨⟨0, 0, 0⟩, 0⟩, none⟩ = true)
    ∧ (pinInput (setPin 0 { pinInput capEdges 0 with entry := some ⟨⟨0, 0, 0⟩, 65535⟩ } capEdges) 0).entry = some ⟨⟨0, 0, 0⟩, 65535⟩
    ∧ (let s := setPin 1 { pinInput proc 1 with heldRun := 1000 } { proc with work.handled := [(0x3000, 0)] }
       Processing s ∧ s.work.handled.contains (0x3000, 0) = true ∧ 1000 ≤ (pinInput s 1).heldRun ∧ (pinInput s 1).stuck = false)
    ∧ (let s := setPin 1 { pinInput proc 1 with stuck := true } { proc with work.handled := [(0x3000, 0)] }
       Processing s ∧ s.work.handled.contains (0x3000, 0) = true ∧ (pinInput s 1).stuck = true) := by decide

theorem wit_SealIsBuilt : Processing proc ∧ proc.twin.role ≠ .mirror := by decide

theorem wit_TickTurns :
    (let s : State := { on with sys.firstTick := true }
     running s = true ∧ Alone s ∧ Rested s ∧ s.cap.isOn = false ∧ s.sys.firstTick = true)
    ∧ (let s : State := { cap with keys.starting := false }
       running s = true ∧ Alone s ∧ Rested s ∧ s.cap.isOn = true ∧ activates s s.cap.tick = false ∧ s.keys.starting = false)
    ∧ clockOn State.reset = false := by decide

theorem wit_ResetsReturnToPowerUp :
    coreRuns on = true ∧ (on.keys.fuses.tamper ||| on.hw.record.tamper).getLsbD 8 = false ∧ clockOn on = true ∧ Processing proc
    ∧ (let s : State := { on with sys.mode := .gaspDone, sys.vbat.stage := 3 }
       s.sys.mode = .gaspDone ∧ s.sys.vbat.stage = 3)
    ∧ hwLifeState on ≠ .scrap := by decide

theorem wit_LastGaspEndsTheTick :
    (let s : State := { cap with sys.firstTick := false }
     clockOn s = true ∧ s.upd.deadWindow = false ∧ capturing s = true ∧
      (s.sys.firstTick = false ∨ s.twin.role = .mirror ∨ s.sys.mode ≠ .running))
    ∧ (let s : State := { on with upd.deadWindow := true }
       clockOn s = true ∧ s.upd.deadWindow = true)
    ∧ (let s : State := { on with sys.firstTick := true }
       s.sys.mode = .running ∧ s.upd.deadWindow = false ∧ s.sys.firstTick = true ∧ s.twin.role ≠ .mirror) := by decide

/-- A start with an empty board, straps at 0, and the boot header that the factory writes. -/
def startIn : StartIn :=
  { region := 0, boot := some ⟨1, 0, [], 0, true⟩, image := none, pfailLow := false, bootMs := 0,
    nand := ⟨2, 2048, 64, 4, []⟩, mapLost := false, stateLost := none, tamper := none, peerLow := false }

theorem wit_StartBringsUpTheUnit :
    (State.reset.sys.mode = .inReset ∧ State.reset.test.resetLow = false ∧ { startIn with pfailLow := true }.pfailLow = true)
    ∧ ({ State.reset with sys.mode := .pfailHeld } : State).sys.mode = .pfailHeld
    ∧ ({ State.reset with test.resetLow := true } : State).test.resetLow = true
    ∧ (release { startIn with boot := some ⟨1, 0, [], 0, false⟩ } State.reset).nor.boot.any (·.sound) = false
    ∧ (let u := unlock (release { startIn with image := some [0] } State.reset)
       u.nor.boot.any (·.sound) = true ∧ State.reset.keys.latch = none ∧ startIn.tamper = none
         ∧ 2 ≤ (checkImage u u.nor.image).1)
    ∧ (let u := unlock (release startIn State.reset)
       let c := checkImage u u.nor.image
       let recs := startRecords u.nor.journal (lifeState u == .quarantine) c.2.1 c.2.2
       u.nor.boot.any (·.sound) = true ∧ c.1 < 2 ∧ storePlan (testWanted u recs) u.store c.2.1 = .format false
         ∧ imageBlank (release startIn State.reset).nor.image = true)
    ∧ (let s : State := { on with sys.mode := .waiting, twin.waitingHello := true }
       s.sys.mode = .waiting ∧ s.twin.waitingHello = true) := by decide

theorem wit_SupplyOfTheVbatDomain :
    (State.reset.keys.fuses.tamper ||| State.reset.hw.record.tamper).getLsbD 9 = false
    ∧ (let s : State := { State.reset with keys.fuses.tamper := 0x200, hw.record.lifecycle := 3 }
       (s.keys.fuses.tamper ||| s.hw.record.tamper).getLsbD 9 = true ∧ s.sys.mode = .inReset ∧ hwLifeState s = .field)
    ∧ (clockOn on = true ∧ 2499 < 2500 ∧ 2500 ≤ 2500)
    ∧ (on.keys.fuses.tamper ||| on.hw.record.tamper).getLsbD 8 = false
    ∧ (let s : State := { on with hw.records := [(recKey 0x0002 1, [1, 0, 5, 0])] }
       clockOn s = true ∧ hwCfg s 0x0002 1 2 1 0xFF ≠ 0xFF ∧ hwCfg s 0x0002 1 0 1 1 ≠ 0) := by decide

theorem wit_TestPortInstructions :
    ((List.replicate 166 true).length = 166)
    ∧ hwLifeState on = .manufacture
    ∧ (let s : State := { on with hw.record.lifecycle := 3 }
       hwLifeState s ≠ .manufacture ∧ hwLifeState s ≠ .provision)
    ∧ hwLifeState { on with hw.record.lifecycle := 0x80000 } = .scrap := by decide

theorem wit_NorAndRecorderWrites :
    (let s : State := { on with nor.journal.due := [(0, .drop 0 0)], store.durable := some 0 }
     norOn s = true ∧ s.nor.journal.due = [(0, .drop 0 0)] ∧ s.nor.journal.frozen = false ∧ isDurable s 0 = true ∧ s.keys.vaultDue = [])
    ∧ (let s : State := { on with nor.journal.due := [(0, .drop 0 0)] }
       isDurable s 0 = false)
    ∧ (let e : EventRec := EventRec.unsealed 0 0 0 0 []
       let s : State := { on with recorder.staging := List.replicate 128 e }
       norOn s = true ∧ s.store.writeProtect = false ∧ s.recorder.noGrain = false
         ∧ 128 - s.recorder.base % 128 ≤ s.recorder.staging.length)
    ∧ on.recorder.staging.length < 128 - on.recorder.base % 128 := by decide

/-- A native data PPDU of no symbols on L1, robust, and decoded. -/
def ppdu : PpduIn := ⟨1, true, ⟨0, 3, 0, 0, 0, 0, 0, 0⟩, 1, 0, 0, 0, [], [], [], 0, [], [1, 2]⟩

theorem wit_PowerlineReception :
    (capturing cap = true ∧ nativeOn cap 1 = true ∧ cap.plc.onAir = none ∧ cap.plc.reception = none)
    ∧ (let s : State := { cap with plc.reception := some 1 }
       s.plc.reception.isSome = true)
    ∧ { ppdu with fcOk := false }.fcOk = false
    ∧ (Taking cap ∧ ppdu.fcOk = true ∧ faultOn cap 1 true = false ∧ (faultLink cap 1).held = none ∧ ppduRobust ppdu = true
        ∧ ppdu.fc.ppduType ≠ 1 ∧ ppdu.cwFailed = 0 ∧ cap.cap.log.takes ⟨1, 1, 0, zeros 40, none⟩ = true)
    ∧ ieeeOn cap 1 = true := by decide

theorem wit_PowerlineTransmission :
    (let s : State := { cap with plc.queue := [plcFrame] }
     s.plc.onAir = none ∧ s.plc.reception = none ∧ planOpen s.hw.records 2 = true
       ∧ governor s (2 * s.pll.stripeNs + 0) (frameProjection s plcFrame 2 0) = .admitted
       ∧ faultOn s (homePort s plcFrame.link) false = false)
    ∧ planOpen [(recKey 0x0102 0, [0, 1, 0, 0, 0x30, 0])] 2 = false
    ∧ (let a : PlcOnAir := ⟨1, false, true, false, 0xFFF, 0, 1, 5, 0, 2, 0, 10⟩
       let s : State := { cap with plc.onAir := some a }
       Taking s ∧ s.cap.log.takes ⟨1, 1, 0, plcReportBytes a 0 false, none⟩ = true)
    ∧ (let l : PlcLaunchEntry := ⟨.stripe 0 0, 1, 0xFFF, 0, 7, false, []⟩
       let s : State := { cap with plc.launches := [l] }
       capturing s = true ∧ anchorDue s 0 l.anchor = true ∧ faultOn s (launchPort l s) false = false
         ∧ governor s (0 * s.pll.stripeNs + 0) (launchProjection l s) = .admitted) := by decide

theorem wit_NativeFrameRows :
    (Processing proc ∧ { nativeRx with payloadOk := false }.payloadOk = false ∧ { nativeRx with dest := 5 }.dest ≠ 0xFFE
      ∧ (linkEntry (plcDescribe (plcSrc nativeRx proc) nativeRx proc) 1).plc? = none)
    ∧ (let r := { nativeRx with retry := true, dsn := 0 }
       let x := plcDescribe (plcSrc r linked) r linked
       Processing linked ∧ (linkEntry x 1).plc?.isSome = true ∧ (endpoint x 0).lastDsn = r.dsn ∧ r.retry = true)
    ∧ (let x := plcDescribe (plcSrc nativeRx linked) nativeRx linked
       nativeRx.dest = 0xFFE ∧ (linkEntry x 1).plc?.isSome = true ∧ ¬((endpoint x 0).lastDsn = nativeRx.dsn ∧ nativeRx.retry = true))
    ∧ hopReceiver { nativeRx with dest := 5 } ≠ 0xFFE := by decide

/-- A JOIN_REQUEST as an unrouted frame of an unknown peer. -/
def joinRx : PlcRx := { nativeRx with srcAddr := 0xFFF }

/-- A unit that processes a log and lets new endpoints join. -/
def learning : State := { proc with cov.sys.records := [(recKey 0x0102 0, zeros 16)] }

theorem wit_JoinsAndIeee1901 :
    (Processing proc ∧ { joinRx with dest := 1 }.dest ≠ 0xFFE)
    ∧ (let s : State := { proc with cov.sys.records := [(recKey 0x0102 0, [0, 0, 0, 2, 0, 0, 0, 0])] }
       Processing s ∧ joinBarred s 5 = true)
    ∧ (let y := learn (Src.onInput (euiEngine learning 5) joinRx.org) 5 1 0 (some 0) learning
       joinBarred learning 5 = false ∧ y.1 = some 0
         ∧ grantLink (modEndpoint (Src.onInput (euiEngine learning 5) joinRx.org) 0 (fun x => { x with lastDsn := 7 }) y.2) 0 false 0 = .fresh 0
         ∧ joinRx.route = none)
    ∧ proc.plc.queue.length < 256 := by decide

theorem wit_PowerlineTimers :
    (let s : State := { proc with plc.waiting := [(0, plcFrame)] }
     Processing s ∧ s.plc.waiting.find? (fun w => w.2.queueId == 5 && !false) = some (0, plcFrame))
    ∧ (let s : State := { procAt with plc.queue := [plcFrame] }
       Processing s ∧ s.plc.queue.find? (fun f => f.queueId == 5 && !f.sending) = some plcFrame
         ∧ plcFrame.queued.toNat + cfg s 0x0102 0 0xC 2 256 < s.work.log.tick.toNat)
    ∧ (let s : State := { proc with plc.queue := [plcFrame] }
       s.work.log.tick.toNat ≤ plcFrame.queued.toNat + cfg s 0x0102 0 0xC 2 256)
    ∧ ({ procAt with plc.sounding := some (1, 0) } : State).plc.sounding = some (1, 0)
    ∧ (Processing linked ∧ soundingIsDue linked 1 = true ∧ linked.plc.sounding = none ∧ (linkEntry linked 1).plc?.isSome = true
        ∧ (linkEntry linked 1).peer.direct = true ∧ (linkEntry linked 1).peer.ieee1901 = false)
    ∧ (let s : State := { proc with work.log.tick := 10000, plc.frags := [(5, ⟨0, 0, false⟩, 0)] }
       s.plc.frags.find? (fun f => f.1 == 5 && decide (f.2.2.toNat + 60 * ticksPerS s ≤ s.work.log.tick.toNat)) = some (5, ⟨0, 0, false⟩, 0))
    ∧ (let s : State := { proc with work.log.tick := 254 }
       cfg s 0x0102 0 0 2 256 ≠ 0 ∧ (s.work.log.tick.toNat + 2) % cfg s 0x0102 0 0 2 256 = 0
         ∧ s.work.handled.contains (0x1000, 256) = false ∧ s.plc.launches.length < 64) := by decide

/-- A frame with a good FCS in context 8 on channel 3, for nobody. -/
def radioIn : RadioIn :=
  { ctx := 8, fcsOk := true, modeSwitch := false, kind := .data, version2 := false, ackReq := false, dsn := 1,
    fc := none, pan := 0, dest := none, eui := 9, sfdEnd := ⟨0, 0⟩, rssiA := 0, rssiB := 0, freqOffset := 0, psdu := [1],
    mesh := false, frag := none }

/-- A unit that captures with a frame under way in context 8. -/
def radioCap : State := { cap with radio.ctx := (List.replicate 32 none).set 8 (some ⟨⟨false, 3⟩, 0, true, false, 0, none, false⟩) }

theorem wit_RadioReception :
    (running cap = true ∧ radioOnOf cap.hw.records cap.sys.region = true ∧ testBit (radioModes cap.hw.records) 0 = true
      ∧ (channelsInUse cap.hw.records (band900 cap)).contains ⟨false, 3⟩ = true ∧ cap.radio.chain0 = none
      ∧ ∀ i, i < 32 → (armUntil 0 cap).radio.ctx.getD i none = none)
    ∧ (channelsInUse cap.hw.records (band900 cap)).contains ⟨false, 999⟩ = false
    ∧ (running radioCap = true ∧ radioCap.radio.ctx.getD radioIn.ctx none = some ⟨⟨false, 3⟩, 0, true, false, 0, none, false⟩)
    ∧ (radioIn.modeSwitch = false ∧ faultOn radioCap 4 true = false ∧ Taking radioCap ∧ (faultLink radioCap 4).held = none) := by decide

/-- A unit that captures with one radio frame of the queue. -/
def radioQueue (f : RadioTx) : State := { cap with radio.queue := [f] }

theorem wit_RadioTransmission :
    (let s := radioQueue radioTx
     hwMayTransmit s = true ∧ takeChain s 0 = some false ∧ spacingBad s radioTx.chan = false ∧ faultOn s 4 false = false
       ∧ txInPhase s 5 (· == .queued) = some radioTx
       ∧ ledgerAdmits s false radioTx.chan (airtimeUs radioTx.mode (radioTx.payload.length + 4)) 0 = true)
    ∧ (let f := { radioTx with phase := .deferred 3 }; txInPhase (radioQueue f) 5 phaseDeferred = some f)
    ∧ (let f := { radioTx with phase := .held }
       txInPhase (radioQueue f) 5 (· == .held) = some f)
    ∧ (let f := { radioTx with chan := ⟨false, 999⟩ }
       spacingBad (radioQueue f) f.chan = false ∧ ledgerAdmits (radioQueue f) false f.chan (airtimeUs f.mode (f.payload.length + 4)) 0 = false)
    ∧ (let f := { radioTx with busy := 3 }
       txInPhase (radioQueue f) 5 (· == .queued) = some f ∧ Taking (radioQueue f)
         ∧ cap.cap.log.takes ⟨4, 1, 0, radioReport (f.chainTx 0) 73 0, none⟩ = true)
    ∧ (let l : RadioLaunchEntry := ⟨0, ⟨false, 3⟩, 0, 0, 1, 7, 5, [1]⟩
       let s : State := { cap with radio.launches := [l] }
       takeChain s l.chain = some false ∧ spacingBad s l.chan = false
         ∧ ledgerAdmits s false l.chan (airtimeUs l.mode (l.payload.length + 4)) 0 = true ∧ l.atNs < stampNs ⟨0, 1⟩)
    ∧ (let m : Mailbox := ⟨1, 7, 5, 1, some (⟨false, 3⟩, 0), [1]⟩
       let s : State := { cap with radio.mailboxes := [m] }
       hwMayTransmit s = true ∧ s.radio.mailboxes.find? (fun m => m.link == (1 : BitVec 12).toNat) = some m
         ∧ ledgerAdmits s false ⟨false, 3⟩ (airtimeUs 0 (m.payload.length + 4)) 0 = true)
    ∧ (let t := radioTx.chainTx 0
       let s : State := { cap with radio.chain0 := some t }
       Taking s ∧ chainTx s false = some t ∧ t.mailbox = false
         ∧ s.cap.log.takes ⟨4, 1, 0, radioReport t 1 t.airtime, none⟩ = true) := by decide

/-- A radio transmit report for queue number 5. -/
def radioReportIn : RadioTxReport :=
  { org := ⟨4, 0⟩, tick := 0, ackReq := true, acked := true, launched := false, withdrawn := false, mailbox := false,
    ccaFailed := false, link := 1, dsn := 7, attempt := 1, queueId := 5, chan := ⟨false, 3⟩, mode := 0, startAt := ⟨0, 0⟩, airtimeUs := 9 }

theorem wit_RadioSleepersAndQueue :
    (let w : ArmWindow := ⟨1, 2, ⟨false, 3⟩, 0, 0, 0⟩
     let s : State := { procAt with radio.arms := [w] }
     Processing s ∧ s.radio.arms.find? (fun w => w.link == (1 : BitVec 12).toNat && w.wake == (2 : BitVec 32).toNat && endedBy s w.closeNs) = some w)
    ∧ (Processing proc ∧ (∀ w ∈ proc.radio.arms, endedBy proc w.closeNs = false))
    ∧ (let s : State := { proc with radio.searches := [(1, 2, 0)] }
       s.radio.searches.find? (fun x => x.1 == (1 : BitVec 12).toNat && x.2.1 == (2 : BitVec 32).toNat && endedBy s x.2.2) = some (1, 2, 0))
    ∧ (let f := { radioTx with phase := .onAir }
       let s : State := { proc with radio.queue := [f] }
       s.radio.queue.find? (fun f => f.queueId == radioReportIn.queueId && f.phase == .onAir) = some f
         ∧ radioReportIn.launched = false ∧ radioReportIn.mailbox = false ∧ f.attempt < 4
         ∧ radioQueued { s with radio.queue := s.radio.queue.erase f } < 256)
    ∧ (let f := { radioTx with attempt := 4 }
       let s : State := { procAt with radio.queue := [f] }
       s.radio.queue.find? (fun f => f.queueId == 5 && f.phase != .onAir) = some f ∧ f.queued.toNat + 256 < s.work.log.tick.toNat ∧ 4 ≤ f.attempt)
    ∧ (let s : State := { proc with work.log.tick := 10000, radio.frags := [(5, ⟨0, 0, false⟩, 0)] }
       s.radio.frags.find? (fun f => f.1 == 5 && decide (f.2.2.toNat + 60 * ticksPerS s ≤ s.work.log.tick.toNat)) = some (5, ⟨0, 0, false⟩, 0)) := by decide

theorem wit_AgingSweeps :
    (Processing proc ∧ proc.work.swept = false ∧ proc.work.childSwept = false)
    ∧ (let s : State := { linked with work.log.tick := 0x10000000 }
       (linkEntry s 1).peer.slot = 0 ∧ (0, { Endpoint.blank with state := .active }) ∈ s.cov.tables.endpoints
         ∧ 4096 * (s.work.log.tick.toNat % 256) = 0 ∧ ageUnits s < heardAge s.work.log.tick { Endpoint.blank with state := .active })
    ∧ ({ proc with work.swept := true, work.childSwept := true } : State).work.swept = true := by decide

/-- A processing unit with child 1 and one prefix to it, one that discards, and endpoint 5 in slot 0. -/
def routed : State :=
  { proc with cov.tables.routes := [⟨0x2001000000000000, 16, .toChild 7⟩, ⟨0x2002000000000000, 16, .discard⟩, ⟨0x2003000000000000, 16, .toChild 8⟩],
              cov.tables.children := [(1, ⟨7, 9, 0, .active, false, 0⟩)],
              cov.tables.ways := [(8 * (buckets 5).1, ⟨5, 0⟩), (8 * (buckets 6).1, ⟨6, 1⟩), (8 * (buckets 7).1, ⟨7, 2⟩)],
              cov.tables.endpoints := [(0, { Endpoint.blank with state := .active, parity := true }),
                (1, { Endpoint.blank with state := .active }), (2, { Endpoint.blank with state := .barred })],
              cov.tables.spills := [(0, ⟨4, 0, 1⟩)] }

/-- The address of an interface identifier below the link-local prefix. -/
def localTo (x : BitVec 64) : BitVec 128 := BitVec.ofNat 128 (0xFE80000000000000 * 2 ^ 64 + (x ^^^ 0x0200000000000000#64).toNat)

theorem wit_DatagramsAreRouted :
    Processing routed
    ∧ longestMatch (allRoutes routed) ((0x3000#128 <<< 112).toNat / 2 ^ 64) = none
    ∧ longestMatch (allRoutes routed) ((0x2002#128 <<< 112).toNat / 2 ^ 64) = some ⟨0x2002000000000000, 16, .discard⟩
    ∧ longestMatch (allRoutes routed) ((0x2001#128 <<< 112).toNat / 2 ^ 64) = some ⟨0x2001000000000000, 16, .toChild 7⟩
    ∧ childOfAddr routed 7 = some 1
    ∧ longestMatch (allRoutes routed) ((0x2003#128 <<< 112).toNat / 2 ^ 64) = some ⟨0x2003000000000000, 16, .toChild 8⟩
    ∧ childOfAddr routed 8 = none
    ∧ ([3, 4, 5, 6, 7].all fun x => longestMatch (allRoutes routed) ((localTo x).toNat / 2 ^ 64) == some ⟨0xFE80000000000000, 64, .toLocal⟩
        && euiOfAddress (localTo x) == x) = true
    ∧ (lookup routed 5 = some 0 ∧ (endpoint routed 0).parityOk = true ∧ (endpoint routed 0).state ≠ .barred)
    ∧ (lookup routed 6 = some 1 ∧ (endpoint routed 1).parityOk = false)
    ∧ (lookup routed 7 = some 2 ∧ (endpoint routed 2).parityOk = true)
    ∧ (lookup routed 4 = none ∧ (∃ e ∈ routed.cov.tables.spills, e.2.eui = 4) ∧ routed.tstat.floods < cfg routed 0x0303 0 6 2 64)
    ∧ (lookup routed 3 = none ∧ ∀ e ∈ routed.cov.tables.spills, e.2.eui ≠ 3)
    ∧ cfg routed 0x0303 0 6 2 64 ≤ ({ routed with tstat.floods := 64 } : State).tstat.floods := by decide

/-- A unit that processes a log, with endpoint 5 in slot 0 on phase 1. -/
def planned : State :=
  { linked with cov.tables.endpoints := [(0, { Endpoint.blank with state := .active, port := 1, parity := false })],
                cov.tables.ways := [(8 * 13620, ⟨5, 0⟩)] }

theorem wit_ApdusAndReads :
    (Processing planned ∧ (ingestFrame frameIn none planned).1 = some 0
      ∧ (ingestFrame frameIn none planned).2.work.handled.contains (0x2001, 0) = false
      ∧ planOf (ingestFrame frameIn none planned).2 0 = some Plan.dflt ∧ testBit Plan.dflt.flags 1 = true)
    ∧ (let s : State := { planned with cov.sys.records := [(recKey 0x0403 0, [0, 0x3F, 0xFF, 0xFF])] }
       (ingestFrame frameIn none s).1 = some 0 ∧ ((planOf (ingestFrame frameIn none s).2 0).map fun p => testBit p.flags 1) = some false)
    ∧ (let s : State := { planned with ingest.deferred := [0] }
       planOf s 0 = some Plan.dflt ∧ s.ingest.deferred.contains 0 = true ∧ (endpoint s 0).state = .active
         ∧ (s.ingest.queue 1).length * 4 ≤ queueLimit 1 * 3 ∧ (readDescriptors s.cov.sys.records Plan.dflt).isEmpty = false
         ∧ bearerOf (endpoint s 0).port.toNat ∈ [1, 2, 3])
    ∧ (let now := (logUtc planned.work.log).toNat * 1000000000 + planned.work.log.start.ns.toNat
       (decide (0 < Plan.dflt.period) && readDue 0 Plan.dflt.period (now - nominalTickNs planned) now) = false
         ∧ planned.ingest.deferred.contains 0 = false)
    ∧ (let s : State := { procAt with ingest.reads := [(0, 0)] }
       s.ingest.reads.find? (fun r => r.1 == 0) = some (0, 0) ∧ 256 ≤ s.work.log.tick.toNat)
    ∧ (let s : State := { cap with ingest.serialA := [⟨0, 2, [1]⟩, ⟨1, 0, [2]⟩] }
       capturing s = true ∧ faultOn s 6 false = false ∧ s.ingest.serialA = [⟨0, 2, [1]⟩, ⟨1, 0, [2]⟩])
    ∧ (let s : State := { on with ingest.fetches := [pairOf 0 1] }
       running s = true ∧ s.ingest.fetches.contains (pairOf 0 1) = true ∧ s.ingest.fetches.contains (pairOf 0 2) = false) := by decide

/-- A batch of version 1 with one record of sequence `q` from the child of address 7. -/
def batchIn (q : BitVec 32) : BatchIn :=
  { org := ⟨8, 0⟩, version := 1, addr := 7, ethPort := 2, eui := 9, ledger := 3, batchSeq := 0, firstSeq := q,
    consistent := true, entries := [⟨5, 1, 0, 0, 0, 0, q, []⟩], trailer := none }

/-- A unit that takes batches and knows the child of address 7, last sequence 4. -/
def parent : State :=
  { proc with cov.tables.children := [(1, ⟨7, 9, 0, .active, false, 0⟩)], cov.ledger.children := [(1, ⟨3, some 4⟩)],
              cov.sys.records := [(recKey 0x0003 0, zeros 17 ++ [2])] }

theorem wit_TributaryExchange :
    (Processing parent ∧ takesBatches parent 2 = true ∧ takesBatches parent 0 = false)
    ∧ (childOfAddr proc 7 = none ∧ cfg { proc with cov.sys.records := [(recKey 0x0303 0, zeros 10 ++ [1])] } 0x0303 0 0xA 1 0 = 1)
    ∧ (let x := batchChild (Src.frame ⟨8, 0⟩) (batchIn 9) parent
       let w := batchLedger (Src.frame ⟨8, 0⟩) (batchIn 9) 1 x.2
       x.1 = some 1 ∧ batchSound (batchIn 9) = true ∧ batchHigh 1 w = some 4 ∧ batchNew (batchIn 9) (some 4) = (batchIn 9).entries
         ∧ 4 + 1 < (9 : BitVec 32).toNat ∧ (5 : BitVec 32).toNat ≤ 4 + 1
         ∧ w.ingest.tribQ.length + 1 ≤ 18432)
    ∧ batchSound { batchIn 9 with consistent := false } = false
    ∧ (capturing cap = true ∧ some 3 = ({ cap with store.ledgerId := some 3 } : State).store.ledgerId ∧ cap.ingest.trib.watermark ≠ some 0)
    ∧ (let r : Record := { slotCode := 0, value := 0, time := 0, tick := 0, status := 0, flags := 0, seq := 0, payload := none }
       let s : State := { cap with store.records := [(0, ⟨r, 0, 0, 0, none, 0⟩)], bey.parentUp := true,
                                   cov.sys.records := [(recKey 0x0003 0, zeros 24 ++ [1] ++ zeros 15)] }
       sendsUp s = true ∧ s.ingest.trib.pauseTo = none ∧ (nextBatch s).length = 1
         ∧ faultOn s (0x10 + headPort s) false = false)
    ∧ (let s : State := { cap with ingest.trib.sent := 1, cap.tick := 256 }
       (0 : BitVec 32).toNat < s.ingest.trib.sent.toNat ∧ s.ingest.trib.lastTick.toNat + 256 ≤ s.cap.tick.toNat)
    ∧ ({ cap with ingest.trib.pauseTo := some 0 } : State).ingest.trib.pauseTo = some 0 := by decide

theorem wit_StoreKeepsSealsAndRecords : ∃ t, exec .garbageCollection on = .next t := ⟨_, rfl⟩

/-- Room for `k` more pages of 1,000 grains in the hot block 0, and for one in the copy block 1. -/
structure Roomy (k : Nat) (st : Store) : Prop where
  mode : st.mode = .fine
  hot  : st.hot = some 0
  copy : st.copyBlock = some 1
  per  : st.perPage = 1000 ∧ st.pages = 100
  room : (st.block 0).grains.length + k * 1000 < 100000 ∧ (st.block 1).grains.length + 1000 < 100000

/-- Grains that the map of record places does not take. -/
def plainGrains (gs : List GrainTag) : Prop := gs.length ≤ 1000 ∧ ∀ g ∈ gs, mappedKind g.kind = false

theorem roomy_mapAll (k n at_ : Nat) (gs : List GrainTag) (st : Store) (h : Roomy k st) (hg : ∀ g ∈ gs, mappedKind g.kind = false) :
    (st.mapAll n at_ gs).1 = [] ∧ Roomy k (st.mapAll n at_ gs).2 ∧ (st.mapAll n at_ gs).2.perPage = 1000 := by
  unfold Store.mapAll
  have key : ∀ (l : List (GrainTag × Nat)), (∀ x ∈ l, mappedKind x.1.kind = false) → ∀ a : List Nat × Store, a.1 = [] ∧ Roomy k a.2 →
      (l.foldl (fun (a : List Nat × Store) g =>
        let x := a.2.mapGrain (st.pga n (at_ + g.2)) g.1
        (a.1 ++ x.1, x.2)) a).1 = [] ∧ Roomy k (l.foldl (fun (a : List Nat × Store) g =>
        let x := a.2.mapGrain (st.pga n (at_ + g.2)) g.1
        (a.1 ++ x.1, x.2)) a).2 := by
    intro l
    induction l with
    | nil => intro _ a ha; exact ha
    | cons x xs ih =>
      intro hx a ha
      refine ih (fun y hy => hx y (List.mem_cons_of_mem _ hy)) _ ?_
      have m := hx x List.mem_cons_self
      unfold Store.mapGrain
      simp only [m]
      split
      · exact ⟨by simp [ha.1], ⟨ha.2.mode, ha.2.hot, ha.2.copy, ha.2.per, ha.2.room⟩⟩
      · exact ⟨by simp [ha.1], ha.2⟩
  have r := key gs.zipIdx (fun x hx => hg x.1 (by obtain ⟨_, _, he⟩ := List.mem_zipIdx hx; rw [he]; exact List.getElem_mem _)) ([], st) ⟨rfl, h⟩
  exact ⟨r.1, r.2, r.2.per.1⟩

theorem roomy_fill (k : Nat) (c : Bool) (gs : List GrainTag) (st : Store) (h : Roomy (k + 1) st) (hl : gs.length ≤ 1000) :
    Roomy k (st.fillPage (if c then copyStream else hotStream) 0 (if c then 1 else 0) gs)
      ∨ (c = true ∧ True) := by
  cases c with
  | true => exact Or.inr ⟨rfl, trivial⟩
  | false =>
    refine Or.inl ⟨h.mode, h.hot, h.copy, h.per, ?_, ?_⟩
    · show (tgetD (tput _ _ _) _ _ : Block).grains.length + _ < _
      simp only [Bool.false_eq_true, if_false]
      rw [tgetD_tput_same]
      simp only [List.length_append, List.length_map, List.length_replicate, h.per.1]
      have := h.room.1
      omega
    · show (tgetD (tput _ _ _) _ _ : Block).grains.length + _ < _
      simp only [Bool.false_eq_true, if_false]
      rw [tgetD_tput_ne _ _ _ (by decide)]
      exact h.room.2

theorem roomy_page (k : Nat) (now : Nat × Nat) (gs : List GrainTag) (st : Store) (h : Roomy (k + 1) st) (hg : plainGrains gs) :
    ∃ x, st.page hotStream 0 now gs = some x ∧ x.1 = [] ∧ Roomy k x.2 := by
  have f : st.forProgram hotStream 0 = some (0, st) := by
    unfold Store.forProgram Store.openOf
    rw [if_neg (by rw [h.mode]; decide)]
    simp only [hotStream, if_true, h.hot]
  have r : Roomy k (st.fillPage hotStream 0 0 gs) := by
    rcases roomy_fill k false gs st h hg.1 with r | r
    · exact r
    · cases r.1
  obtain ⟨m1, m2, m3⟩ := roomy_mapAll k 0 (st.block 0).grains.length gs _ r hg.2
  let y := (st.fillPage hotStream 0 0 gs).mapAll 0 (st.block 0).grains.length gs
  have c : (decide ((st.block 0).grains.length + y.2.perPage < y.2.perBlock) || y.2.mode != .fine) = true := by
    have := h.room.1
    simp only [Store.perBlock, y, m2.per.1, m2.per.2, Bool.or_eq_true, decide_eq_true_eq]
    omega
  have e : st.page hotStream 0 now gs = some (y.1, y.2) := by
    unfold Store.page
    rw [f]
    show some (y.1, if (decide ((st.block 0).grains.length + y.2.perPage < y.2.perBlock) || y.2.mode != .fine) = true then y.2
      else y.2.close 0 now) = _
    rw [if_pos c]
  exact ⟨_, e, m1, m2⟩

theorem roomy_program (k : Nat) (now : Nat × Nat) (gs : List GrainTag) (st : Store) (h : Roomy (k + 1) st) (hg : plainGrains gs) :
    ∃ x, st.program hotStream 0 now gs = some x ∧ Roomy k x := by
  unfold Store.program
  have done : ∀ y : Store, Roomy k y → Roomy k { y with written := y.written.add gs.length } :=
    fun y hy => ⟨hy.mode, hy.hot, hy.copy, hy.per, hy.room⟩
  rw [h.per.1]
  cases gs with
  | nil =>
    refine ⟨_, rfl, done st ⟨h.mode, h.hot, h.copy, h.per, ?_, h.room.2⟩⟩
    have := h.room.1; omega
  | cons g gs =>
    have c : chunks 1000 (g :: gs).length (g :: gs) = [g :: gs] := by
      simp only [List.length_cons, chunks]
      have l : (g :: gs).length ≤ 1000 := hg.1
      rw [List.take_of_length_le l, List.drop_of_length_le l]
      cases gs.length <;> rfl
    rw [c]
    obtain ⟨x, e, o, r⟩ := roomy_page k now (g :: gs) st h hg
    refine ⟨_, by unfold Store.pages_; rw [e]; simp only [o, Store.writeMapPages, List.foldl_nil, Store.pages_]; rfl, done _ r⟩

theorem plain_map (n k t : Nat) (hn : n ≤ 1000) (hk : mappedKind k = false) : plainGrains ((List.range n).map fun i => newGrain k i t) := by
  refine ⟨by simpa using hn, ?_⟩
  intro g hg
  simp only [List.mem_map] at hg
  obtain ⟨i, -, rfl⟩ := hg
  exact hk

/-- A unit with a checkpoint in progress whose seal is durable, and room for its structures. -/
def checkpointing : State :=
  { storing with store.pages := 100, store.perPage := 1000, store.hot := some 0, store.copyBlock := some 1,
                 store.checkpoint := some ⟨3, 0, []⟩, store.durable := some 3 }

theorem checkpoint_finishes (hash : Bytes) (l : List Charge) (now : Nat × Nat) :
    ∃ st, checkpointing.store.finish ⟨3, 0, []⟩ hash l now = some st := by
  have r0 : Roomy 10 checkpointing.store := ⟨rfl, rfl, rfl, ⟨rfl, rfl⟩, by decide, by decide⟩
  unfold Store.finish
  obtain ⟨a, ea, ra⟩ := roomy_program 9 now [] _ r0 ⟨by simp, by simp⟩
  have na : a.dirty = [] := by
    have : some { checkpointing.store with written := checkpointing.store.written.add 0 } = some a := ea
    cases this; rfl
  obtain ⟨b, eb, rb⟩ := roomy_program 8 now [] a ra ⟨by simp, by simp⟩
  have rb' : Roomy 8 { b with dirty := [] } := ⟨rb.mode, rb.hot, rb.copy, rb.per, rb.room⟩
  obtain ⟨d, ed, rd⟩ := roomy_program 7 now (((List.range 256).map fun i => newGrain 0x11 i 3)
      ++ ((List.range (min 256 Config.blockTableGrains)).map fun i => newGrain 0x12 i 3)
      ++ ((List.range (min 64 (0 + Config.extrasGrains))).map fun i => newGrain 0x13 i now.2)) { b with dirty := [] } rb' (by
    constructor
    · simp only [List.length_append, List.length_map, List.length_range]; omega
    · intro g hg
      simp only [List.mem_append, List.mem_map] at hg
      rcases hg with (⟨i, -, rfl⟩ | ⟨i, -, rfl⟩) | ⟨i, -, rfl⟩ <;> rfl)
  obtain ⟨e, ee, re⟩ := roomy_program 6 now [newGrain 0x14 1 3] d rd ⟨by simp, by simp; rfl⟩
  have ef : ∃ f, e.program copyStream 0 now [newGrain 0x14 1 3] = some f := by
    unfold Store.program
    rw [re.per.1]
    show ∃ f, Option.map _ (Store.pages_ copyStream 0 now [[newGrain 0x14 1 3]] e) = some f
    have : e.forProgram copyStream 0 = some (1, e) := by
      unfold Store.forProgram Store.openOf
      rw [if_neg (by rw [re.mode]; decide)]
      simp only [copyStream, hotStream, re.copy]; rfl
    unfold Store.pages_ Store.page
    rw [this]
    simp only [Option.map_some, Store.pages_]
    exact ⟨_, rfl⟩
  obtain ⟨f, ef⟩ := ef
  have ea' : checkpointing.store.program hotStream 0 now [] = some a := ea
  show ∃ st, ((checkpointing.store.program hotStream 0 now []).bind _) = some st
  rw [ea']
  simp only [Option.bind_some, na, List.map_nil, eb]
  have ed' := ed
  show ∃ st, (Option.bind (Store.program { b with dirty := [] } hotStream 0 now (((List.range 256).map fun i => newGrain 0x11 i 3)
      ++ ((List.range (min 256 Config.blockTableGrains)).map fun i => newGrain 0x12 i 3)
      ++ ((List.range (min 64 (0 + Config.extrasGrains))).map fun i => newGrain 0x13 i now.2))) _) = some st
  rw [ed']
  simp only [Option.bind_some]
  show ∃ st, (Option.bind (d.program hotStream 0 now [newGrain 0x14 1 3]) _) = some st
  rw [ee]
  simp only [Option.bind_some]
  show ∃ st, (Option.map _ (e.program copyStream 0 now [newGrain 0x14 1 3])) = some st
  rw [ef]
  exact ⟨_, rfl⟩

theorem wit_StoreProgress :
    (let p : Package := ⟨3, [], 0, [], none⟩
     let s : State := { storing with store.packages := [p] }
     storeOn s = true ∧ s.store.packages.find? (fun p => p.first.isNone) = some p
       ∧ (s.store.program hotStream 0 (storeNow s) (packageGrains p)).isSome = true)
    ∧ (let p : Package := ⟨3, [], 0, [], some 0⟩
       let s : State := { storing with store.packages := [p] }
       (s.store.program hotStream 0 (storeNow s) [newGrain 0x21 ((packageGrains p).length + 1) p.tick.toNat]).isSome = true)
    ∧ (storeOn storing = true ∧ ({ storing with store.ckptDue := some 3 } : State).store.checkpoint = none)
    ∧ (let s : State := { storing with store.writebacks := [(0, 3)], store.durable := some 3 }
       writebackTick s.store 0 = some 3 ∧ (s.store.program hotStream 0 (storeNow s) [newGrain 2 0x10000 3]).isSome = true
         ∧ (2 : BitVec 48).toNat < 3)
    ∧ (storeOn checkpointing = true ∧ checkpointing.store.writebacks = [] ∧ (2 : BitVec 48) < 3) := by decide

/-- A store with one closed class block of one record grain, expired at once, and room to write. -/
def upkeep (stream day : Nat) : State :=
  { storing with
    time.sec := 3000000000, cap.tick := 0xFFFFFFFFFF,
    store.blocks := [(1, { Block.fresh with state := .closed, stream := stream, expiryDay := day, grains := [newGrain 3 recordLo 0] })],
    store.map := [(recordLo, 4096)] }

theorem wit_StoreUpkeep :
    (let s := upkeep 0 1
     storeOn s = true ∧ (earliest (s.store.classBlocks.filter fun b => expired (storeNow s) (ticksPerS s) b.2)).map (·.1) = some 1
       ∧ (s.store.expire 1 (storeNow s)).isSome = true)
    ∧ (let s := { upkeep 0 1000000 with store.perLun := 1, store.lunSet := [0] }
       (earliest s.store.classBlocks).map (·.1) = some 1)
    ∧ (lowDue { storing with store.perLun := 400 } = false ∧ storeOn { storing with store.perLun := 400 } = true
        ∧ storing.store.classBlocks = [] ∧ storing.store.block 0 = Block.fresh)
    ∧ (let s := upkeep hotStream 0
       s.store.mode = .fine ∧ s.store.victim = some 1 ∧ (s.store.moveBlock 1 false (storeNow s)).isSome = true
         ∧ (s.store.block 1).state = .closed ∧ (s.store.moveBlock 1 true (storeNow s)).isSome = true)
    ∧ (let s : State := {
          storing with
          store.mode := .coarseTest, 
          store.logBlocks := [0, 1, 2, 3, 8192, 8193, 8194, 8195],
          store.blocks := [(8195, { Block.fresh with state := .opened, stream := 0x15, grains := List.replicate 4 (newGrain 3 recordLo 0) })] }
       s.store.logBlocks.length = 8 ∧ s.store.logBlocks.getLast? = some 8195 ∧ s.store.perBlock ≤ (s.store.block 8195).grains.length
         ∧ s.store.mergeOldest.isSome = true)
    ∧ (1 % 8192 < storing.store.perLun ∧ 1 / 8192 ∈ storing.store.lunSet ∧ (storing.store.block 1).state = .free) := by decide

/-- A unit whose clock runs as slave of port 0. -/
def slaved : State := { on with time.slave := some 0, time.exchange := some 0, time.servo := .acquiring, time.lockRun := 15 }

theorem wit_ClockServo :
    (clockOn slaved = true ∧ ptpProfile slaved ≠ 0 ∧ slaved.time.slave = some 0 ∧ slaved.time.exchange = some 0)
    ∧ (ptp slaved 0x10 4 100000 * 65536 ≠ 0 ∧ ptp slaved 0x10 4 100000 * 65536
        < (fullNs ⟨1, 0, 0⟩ + latency slaved 0 true - fullNs ⟨0, 0, 0⟩ - slaved.time.path - 0).natAbs)
    ∧ ((fullNs ⟨1, 0, 0⟩ + latency slaved 0 true - fullNs ⟨1, 0, 0⟩ - slaved.time.path - 0).natAbs < ptp slaved 0x14 4 1000 * 65536
        ∧ 15 ≤ slaved.time.lockRun)
    ∧ (let x := (fullNs ⟨1, 1000, 0⟩ + latency slaved 0 true - fullNs ⟨1, 0, 0⟩ - slaved.time.path - 0).natAbs
       ptp slaved 0x14 4 1000 * 65536 ≤ x ∧ x ≤ 4 * (ptp slaved 0x14 4 1000 * 65536))
    ∧ (let x := (fullNs ⟨1, 4001, 0⟩ + latency slaved 0 true - fullNs ⟨1, 0, 0⟩ - slaved.time.path - 0).natAbs
       4 * (ptp slaved 0x14 4 1000 * 65536) < x ∧ x ≤ ptp slaved 0x10 4 100000 * 65536)
    ∧ (ppsFlag slaved = false ∧ ppsFlag { on with hw.records := [(recKey 0x0701 0, zeros 11 ++ [1])] } = true) := by decide

/-- A capturing unit whose PTP record has the given bytes. -/
def ptpUnit (v : Bytes) : State := { cap with hw.records := [(recKey 0x0701 0, v ++ zeros 64)] }

/-- An announce of clock 9. -/
def announceOf (x : BitVec 64) (prio : Nat) : AnnounceData :=
  { priority1 := prio, clockClass := 6, accuracy := 0x21, variance := 0, priority2 := 128, grandmaster := x, steps := 0,
    sender := x, utcOffset := 37, utcValid := true, leap61 := false, timeSource := 0x20 }

theorem wit_PtpMessagesAndTriggers :
    (clockOn cap = true ∧ ptpProfile cap ≠ 0 ∧ (ptpPort cap 0).best = none ∧ (announceOf 9 1).sender ≠ ownEui cap
      ∧ (announceOf 9 1).steps < 255 ∧ (announceOf 0 1).sender = ownEui cap)
    ∧ (let s : State := { cap with time.ports := [⟨.slave, some (announceOf 9 1)⟩] }
       (ptpPort s 0).best = some (announceOf 9 1) ∧ betterData (announceOf 8 2) (announceOf 9 1) = false
         ∧ betterData (announceOf 8 0) (announceOf 9 1) = true)
    ∧ (let s : State := { cap with time.ports := [⟨.master, none⟩] }
       sendsAsMaster s 0 = true ∧ oneStep s 0 = true ∧ ptpProfile s = 1 ∧ faultOn s 0x10 false = false ∧ s.time.servo.synced = false)
    ∧ (let s : State := { ptpUnit [1] with time.ports := [⟨.master, none⟩], time.servo := .locked, time.parent := some (announceOf 9 1) }
       sendsAsMaster s 0 = true ∧ oneStep s 0 = false ∧ s.time.servo.synced = true ∧ s.time.parent = some (announceOf 9 1))
    ∧ sendsAsMaster cap 0 = false
    ∧ (ptpProfile (ptpUnit [2, 0, 0, 1]) = 2 ∧ maySlave (ptpUnit [2, 0, 0, 1]) 0 = true ∧ oneStep (ptpUnit [2, 0, 0, 1]) 0 = false
        ∧ oneStep (ptpUnit [2, 0, 0, 1, 1]) 0 = true)
    ∧ ({ cap with time.slave := some 0 } : State).time.slave = some 0
    ∧ (ptp (ptpUnit (zeros 32 ++ [1])) 0x20 2 0 % 4 = 1 ∧ ptp (ptpUnit (zeros 32 ++ [2])) 0x20 2 0 % 4 = 2)
    ∧ (let l : SerialLaunchEntry := ⟨0, 0, [1]⟩
       let s : State := { cap with time.serialA := [l] }
       capturing s = true ∧ s.time.serialA = [l] ∧ l.atNs = stampNs ⟨0, 0⟩ ∧ s.ingest.serialA = [] ∧ faultOn s 6 false = false
         ∧ l.atNs < stampNs ⟨0, 1⟩)
    ∧ (let m : TimeMsg := ⟨0, 1, 0⟩
       let s : State := { procAt with time.msgs := [m] }
       s.time.msgs.find? (fun m => m.slot == 0) = some m
         ∧ s.time.msgs.find? (fun m => m.slot == 0 && decide (m.tick.toNat + 256 ≤ s.work.log.tick.toNat)) = some m) := by decide

/-- A feeder 1 that is balanced each hour, and a period of it that ends at 3,600 s and is due. -/
def balanced (netMj : Int) (minCov : Byte) : State :=
  { procAt with
    work.log := { procAt.work.log with start := ⟨1577836800 + 10800, 0⟩ }, work.meterDone := true,
    cov.sys.records := [(0x0502 * 65536 + 1, [1, 0, 1, 0, 2, 0, 0, 0, 0, 0, 0, 0, 16, 14, 0, 0, 8, 7, 0, 0] ++ List.replicate 18 0 ++ [minCov, 0])],
    cov.metro.periods := [(257, { Period.fresh 3600 with netMj := netMj, suspects := [(3, 1)] })] }

/-- What a balance evaluation leaves of feeder 1's result. -/
def resultOf (s : State) : Balance := balanceOf (meterOnce s) 1 (feeder (meterOnce s) 1) ((heldPeriod (meterOnce s) 1 3600 3600).getD (Period.fresh 3600))

theorem wit_balance_none_due : Processing procAt ∧ dueEnds (meterOnce procAt) 1 = [] := by decide
theorem wit_balance_due : Processing (balanced 18000 0) ∧ (dueEnds (meterOnce (balanced 18000 0)) 1).head? = some 3600
    ∧ (tget (meterOnce (balanced 18000 0)).cov.metro.periods 257).isSome = true := by decide
theorem wit_balance_loss : (resultOf (balanced 18000 0)).flags = 3 ∧ (resultOf (balanced 18000 0)).residual = 5 := by decide
theorem wit_balance_over : (resultOf (balanced (-18000) 0)).flags = 5 := by decide
theorem wit_balance_even : (resultOf (balanced 0 0)).flags = 1 := by decide
theorem wit_balance_incomplete : (resultOf (balanced 18000 1)).flags = 9 := by decide

/-- A unit in MANUFACTURE that runs, with every tamper source enabled. -/
def watched : State := { on with keys.fuses.tamper := 0x3FF }

theorem wit_tamper_runs : running watched = true ∧ hwLifeState watched = .manufacture ∧ watched.keys.active.getLsbD 9 = false
    ∧ (watched.keys.fuses.tamper ||| watched.hw.record.tamper).getLsbD 9 = true ∧ watched.keys.latch = none := by decide
theorem wit_tamper_latched : ∃ l, ({ watched with keys.latch := some ⟨1, 0⟩ } : State).keys.latch = some l := ⟨_, rfl⟩
theorem wit_tamper_active : ({ watched with keys.active := 1 } : State).keys.active.getLsbD 0 = true := by decide
theorem wit_tamper_disabled : (on.keys.fuses.tamper ||| on.hw.record.tamper).getLsbD 0 = false ∧ on.keys.active.getLsbD 0 = false := by decide
theorem wit_tamper_quarantine : hwLifeState { watched with keys.fuses.lifecycle := 4 } = .quarantine := by decide
theorem wit_tamper_gasp_and_dead : ({ watched with sys.mode := .gaspDone } : State).sys.mode = .gaspDone
    ∧ ({ watched with sys.mode := .dead } : State).sys.mode = .dead ∧ hwLifeState { watched with sys.mode := .dead } ≠ .quarantine := by decide
theorem wit_tamper_burn : ∃ s : State, running s = true ∧ s.keys.burns = [(0, .quarantineEntry 1)] ∧ s.keys.latch = some ⟨1, 0⟩ :=
  ⟨{ watched with keys.burns := [(0, .quarantineEntry 1)], keys.latch := some ⟨1, 0⟩ }, by decide⟩

/-- A unit that runs at tick 10, with seal 8 durable, its state kept, and a burn. -/
def burning (b : Burn) : State :=
  { on with sys.prevSeal := some (8, []), store.durable := some 8, snaps := [(8, on.cov)], cap.tick := 10, keys.burns := [(8, b)],
            keys.vaultDue := [8] }

theorem wit_burns_due : (burning (.root 1 [] [])).keys.burns.find? (burnDue (burning (.root 1 [] []))) = some (8, .root 1 [] [])
    ∧ (burning (.root 2 [] [])).keys.burns.find? (burnDue (burning (.root 2 [] []))) = some (8, .root 2 [] [])
    ∧ (burning (.root 3 [] [])).keys.burns.find? (burnDue (burning (.root 3 [] []))) = some (8, .root 3 [] [])
    ∧ (burning (.revoke 1)).keys.burns.find? (burnDue (burning (.revoke 1))) = some (8, .revoke 1)
    ∧ (burning (.tamper 1)).keys.burns.find? (burnDue (burning (.tamper 1))) = some (8, .tamper 1) := by decide
theorem wit_burns_lifecycle : (burning (.lifecycle 1)).keys.burns.find? (burnDue (burning (.lifecycle 1))) = some (8, .lifecycle 1)
    ∧ (burning (.lifecycle 0x800)).keys.burns.find? (burnDue (burning (.lifecycle 0x800))) = some (8, .lifecycle 0x800)
    ∧ (burning (.lifecycle 0x80000)).keys.burns.find? (burnDue (burning (.lifecycle 0x80000))) = some (8, .lifecycle 0x80000)
    ∧ (0x800 : BitVec 20).toNat / 2 ^ 11 % 256 ≠ 0 ∧ (0x80000 : BitVec 20).getLsbD 19 = true := by decide
theorem wit_burns_none : on.keys.burns.find? (burnDue on) = none ∧ running (burning (.tamper 1)) = true := by decide
theorem wit_vault_due : (burning (.tamper 1)).store.durable = some 8 ∧ (stateAsOf (burning (.tamper 1)) 8).isSome = true
    ∧ (8 : BitVec 48) ∈ (burning (.tamper 1)).keys.vaultDue ∧ (8 : BitVec 48).toNat + 2 ≤ (burning (.tamper 1)).cap.tick.toNat
    ∧ (burning (.tamper 1)).keys.frozen = false ∧ (burning (.tamper 1)).keys.inUseB = false := by decide
theorem wit_vault_other_copy : ({ burning (.tamper 1) with keys.inUseB := true } : State).keys.inUseB = true
    ∧ ({ burning (.tamper 1) with keys.frozen := true } : State).keys.frozen = true := by decide
theorem wit_vault_not_due : ∀ b ∈ ({ burning (.tamper 1) with cap.tick := 9 } : State).keys.vaultDue,
    ({ burning (.tamper 1) with cap.tick := 9 } : State).cap.tick.toNat < b.toNat + 2 :=
  fun _ h => List.mem_singleton.mp h ▸ (by decide)

theorem wit_link_down : linkOn { paired with twin.linkUp := false } = true ∧ faultOn { paired with twin.linkUp := false } 5 false = false := by
  decide
theorem wit_link_up : LinkPlain paired := by decide
theorem wit_link_ack : ∃ s : State, LinkPlain s ∧ s.twin.unacked = [] ++ ⟨4, 9, 3, []⟩ :: [] ∧ s.twin.xferOut = [] ∧ s.twin.xferEnd = []
    ∧ s.twin.fillNext = none := ⟨{ paired with twin.unacked := [⟨4, 9, 3, []⟩] }, by decide⟩
theorem wit_link_frames : holhamHeader (.lease hdr) = some hdr ∧ hdr.crcOk = true ∧ hdr.seq ≠ ({ paired with twin.rxSeq := 5 } : State).twin.rxSeq
    ∧ linkOn on = false := by decide

/-- The HELLO of a peer with EUI-64 5, in a role, with a durable seal. -/
def helloOf (role : Nat) (durable : BitVec 48) (digest : List Byte) : HelloIn := ⟨5, 0, role, 0, 0, digest, durable⟩

theorem wit_hello_pairing : LinkPlain waiting ∧ NextFrame hdr waiting ∧ waiting.sys.mode = .waiting
    ∧ fit 8 (helloOf 1 0 []).imageDigest = fit 8 waiting.sys.image.digest ∧ lifeState waiting ≠ .quarantine := by decide
theorem wit_hello_order : ((helloOf 0 0 []).durable.toNat = 0 ∧ ownEui waiting < (helloOf 0 0 []).eui)
    ∧ ¬((helloOf 0 9 []).durable.toNat < 0 ∨ ((helloOf 0 9 []).durable.toNat = 0 ∧ ownEui waiting < (helloOf 0 9 []).eui)) := by decide
theorem wit_hello_quarantine : lifeState { waiting with keys.fuses.lifecycle := 4 } = .quarantine
    ∧ LinkPlain { waiting with keys.fuses.lifecycle := 4 } := by decide
theorem wit_hello_other_image : fit 8 (helloOf 0 0 [1]).imageDigest ≠ fit 8 waiting.sys.image.digest
    ∧ ownEui waiting < (helloOf 0 0 [1]).eui := by decide
theorem wit_hello_no_pairing : LinkPlain paired ∧ NextFrame hdr paired ∧ paired.sys.mode ≠ .waiting ∧ paired.twin.standby ≠ .starting := by
  decide

theorem wit_logs_mirror : LinkPlain paired ∧ NextFrame hdr paired ∧ paired.twin.role = .mirror ∧ paired.twin.standby ≠ .held
    ∧ paired.twin.standby ≠ .fenced ∧ heldBytes [⟨9, [], false, false, false, 0, []⟩] ≤ 4194304 := by decide
theorem wit_logs_not_kept : LinkPlain { paired with twin.role := .primary } ∧ ({ paired with twin.role := .primary } : State).twin.role ≠ .mirror := by
  decide
theorem wit_logs_end : ({ paired with twin.logs := [⟨9, [], false, false, false, 0, []⟩] } : State).twin.logs.any (·.tick == hdr.tick) = true := by
  decide
/-- Bytes of a log of one entry with `n` bytes of body. -/
theorem held_one (n : Nat) : heldBytes [⟨9, [⟨0, 0, 0, List.replicate n 0, none⟩], false, false, false, 0, []⟩] = 16 + (n + 7) / 8 * 8 := by
  simp [heldBytes, entrySize]
theorem wit_logs_beyond :
    ∃ n, 4194304 < heldBytes [⟨9, [⟨0, 0, 0, List.replicate n 0, none⟩], false, false, false, 0, []⟩] :=
  ⟨5242880, by rw [held_one]; decide⟩
theorem wit_lease_starting : ({ paired with twin.standby := .starting } : State).twin.asked = false
    ∧ HolhamRoom 8 { paired with twin.standby := .starting } ∧ LinkPlain { paired with twin.standby := .starting } := by decide
/-- A FENCED unit with seal 7 that holds a first log after it. -/
def fencedUnit (complete : Bool) : State :=
  { paired with twin.standby := .fenced, sys.prevSeal := some (7, []), twin.logs := [⟨9, [], complete, true, false, 7, []⟩, ⟨8, [], false, true, false, 0, []⟩] }
theorem wit_lease_fenced : (fencedUnit true).twin.logs.find? (fun l => l.tick == 7 + 1 || (l.first && l.complete && l.m == 7))
      = some ⟨9, [], true, true, false, 7, []⟩
    ∧ (fencedUnit false).twin.logs.find? (fun l => l.tick == 7 + 1 || (l.first && l.complete && l.m == 7)) = some ⟨8, [], false, true, false, 0, []⟩ := by
  decide

/-- A SYNCED mirror at tick 12 whose latest seal is 7 and whose renewed boundary is `a`. -/
def synced (a : BitVec 48) : State := { paired with cap.tick := 12, sys.prevSeal := some (7, []), twin.renewal := a }

theorem wit_watch_incomplete : (synced 11).work.isOpen = false ∧ (synced 11).cap.tick.toNat ≤ (synced 11).twin.renewal.toNat + 2
    ∧ (synced 11).twin.lastLog = none ∧ (7 : BitVec 48).toNat + 3 ≤ (synced 11).cap.tick.toNat ∧ (synced 11).twin.logs = []
    ∧ faultOn (synced 11) 5 false = false ∧ HolhamRoom 8 (synced 11) := by decide
theorem wit_watch_complete : ∃ l, ({ synced 11 with twin.logs := [⟨8, [], true, false, false, 0, []⟩] } : State).twin.logs.find?
    (fun l => l.tick == 7 + 1 || (l.first && l.complete && l.m == 7)) = some l ∧ l.complete = true := ⟨_, rfl, rfl⟩
theorem wit_watch_orphan : (synced 10).twin.termAt = none ∧ (synced 10).twin.renewal.toNat + 2 ≤ (synced 10).cap.tick.toNat
    ∧ (synced 11).cap.tick.toNat < (synced 11).twin.renewal.toNat + 2 := by decide
theorem wit_watch_lapse : orphan.twin.standby = .orphaned ∧ ({ orphan with cap.tick := 51 } : State).twin.renewal.toNat + 51 ≤ 51
    ∧ orphan.cap.tick.toNat < orphan.twin.renewal.toNat + 51 := by decide
theorem wit_watch_query : witnessSet orphan = true ∧ orphan.sys.mode = .running ∧ orphan.twin.queryTick = none ∧ orphan.twin.termAt = none
    ∧ faultOn orphan (0x10 + headPort orphan) false = false := by decide
theorem wit_watch_starting : ({ orphan with sys.mode := .waiting, twin.ownTick := 10, twin.queryTick := some 0 } : State).twin.waitingHello = false
    ∧ witnessSet { orphan with sys.mode := .waiting } = true ∧ (0 : BitVec 48) + 10 ≤ 10 ∧ ¬(1 : BitVec 48) + 10 ≤ 10 := by decide
/-- A primary that captures, its link down and its last acknowledgement in tick 0. -/
def primaryUnit : State :=
  { orphan with twin.role := .primary, twin.linkUp := false, twin.primaryN := true, cap.isOn := true, cap.tick := 5, keys.fuses.eui := 9 }
theorem wit_watch_primary : running primaryUnit = true ∧ capturing primaryUnit = true ∧ witnessSet primaryUnit = true
    ∧ primaryUnit.twin.ackTick.toNat + 4 < primaryUnit.cap.tick.toNat ∧ (8 : BitVec 64) < ownEui primaryUnit
    ∧ ¬(9 : BitVec 64) < ownEui primaryUnit := by decide

theorem wit_swap_mirror : LinkPlain paired ∧ NextFrame hdr paired ∧ paired.closing = none ∧ HolhamRoom 8 paired := by decide
/-- A SYNCED mirror that has closed seal 9 and knows its peer's version. -/
def handed : State := { paired with sys.prevSeal := some (9, []), twin.peer := some ⟨5, 0, 1, on.upd.fw.procVersion, 0, [], 0⟩ }
theorem wit_swap_accept : handed.sys.prevSeal = some (9, []) ∧ handed.twin.peerN = false := by decide
theorem wit_swap_held : LinkPlain { paired with twin.standby := .held } := by decide
theorem wit_swap_answer : LinkPlain { paired with twin.waitAnswer := some 9 } ∧ ({ paired with twin.waitAnswer := some 9 } : State).twin.termAt = none
    ∧ hdr.tick = 9 ∧ (8 : BitVec 48) ≠ hdr.tick := by decide
theorem wit_swap_timeouts : (9 : BitVec 48).toNat + 3 ≤ (12 : BitVec 48).toNat ∧ (9 : BitVec 48).toNat + 60 ≤ (69 : BitVec 48).toNat
    ∧ running { paired with twin.waitAnswer := some 9, twin.swapTransfer := true } = true := by decide
theorem wit_term : ({ paired with twin.termAt := some 3, cap.tick := 4 } : State).twin.peerN = false
    ∧ lifeState { paired with twin.termAt := some 3, cap.tick := 4 } ≠ .quarantine ∧ ¬(4 : BitVec 48) ≤ 3 ∧ (3 : BitVec 48) ≤ 3 := by decide
theorem wit_term_waiting : ¬({ waiting with twin.termAt := some 3, twin.ownTick := 4 } : State).twin.ownTick ≤ 3 := by decide

/-- A primary that captures, its link up. -/
def primaryUp : State := { paired with twin.role := .primary, cap.isOn := true }
theorem wit_status : LinkPlain primaryUp ∧ NextFrame hdr primaryUp ∧ capturing primaryUp = true ∧ Settled primaryUp
    ∧ primaryUp.cap.log.takes ⟨5, 7, 0, List.replicate 32 0, none⟩ = true ∧ capturing paired = false := by decide
theorem wit_xfer : LinkPlain { paired with twin.asked := true } ∧ ({ paired with twin.asked := true } : State).twin.role = .mirror
    ∧ ({ paired with twin.asked := true } : State).twin.handover = none ∧ ([] : Bytes).length = 0
    ∧ (streamEntries (([] : Bytes).length / 8 + 1) []).length = 0 ∧ ¬([] : Bytes).length = 1 := by decide
theorem wit_xfer_swap : LinkPlain { paired with twin.xferSwap := true } ∧ HolhamRoom 8 { paired with twin.xferSwap := true } := by decide
theorem wit_xfer_versions : (some (⟨5, 0, 1, on.upd.fw.procVersion + 1, 0, [], 0⟩ : HelloIn)).any (fun p => p.procVersion != on.upd.fw.procVersion) = true := by
  simp
theorem wit_fill : LinkPlain paired ∧ NextFrame hdr paired ∧ paired.twin.role = .mirror ∧ primaryUp.twin.role ≠ .mirror := by decide

/-- A unit that captures, with port 0 up and one handshake in progress. -/
def serving : State := { cap with bey.handshakes := 1, bey.ephemeral := some 0, bey.dtls := [(0, ⟨1, 2, 0, [], 0, true⟩)] }

/-- A client on port 0. -/
def client : ClientIn := ⟨0, 5, 6, [1], true⟩

theorem wit_sessions_hello : running serving = true ∧ portOn serving 0 = true ∧ faultOn serving 0x10 false = false ∧ portOn { serving with sys.ethUp := [] } 0 = false := by
  decide
theorem wit_sessions_able : client.proof = true ∧ serving.bey.handshakes = 0 + 1 ∧ ethRole serving.hw.records 0 = 0
    ∧ (accessOf (asSealed serving) []).2 = 1 ∧ capturing serving = true ∧ Settled serving := by decide
theorem wit_sessions_key : (dtlsKey serving).isSome = true := rfl
theorem wit_sessions_unable : ({ client with proof := false } : ClientIn).proof = false := rfl
theorem wit_sessions_full : 64 ≤ ({ serving with bey.dtls := (List.range 64).map fun n => (n, ⟨1, 2, 0, [], 0, true⟩) } : State).bey.dtls.length := by
  decide
theorem wit_sessions_no_rights : (accessOf { serving with cov.sys.records := [(0x0A010000, [0, 0, 0, 0, 0, 0, 0, 0])] } [1]).2 = 0 := by decide
theorem wit_sessions_child : ethRole [(0x00020000, [1, 1])] 0 ≠ 0 := by decide
theorem wit_sessions_end : tget serving.bey.dtls 0 = some ⟨1, 2, 0, [], 0, true⟩ ∧ tget serving.bey.dtls 1 = none
    ∧ serving.cap.log.takes ⟨0, 2, 0, [0, 2, 4, 0, 1, 0, 0, 0], none⟩ = true := by decide
theorem wit_sessions_mirror : running { serving with twin.role := .mirror } = true := by decide
theorem wit_sessions_servers : serverNamed on .parent = false ∧ serverNamed { on with hw.records := [(0x00030000, List.replicate 40 1)] } .parent = true
    ∧ serverNamed orphan .witness = true ∧ running orphan = true := by decide
theorem wit_sessions_neighbour : ∃ t : BitVec 128, t.toNat = 0xFE80 * 2 ^ 112 + (ownEui serving ^^^ 0x0200000000000000#64).toNat :=
  ⟨BitVec.ofNat 128 (0xFE80 * 2 ^ 112 + 0x0200000000000000), by decide⟩

theorem wit_checks_arrives : Arrives (msg []) ⟨1, 2, 0, [], 0, [], none, none⟩ talking ∧ (msg []).version = 1
    ∧ testBit (rightsOf talking []) 0 = true ∧ testBit (rightsOf talking []) 2 = false ∧ layoutOk 0x30 [] = true ∧ layoutOk 0x10 [] = false := by
  decide
theorem wit_checks_codes : beysynCode (.stageOpen (msg [])) = some (0x30, msg []) ∧ typeRight 0x30 = some 2 ∧ isCached 0x30 = true
    ∧ isStoreQuery 0x10 = true := by decide
theorem wit_checks_outside : running State.reset = false ∧ on.twin.role ≠ .mirror ∧ on.work.isOpen = false := by decide
theorem wit_checks_gasp : ({ talking with work.lastGasp := true } : State).work.handled.contains (0, (msg []).org.pos) = false := by decide
theorem wit_checks_no_session : tget ({ talking with bey.sessions := [] } : State).bey.sessions 3 = none ∧ Due (msg []) { talking with bey.sessions := [] } := by
  decide
theorem wit_checks_repeat : Arrives (msg []) ⟨1, 2, 0, [], 0, [(7, [])], none, none⟩
    { talking with bey.sessions := [(3, ⟨1, 2, 0, [], 0, [(7, [])], none, none⟩)] } := by decide
theorem wit_checks_full : queriesFull { talking with bey.queries := List.replicate 8 ⟨3, 0, []⟩ } 3 = true := by decide
theorem wit_checks_mirror : running { talking with twin.role := .mirror } = true
    ∧ tget ({ talking with twin.role := .mirror, bey.own := talking.bey.sessions } : State).bey.own 3 = some ⟨1, 2, 0, [], 0, [], none, none⟩
    ∧ isQuery 0x21 = false ∧ testBit (rightsOf talking []) 0 = true ∧ layoutOk 0x21 [] = true := by decide
theorem wit_checks_carrier : tget talking.bey.dtls 3 = some ⟨1, 2, 0, [], 0, true⟩ ∧ faultOn talking 0x10 false = false := by decide

/-- A signed seal of tick 5 that follows itself, with one reading leaf of SEQUENCE 3. -/
def sealOf5 : SealSlot :=
  ⟨⟨5, 1, 0, ⟨0, 0⟩, 1, 0, [], [], [], 0, 0, some (1, 1), []⟩, 3, [], 0, []⟩

/-- A record of SEQUENCE 3, with a payload of one byte or none. -/
def record3 (p : Option (List Byte)) : StoredRecord := ⟨⟨0, 0, 0, 4, 0, 0, 3, p⟩, 5, 0, 0, none, 0⟩

/-- `talking` with copies of that seal and that record, answering as of tick 9. -/
def archive (n : Nat) (p : Option (List Byte)) : State :=
  { talking with sys.answer := some 9, store.seals := List.replicate n (5, sealOf5), store.records := [(3, record3 p)] }

/-- A PROOF_READ body. -/
def proofBody (kind seq t s off : Byte) : List Byte :=
  [kind, 0, 0, 0, seq, 0, 0, 0, t, 0, 0, 0, 0, 0, 0, 0, 0, 0, 0, 0, s, 0, 0, 0, 0, 0, 0, 0, off, off, 0, 0]

theorem wit_sealRead_bad : Passes 0x10 0 (msg [0, 0, 0, 0, 0, 0, 0, 0]) client3 talking ∧ ofLe (slice [0, 0, 0, 0, 0, 0, 0, 0] 6 1) = 0 := by
  decide
theorem wit_sealRead_none : Passes 0x10 0 (msg [0, 0, 0, 0, 0, 0, 64, 0]) client3 talking ∧ sealsUpTo talking talking.sys.answer = [] := by decide
theorem wit_sealRead_some : Passes 0x10 0 (msg [5, 0, 0, 0, 0, 0, 1, 1]) client3 (archive 1 none)
    ∧ (((sealsUpTo (archive 1 none) (some 9)).map (·.body)).filter fun y => decide (5 ≤ y.tick.toNat) && (!true || y.sig.isSome)) ≠ [] := by
  decide
theorem wit_recordRead_bad : Passes 0x11 0 (msg [0, 0, 0, 0, 65, 1, 0, 0]) client3 talking ∧ ofLe (slice [0, 0, 0, 0, 65, 1, 0, 0] 4 2) = 321 := by
  decide
theorem wit_recordRead_none : Passes 0x11 0 (msg [3, 0, 0, 0, 64, 1, 0, 0]) client3 talking ∧ recordEntries talking talking.sys.answer 320 3 = [] := by
  decide
theorem wit_recordRead_some : Passes 0x11 0 (msg [3, 0, 0, 0, 1, 0, 0, 0]) client3 (archive 1 none)
    ∧ recordEntries (archive 1 none) (some 9) 1 3 ≠ [] := by decide
theorem wit_payloadRead : Passes 0x12 0 (msg [3, 0, 0, 0, 0, 0, 0, 0]) client3 (archive 1 (some [7]))
    ∧ recordAt (archive 1 (some [7])) (some 9) 3 = some (record3 (some [7]), sealOf5) ∧ recordAt (archive 1 none) (some 9) 4 = none
    ∧ Passes 0x12 0 (msg [4, 0, 0, 0, 0, 0, 0, 0]) client3 (archive 1 none) := by decide
theorem wit_proofRead_kind : Passes 0x13 0 (msg (proofBody 3 3 0 0 0)) client3 talking := by decide
theorem wit_proofRead_early : Passes 0x13 0 (msg (proofBody 0 3 0 4 0)) client3 (archive 1 none)
    ∧ (recordAt (archive 1 none) (some 9) 3).map (·.2) = some sealOf5 ∧ 4 < sealOf5.body.tick.toNat := by decide
theorem wit_proofRead_absent : Passes 0x13 0 (msg (proofBody 2 0 6 0 0)) client3 (archive 1 none)
    ∧ (sealsUpTo (archive 1 none) (some 9)).find? (fun x => x.body.tick.toNat == 6) = none := by decide
theorem wit_proofRead_unsigned : Passes 0x13 0 (msg (proofBody 2 0 5 6 0)) client3 (archive 1 none)
    ∧ (((sealsUpTo (archive 1 none) (some 9)).map (·.body)).find? fun z => z.tick.toNat == 6 && z.sig.isSome) = none := by decide
theorem wit_proofRead_beyond : Passes 0x13 0 (msg (proofBody 2 0 5 5 2)) client3 (archive 1 none) := by decide
theorem wit_proofRead_some : Passes 0x13 0 (msg (proofBody 2 0 5 5 0)) client3 (archive 1 none)
    ∧ (sealsUpTo (archive 1 none) (some 9)).find? (fun x => x.body.tick.toNat == 5) = some sealOf5
    ∧ (((sealsUpTo (archive 1 none) (some 9)).map (·.body)).find? fun z => z.tick.toNat == 5 && z.sig.isSome) = some sealOf5.body
    ∧ proofLeaf (archive 1 none) 2 sealOf5 0 = some (zeros 32, none, []) ∧ chained [sealOf5.body] = true
    ∧ (proofBytes 2 0 0 (zeros 32, none, []) [sealOf5.body] (1, 1)).length ≤ ofLe [2, 2]
    ∧ chained [sealOf5.body, { sealOf5.body with prevHash := [1] }] = false := by decide
theorem chained_again (x : Seal) (h : x.hash = x.prevHash) : ∀ n, chained (List.replicate n x) = true
  | 0 => rfl
  | 1 => rfl
  | n + 2 => by
    show (x.hash == x.prevHash && chained (List.replicate (n + 1) x)) = true
    rw [chained_again x h (n + 1), h]; simp
theorem archive_bodies (n : Nat) : (sealsUpTo (archive n none) (some 9)).map (·.body) = List.replicate n sealOf5.body := by
  show (((List.replicate n (5, sealOf5)).filter fun p => decide (p.1 ≤ 9)).map (·.2)).map (·.body) = _
  rw [List.filter_replicate]
  simp
theorem wit_proofRead_long : chained (List.replicate 8193 sealOf5.body) = true
    ∧ (sealsUpTo (archive 8193 none) (some 9)).map (·.body) = List.replicate 8193 sealOf5.body :=
  ⟨chained_again _ rfl _, archive_bodies _⟩

theorem wit_setList : Passes 0x15 0 (msg []) ⟨1, 2, 0, [], 0, [], none, none⟩ talking := by decide

/-- An observing state: slot 5 of the endpoint table is ACTIVE. -/
def listed5 : State := { talking with view.tables.endpoints := [(5, { Endpoint.blank with state := .active })] }

theorem wit_endpointGet_bad : Passes 0x14 0 (msg (2 :: List.replicate 15 0)) client3 talking
    ∧ Passes 0x14 0 (msg ([0, 0, 0, 0, 0, 0, 16, 0] ++ List.replicate 8 0)) client3 talking := by decide
theorem wit_endpointGet_none : Passes 0x14 0 (msg ([0, 0, 0, 0, 5, 0, 0, 0] ++ List.replicate 8 0)) client3 talking
    ∧ (endpoint (asSealed talking) 5).state = .free
    ∧ Passes 0x14 0 (msg (1 :: List.replicate 15 0)) client3 talking ∧ lookup (asSealed talking) 0 = none := by decide
theorem wit_endpointGet_some : Passes 0x14 0 (msg ([0, 0, 0, 0, 5, 0, 0, 0] ++ List.replicate 8 0)) client3 listed5
    ∧ (endpoint (asSealed listed5) 5).state ≠ .free := by decide
theorem wit_lensObserve : Passes 0x18 0 (msg [1, 0, 0, 0, 4, 0, 0, 0]) client3 talking
    ∧ Passes 0x18 0 (msg [0, 0, 0, 0, 0, 32, 0, 0]) client3 talking ∧ ofLe (slice [0, 0, 0, 0, 0, 32, 0, 0] 4 2) = 8192 := by decide
theorem wit_lensRecorder_bad : Passes 0x19 0 (msg [0, 0, 4, 0, 1, 0, 0, 0]) client3 talking ∧ ofLe (slice [0, 0, 4, 0, 1, 0, 0, 0] 0 4) = 262144 := by
  decide
theorem wit_lensRecorder_grain : Passes 0x19 0 (msg [255, 255, 255, 255, 0, 1, 0, 0]) client3
      { talking with recorder.bad := [0], recorder.mark := 1, recorder.base := 1 }
    ∧ ({ talking with recorder.bad := [0], recorder.mark := 1, recorder.base := 1 } : State).recorder.read 0 256 = .unreadable 0 := by decide
theorem wit_lensRecorder_read : Passes 0x19 0 (msg [255, 255, 3, 0, 1, 0, 0, 0]) client3 talking
    ∧ talking.recorder.read 262143 1 = .records 262143 262143 [] := by decide
theorem wit_lensClear : Passes 0x1A 6 (msg (List.replicate 8 0)) client3 (ruled 1) ∧ lifeState (asSealed (ruled 1)) ≠ .field
    ∧ Passes 0x1A 6 (msg (List.replicate 8 0)) client3 (ruled 3) ∧ lifeState (asSealed (ruled 3)) = .field ∧ (ruled 3).bey.clear = none := by
  decide
theorem wit_lensClear_again : Passes 0x1A 6 (msg (List.replicate 8 0)) client3 { ruled 3 with bey.clear := some (3, []) }
    ∧ lifeState (asSealed { ruled 3 with bey.clear := some (3, []) }) = .field := by decide
theorem wit_write : Passes 0x28 1 (msg [0x30, 0, 0, 0, 0, 1, 0, 0, 0, 1, 0, 0]) client3 (ruled 3)
    ∧ Passes 0x28 1 (msg [0x34, 0, 0, 0, 0, 0, 0, 0, 0, 1, 0, 0]) client3 (ruled 3)
    ∧ Passes 0x28 1 (msg [0x30, 0, 0, 0, 255, 0, 0, 0, 1, 0, 0, 0]) client3 (ruled 3)
    ∧ Passes 0x28 1 (msg [0x38, 0, 0, 0, 0, 0, 0, 128, 0, 0, 0, 128]) client3 (ruled 3)
    ∧ Passes 0x28 1 (msg [0x3C, 0, 0, 0, 0, 128, 0, 0, 0, 128, 0, 0]) client3 (ruled 3) := by
  refine ⟨?_, ?_, ?_, ?_, ?_⟩ <;> decide
theorem wit_write_masks : (0x100#32 &&& ~~~0xFF#32 ≠ 0) ∧ 0xFF#32 &&& ~~~0xFF#32 = 0 ∧ 0x80000000#32 &&& ~~~0xFFFFFFFF#32 = 0
    ∧ 0x8000#32 &&& ~~~0xFFFF#32 = 0 := by decide

/-- `talking` with a subscription from tick 5 on and its seal of tick 5 durable. -/
def noticed : State :=
  { talking with bey.sessions := [(3, { client3 with sub := some ⟨9, false, 5⟩ })], store.durable := some 5,
                 store.seals := [(5, ⟨⟨5, 0, 0, ⟨0, 0⟩, 0, 0, [], [], [], 0, 0, none, []⟩, 0, [], 0, []⟩)] }

theorem wit_subscribe : Passes 0x20 0 (msg (List.replicate 8 0)) client3 talking ∧ Passes 0x21 0 (msg []) client3 talking := by decide
theorem wit_sealNotice_none : tget talking.bey.sessions 3 = some client3 ∧ client3.sub = none ∧ running State.reset = false := by decide
theorem wit_sealNotice_due : running noticed = true ∧ noticed.twin.role ≠ .mirror ∧ tget noticed.bey.sessions 3 = some { client3 with sub := some ⟨9, false, 5⟩ }
    ∧ tget noticed.bey.dtls 3 = some ⟨1, 2, 0, [], 0, true⟩ ∧ faultOn noticed 0x10 false = false
    ∧ ((sealsUpTo noticed noticed.store.durable).find? fun y => decide (5 ≤ y.body.tick.toNat) && (!false || y.body.sig.isSome)).isSome = true := by
  decide
theorem wit_sealNotice_wait : (sealsUpTo { noticed with store.durable := none } none).find?
    (fun y => decide (5 ≤ y.body.tick.toNat) && (!false || y.body.sig.isSome)) = none := by decide
theorem wit_sealNotice_lost : tget ({ noticed with bey.dtls := [] } : State).bey.dtls 3 = none
    ∧ tget ({ noticed with bey.dtls := [(3, ⟨1, 2, 0, [], 0, false⟩)] } : State).bey.dtls 3 = some ⟨1, 2, 0, [], 0, false⟩ := by decide
theorem wit_storeReply : ∀ q ∈ talking.bey.queries, q.session ≠ 3 := by decide
theorem wit_storeReply_some : ({ talking with bey.queries := [⟨3, 0, [7]⟩] } : State).bey.queries.find? (fun q => q.session == 3) = some ⟨3, 0, [7]⟩
    ∧ running talking = true ∧ tget talking.bey.dtls 3 = some ⟨1, 2, 0, [], 0, true⟩ ∧ faultOn talking 0x10 false = false
    ∧ tget (if talking.twin.role = .mirror then talking.bey.own else talking.bey.sessions) 3 = some client3 := by decide

/-- `ruled` with staging session 1 of session 3, holding given items. -/
def staged (items : List Item) : State := { ruled 3 with work.log.tick := 1000, bey.staging := [(1, ⟨3, items⟩)] }

/-- An item that invalidates slot 1, which is free. -/
def dropKey : Item := ⟨6, [1, 0, 0, 0]⟩

/-- A STAGE_COMMIT body of staging session 1 for a boundary below 2^16. -/
def commitBody (lo hi : Byte) : List Byte := [1, 0, 0, 0, lo, hi, 0, 0, 0, 0]

theorem wit_stageOpen : Passes 0x30 2 (msg []) client3 (ruled 3) ∧ tget (ruled 3).bey.staging 1 = none
    ∧ ∀ k, 1 ≤ k → k < 1 → tget (ruled 3).bey.staging k ≠ none := by
  refine ⟨by decide, by decide, fun k _ _ => by omega⟩
theorem wit_stageOpen_full : ∀ n, 1 ≤ n → n ≤ 8 →
    tget ({ ruled 3 with bey.staging := (List.range 9).map fun n => (n, ⟨3, []⟩) } : State).bey.staging n ≠ none := by
  intro n h1 h2
  have : n = 1 ∨ n = 2 ∨ n = 3 ∨ n = 4 ∨ n = 5 ∨ n = 6 ∨ n = 7 ∨ n = 8 := by omega
  rcases this with rfl | rfl | rfl | rfl | rfl | rfl | rfl | rfl <;> decide
theorem wit_stageOpen_busy : Passes 0x30 2 (msg []) client3 { ruled 3 with bey.staging := (List.range 9).map fun n => (n, ⟨3, []⟩) } := by decide
theorem wit_staging_foreign : Passes 0x32 2 (msg [2, 0, 0, 0]) client3 (staged []) ∧ tget (staged []).bey.staging 2 = none
    ∧ Passes 0x31 2 (msg [2, 0, 0, 0]) client3 (staged []) := by decide
theorem wit_staging_foreign2 : Passes 0x33 2 (msg (2 :: List.replicate 9 0)) client3 (staged []) ∧ Passes 0x34 2 (msg [2, 0, 0, 0]) client3 (staged []) := by
  decide
theorem wit_stageAdd : Passes 0x31 2 (msg [1, 0, 1, 0, 6, 0, 4, 0, 1, 0, 0, 0]) client3 (staged [])
    ∧ tget (staged []).bey.staging 1 = some ⟨3, []⟩ ∧ parseItems 1 [6, 0, 4, 0, 1, 0, 0, 0] = some [dropKey] ∧ itemEncodes dropKey = true
    ∧ firstBeyond 524288 0 [dropKey] = none := by decide
theorem wit_stageAdd_bad : Passes 0x31 2 (msg [1, 0, 1, 0, 0, 0, 0, 0]) client3 (staged []) ∧ parseItems 1 [0, 0, 0, 0] = some [⟨0, []⟩]
    ∧ [(⟨0, []⟩ : Item)].findIdx? (fun i => !itemEncodes i) = some 0 := by decide
theorem wit_stageAdd_many : tget (staged (List.replicate 4096 dropKey)).bey.staging 1 = some ⟨3, List.replicate 4096 dropKey⟩
    ∧ 4096 < (List.replicate 4096 dropKey).length + 1 := by
  refine ⟨rfl, ?_⟩
  rw [List.length_replicate]; decide
theorem wit_stageAdd_room : firstBeyond 0 0 [dropKey] = some 0 := by decide
theorem wit_stageCheck : Passes 0x32 2 (msg [1, 0, 0, 0]) client3 (staged [])
    ∧ applyItems Src.stagedSet 0 [] (checkState (tookUp (msg [1, 0, 0, 0]) (staged [])) (2 ^ 48))
      = .ok (checkState (tookUp (msg [1, 0, 0, 0]) (staged [])) (2 ^ 48)) := ⟨by decide, rfl⟩
theorem wit_stageCheck_bad : Passes 0x32 2 (msg [1, 0, 0, 0]) client3 (staged [dropKey])
    ∧ applyItems Src.stagedSet 0 [dropKey] (checkState (tookUp (msg [1, 0, 0, 0]) (staged [dropKey])) (2 ^ 48)) = .error (0, 3, 0) := by
  refine ⟨by decide, rfl⟩
theorem wit_commit_window : Passes 0x33 2 (msg (commitBody 235 3)) client3 (staged []) ∧ ofLe (slice (commitBody 235 3) 4 6) = 1003
    ∧ Passes 0x33 2 (msg [1, 0, 0, 0, 233, 3, 16, 0, 0, 0]) client3 (staged []) ∧ ofLe (slice [1, 0, 0, 0, 233, 3, 16, 0, 0, 0] 4 6) = 1000 + 2 ^ 20 + 1 := by
  decide
theorem wit_commit_held : Passes 0x33 2 (msg (commitBody 236 3)) client3 { staged [] with cov.sys.sets := [(0, ⟨1004, 900, []⟩)] }
    ∧ ofLe (slice (commitBody 236 3) 4 6) = 1004 := by decide
theorem wit_commit_full : Passes 0x33 2 (msg (commitBody 236 3)) client3 { staged [] with cov.sys.sets := List.replicate 32 (0, ⟨2000, 900, []⟩) }
    ∧ 32 ≤ (List.replicate 32 (0, (⟨2000, 900, []⟩ : PendingSet))).length
    ∧ ∀ p ∈ List.replicate 32 (0, (⟨2000, 900, []⟩ : PendingSet)), p.2.boundary.toNat ≠ 1004 := by decide
theorem wit_commit_ok : Passes 0x33 2 (msg (commitBody 236 3)) client3 (staged []) ∧ (staged []).cov.sys.sets = []
    ∧ ¬(458752 < journalNeed (staged []) []) ∧ checkState (tookUp (msg (commitBody 236 3)) (staged [])) 1004 = { tookUp (msg (commitBody 236 3)) (staged []) with cov := (staged []).view } := by
  refine ⟨by decide, by decide, by decide, rfl⟩
theorem wit_commit_ok2 : ¬ vaultBytes (checkState (tookUp (msg (commitBody 236 3)) (staged [])) 1004)
    < vaultBytes (checkState (tookUp (msg (commitBody 236 3)) (staged [])) 1004) := Nat.lt_irrefl _
theorem wit_commit_bad : applyItems Src.stagedSet 0 [dropKey] (checkState (tookUp (msg (commitBody 236 3)) (staged [dropKey])) 1004) = .error (0, 3, 0) := by
  rfl
/-- `staged` with a record of `n` bytes ahead of the ACCESS record. -/
def bulky (n : Nat) : State :=
  { staged [] with view.sys.records := [(0, List.replicate n 0), (0x0A01 * 65536, [0, 0, 255, 255, 127, 0, 64, 0])] }

theorem wit_commit_big : Passes 0x33 2 (msg (commitBody 236 3)) client3 (bulky 458752) ∧ 458752 < journalNeed (bulky 458752) [] := by
  refine ⟨by decide, ?_⟩
  have e : ∀ n, journalNeed (bulky n) [] = 32 + (8 + ceilDiv n 4 * 4) + 16 + 32 := by
    intro n
    show 32 + 8 + ceilDiv (List.replicate n (0 : Byte)).length 4 * 4 + 8 + 2 * 4 + 32 + 0 = _
    rw [List.length_replicate]; omega
  rw [e]; decide
theorem wit_stageDiscard : Passes 0x34 2 (msg [1, 0, 0, 0]) client3 (staged []) := by decide
theorem wit_setAbort : Passes 0x35 2 (msg [236, 3, 0, 0, 0, 0, 0, 0]) client3 (staged [])
    ∧ Passes 0x35 2 (msg [236, 3, 0, 0, 0, 0, 0, 0]) client3 { staged [] with cov.sys.sets := [(0, ⟨1004, 900, []⟩)] } := by decide
theorem wit_setAbort_late : Passes 0x35 2 (msg [235, 3, 0, 0, 0, 0, 0, 0]) client3 { staged [] with cov.sys.sets := [(0, ⟨1003, 900, []⟩)] }
    ∧ ([(0, (⟨1003, 900, []⟩ : PendingSet))].find? fun p => p.2.boundary.toNat == 1003) ≠ none := by decide

/-- A LIFECYCLE body: the action, the EUI-64 of one unit, and a boundary below 2^16. -/
def lcBody (action : Byte) (eui0 lo hi : Byte) : List Byte :=
  [action, 1, 0, 0] ++ [eui0, 0, 0, 0, 0, 0, 0, 0] ++ List.replicate 8 0 ++ [lo, hi, 0, 0, 0, 0] ++ List.replicate 210 0

/-- `ruled` in the processing of log 1000. -/
def ruledAt : State := { ruled 3 with work.log.tick := 1000 }

theorem wit_lifecycle_malformed : Passes 0x38 4 (msg (lcBody 0 0 0 0)) client3 ruledAt ∧ lcOfBody (lcBody 0 0 0 0) = none := by decide
theorem wit_lifecycle_window : Passes 0x38 4 (msg (lcBody 1 0 235 3)) client3 ruledAt
    ∧ ((lcOfBody (lcBody 1 0 235 3)).map fun q => (lcAddressed q ruledAt, q.boundary.toNat)) = some (some false, 1003) := by decide
theorem wit_lifecycle_far : ((lcOfBody (lcBody 1 0 255 255)).map fun q => (lcAddressed q ({ ruledAt with work.log.tick := 0 }), q.boundary.toNat))
    = some (some false, 65535)
    ∧ ((lcOfBody ([1, 1, 0, 0] ++ List.replicate 16 0 ++ [1, 0, 16, 0, 0, 0] ++ List.replicate 210 0)).map fun q => q.boundary.toNat) = some (2 ^ 20 + 1) := by
  decide
theorem wit_lifecycle_far2 : Passes 0x38 4 (msg ([1, 1, 0, 0] ++ List.replicate 16 0 ++ [1, 0, 16, 0, 0, 0] ++ List.replicate 210 0)) client3
    { ruledAt with work.log.tick := 0 } := by decide
theorem wit_lifecycle_checked : Passes 0x38 4 (msg (lcBody 1 0 236 3)) client3 ruledAt
    ∧ ((lcOfBody (lcBody 1 0 236 3)).map fun q => (lcAddressed q ruledAt, q.boundary.toNat)) = some (some false, 1004) := by decide
theorem wit_lifecycle_other : Passes 0x38 4 (msg (lcBody 1 9 236 3)) client3 ruledAt
    ∧ ((lcOfBody (lcBody 1 9 236 3)).map fun q => lcAddressed q ruledAt) = some none := by decide
/-- `ruledAt` on a member of a pair whose mirror last reported the given standby state. -/
def pairAt (standby : Nat) : State :=
  { ruledAt with view.sys.records := [(0x0901 * 65536, 1 :: List.replicate 63 0), (0x0A01 * 65536, [0, 0, 255, 255, 127, 0, 64, 0])],
                 twin.peer := some ⟨5, 0, 2, 0, 0, [], 0⟩, twin.mirror := some ⟨standby, true, true, 0, 999, 999⟩ }

theorem wit_lifecycle_half : Passes 0x38 4 (msg (lcBody 1 0 236 3)) client3 (pairAt 2)
    ∧ ((lcOfBody (lcBody 1 0 236 3)).map fun q => lcAddressed q (pairAt 2)) = some (some true) := by decide
theorem wit_swap_single : Passes 0x39 5 (msg [236, 3, 0, 0, 0, 0, 0, 0]) client3 ruledAt ∧ cfgOf ruledAt.view.sys.records 0x0901 0 0 1 0 ≠ 1 := by
  decide
theorem wit_swap_window : Passes 0x39 5 (msg [235, 3, 0, 0, 0, 0, 0, 0]) client3 (pairAt 2) ∧ cfgOf (pairAt 2).view.sys.records 0x0901 0 0 1 0 = 1
    ∧ Passes 0x39 5 (msg [233, 3, 16, 0, 0, 0, 0, 0]) client3 (pairAt 2) ∧ ofLe (slice [233, 3, 16, 0, 0, 0, 0, 0] 0 6) = 1000 + 2 ^ 20 + 1 := by decide
theorem wit_swap_pending : Passes 0x39 5 (msg [236, 3, 0, 0, 0, 0, 0, 0]) client3 { pairAt 2 with twin.swapAt := some 1100 } := by decide
theorem wit_swap_standby : Passes 0x39 5 (msg [236, 3, 0, 0, 0, 0, 0, 0]) client3 (pairAt 3) ∧ ((pairAt 3).twin.mirror.map (·.standby)).getD 0 = 3
    ∧ Passes 0x39 5 (msg [236, 3, 0, 0, 0, 0, 0, 0]) client3 (pairAt 4) ∧ ((pairAt 4).twin.mirror.map (·.standby)).getD 0 = 4 := by decide

/-- An UPDATE_OPEN body of a KIND for a small SIZE. -/
def openOf (kind size : Byte) : List Byte := [kind, 0, 0, 0] ++ List.replicate 8 0 ++ [size, 0, 0, 0] ++ List.replicate 4 0

theorem wit_updateOpen_bad : Passes 0x40 3 (msg (openOf 2 8)) client3 (ruled 3) ∧ Passes 0x40 3 (msg (openOf 0 3)) client3 (ruled 3) := by decide
theorem wit_updateOpen : Passes 0x40 3 (msg (openOf 0 8)) client3 (ruled 3) ∧ (ruled 3).cov.upd.session = none ∧ campaignRuns (ruled 3) = false := by
  decide
theorem wit_updateOpen_held : Passes 0x40 3 (msg (openOf 0 8)) client3 (updating (delta8 0 false)) ∧ (delta8 0 false).pending = false := by decide
theorem wit_updateOpen_waits : Passes 0x40 3 (msg (openOf 0 8)) client3 (updating (delta8 8 true)) ∧ campaignRuns (updating (delta8 8 true)) = false := by
  decide
theorem wit_updateOpen_campaign : Passes 0x40 3 (msg (openOf 0 8)) client3 { ruled 3 with cov.upd.campaign := some ⟨[], 0, [], 0, 0, 0, []⟩ }
    ∧ campaignRuns { ruled 3 with cov.upd.campaign := some ⟨[], 0, [], 0, 0, 0, []⟩ } = true := by decide
theorem wit_update_other : Passes 0x42 3 (msg []) client3 (ruled 3) ∧ Passes 0x43 3 (msg (List.replicate 8 0)) client3 (updating (delta8 8 true)) := by
  decide
theorem wit_update_other2 : Passes 0x41 3 (msg [0, 0, 0, 0, 1, 0, 0, 0, 9]) client3 (ruled 3) ∧ (ruled 3).cov.upd.session = none := by decide
theorem wit_updateData : Passes 0x41 3 (msg [0, 0, 0, 0, 1, 0, 0, 0, 9]) client3 (updating (delta8 0 false))
    ∧ Passes 0x41 3 (msg [1, 0, 0, 0, 1, 0, 0, 0, 9]) client3 (updating (delta8 0 false))
    ∧ Passes 0x41 3 (msg [8, 0, 0, 0, 1, 0, 0, 0, 9]) client3 (updating (delta8 8 false)) ∧ (delta8 0 false).digest = client3.digest := by
  refine ⟨?_, ?_, ?_, ?_⟩ <;> decide
theorem wit_updateVerify : Passes 0x42 3 (msg []) client3 (updating (delta8 7 false)) ∧ Passes 0x42 3 (msg []) client3 (updating (delta8 8 false)) := by
  decide
theorem wit_updateActivate : Passes 0x43 3 (msg [236, 3, 0, 0, 0, 0, 0, 0]) client3 (updating (delta8 7 false))
    ∧ Passes 0x43 3 (msg [236, 3, 0, 0, 0, 0, 0, 0]) client3 (updating { delta8 8 false with kind := 1 })
    ∧ Passes 0x43 3 (msg [236, 3, 0, 0, 0, 0, 0, 0]) client3 (updating (delta8 8 false))
    ∧ cfg (updating (delta8 8 false)) 0x0901 0 0 1 0 ≠ 1 := by
  refine ⟨?_, ?_, ?_, ?_⟩ <;> decide
theorem wit_updateActivate_window : Passes 0x43 3 (msg [235, 3, 0, 0, 0, 0, 0, 0]) client3 (updating (delta8 8 false))
    ∧ Passes 0x43 3 (msg [233, 3, 16, 0, 0, 0, 0, 0]) client3 (updating (delta8 8 false)) := by decide
/-- `updating` on a primary whose mirror is SYNCED. -/
def updatingPair : State :=
  { updating (delta8 8 false) with
    cov.sys.records := [(0x0901 * 65536, 1 :: List.replicate 63 0)], twin.mirror := some ⟨2, true, true, 0, 999, 999⟩ }
theorem wit_updateActivate_pair : Passes 0x43 3 (msg [236, 3, 0, 0, 0, 0, 0, 0]) client3 updatingPair ∧ (delta8 8 false).target = logUnit updatingPair
    ∧ cfg updatingPair 0x0901 0 0 1 0 = 1 ∧ mirrorReady updatingPair = true := by decide
theorem wit_updateAbort : Passes 0x44 3 (msg []) client3 (ruled 3) ∧ Passes 0x44 3 (msg []) client3 (updating (delta8 8 true))
    ∧ Passes 0x44 3 (msg []) client3 { updating (delta8 8 true) with work.log.tick := 1097 } := by
  refine ⟨?_, ?_, ?_⟩ <;> decide

theorem wit_lapse_not : (∀ u, (updating (delta8 8 false)).cov.upd.session = some u → u.pending = false →
    ((updating (delta8 8 false)).work.log.tick.toNat + 2 ^ 32 - u.lastTick.toNat) % 2 ^ 32
      ≤ cfg (updating (delta8 8 false)) 0x0B01 0 0 4 3600 * ticksPerS (updating (delta8 8 false))) := by
  intro u hu _
  have : u = delta8 8 false := by have : some u = some (delta8 8 false) := hu.symm.trans rfl; cases this; rfl
  subst this; decide
theorem wit_lapse : Processing { updating (delta8 8 false) with work.log.tick := 720001 }
    ∧ cfg { updating (delta8 8 false) with work.log.tick := 720001 } 0x0B01 0 0 4 3600 * ticksPerS { updating (delta8 8 false) with work.log.tick := 720001 }
      < (720001 + 2 ^ 32 - (delta8 8 false).lastTick.toNat) % 2 ^ 32 := by decide
/-- `updating` with one data write of log 5 that is durable. -/
def writing : State := { updating (delta8 8 false) with upd.writes := [⟨5, 0, [1]⟩], store.durable := some 5 }
theorem wit_write_none : ∀ w rest, ({ writing with store.durable := none } : State).upd.writes = w :: rest →
    norOn { writing with store.durable := none } = false ∨ isDurable { writing with store.durable := none } w.log = false := by
  intro w rest _; exact Or.inr rfl
theorem wit_write_data : writing.upd.writes = [⟨5, 0, [1]⟩] ∧ norOn writing = true ∧ isDurable writing 5 = true := by decide
theorem wit_rebuild_not : ∀ u, writing.cov.upd.session = some u →
    norOn writing = false ∨ u.kind ≠ 0 ∨ u.target ≠ ownEui writing ∨ writing.upd.verify ≠ .waiting ∨ writing.upd.writes ≠ [] := by
  intro u _; right; right; right; left; decide
theorem wit_rebuild : norOn { updating (delta8 8 false) with upd.verify := .waiting } = true ∧ (delta8 8 false).kind = 0
    ∧ (delta8 8 false).target = ownEui (updating (delta8 8 false)) ∧ (updating (delta8 8 false)).upd.writes = [] := by decide
/-- A complete meter image session of `size` bytes with a digest. -/
def imaged (size : Nat) : State :=
  { updating { delta8 size false with kind := 1, size := size, complete := true, imageDigest := sha256 [] } with upd.verify := .waiting }
theorem wit_readback : readbackOf (imaged 0) = some (0, sha256 []) ∧ norOn (imaged 0) = true ∧ (imaged 0).upd.writes = []
    ∧ sha256 ((imaged 0).upd.delta.take 0) = sha256 [] := ⟨rfl, by decide, by decide, rfl⟩
theorem wit_readback_short : readbackOf (imaged 8) = some (8, sha256 []) ∧ (imaged 8).upd.delta.length < 8 := ⟨rfl, by decide⟩
theorem wit_readback_none : readbackOf proc = none := by decide
/-- A unit in the pause of an activation at tick 5, all complete. -/
def pausing : State := { on with sys.mode := .pause, upd.activation := some 5, store.durable := some 5 }
theorem wit_dead_window : ∃ a, pausing.upd.activation = some a ∧ pausing.sys.mode = .pause ∧ pausing.upd.deadWindow = false ∧ isDurable pausing a = true
    ∧ pausing.store.checkpoint = none ∧ pausing.store.ckptDue = none ∧ pausing.keys.vaultDue = [] ∧ pausing.nor.journal.due = [] :=
  ⟨5, by decide⟩
theorem wit_dead_window_not : on.upd.activation = none := by decide
theorem wit_rewrite_mirror : ({ on with upd.mirrorRewrite := true } : State).sys.mode = .running ∧ State.reset.sys.mode ≠ .running
    ∧ State.reset.sys.mode ≠ .waiting := by decide
theorem wit_rewrite : on.upd.mirrorRewrite = false ∧ on.upd.rewriteDue = none ∧ on.sys.mode = .running
    ∧ isDurable { on with upd.rewriteDue := some 5, store.durable := some 5 } 5 = true ∧ norQuiet on = true := by decide

/-- A campaign of two targets in a phase, with one block of its round left; its blocks are 64 bytes, its DEADLINE 0. -/
def camp (phase : Nat) : Campaign := ⟨[0, 0, 0, 0, 7, 0, 64, 0] ++ List.replicate 72 0, 64, [5, 6], 1, phase, 0, [0]⟩

/-- A unit that processes log 1000 with that campaign and a request in flight at slot 5. -/
def campaigning (phase : Nat) (step : MeterStep) (tariff : Nat) : State :=
  { procAt with cov.upd.campaign := some (camp phase), upd.requests := [⟨5, step, tariff, 0, 0⟩], work.log.start := ⟨2000000000, 0⟩,
                cov.upd.tariffs := [(1, ⟨List.replicate 28 0, [5], false, 900⟩)] }

theorem wit_meter_outside : ¬ Processing on := by decide
theorem wit_meter_idle : Processing procAt ∧ takeRequest 5 true procAt = none ∧ takeRequest 5 false procAt = none := by decide
theorem wit_campaign_reply : Processing (campaigning 1 .poll 4)
    ∧ takeRequest 5 true (campaigning 1 .poll 4) = some ⟨5, .poll, 4, 0, 0⟩ ∧ (campaigning 1 .poll 4).cov.upd.campaign = some (camp 1) ∧ (camp 1).phase ≠ 3
    ∧ takeRequest 5 true (campaigning 3 .verify 4) = some ⟨5, .verify, 4, 0, 0⟩ ∧ (camp 3).phase = 3 := by decide
theorem wit_campaign_steps : takeRequest 5 true (campaigning 2 .initiate 4) = some ⟨5, .initiate, 4, 0, 0⟩
    ∧ takeRequest 5 true (campaigning 2 .sizeCheck 4) = some ⟨5, .sizeCheck, 4, 0, 0⟩
    ∧ takeRequest 5 true (campaigning 2 (.repair 0) 4) = some ⟨5, .repair 0, 4, 0, 0⟩
    ∧ takeRequest 5 true (campaigning 2 .verify 4) = some ⟨5, .verify, 4, 0, 0⟩
    ∧ takeRequest 5 true (campaigning 2 .schedule 4) = some ⟨5, .schedule, 4, 0, 0⟩
    ∧ takeRequest 5 true (campaigning 2 .confirm 4) = some ⟨5, .confirm, 4, 0, 0⟩ := by decide
theorem wit_tariff_reply : Processing (campaigning 1 (.tariffSet 6) 1)
    ∧ takeRequest 5 false (campaigning 1 (.tariffSet 6) 1) = some ⟨5, .tariffSet 6, 1, 0, 0⟩
    ∧ tget (campaigning 1 (.tariffSet 6) 1).cov.upd.tariffs 1 = some ⟨List.replicate 28 0, [5], false, 900⟩
    ∧ tget (campaigning 1 (.tariffSet 6) 2).cov.upd.tariffs 2 = none
    ∧ takeRequest 5 false (campaigning 1 (.tariffSet 6) 2) = some ⟨5, .tariffSet 6, 2, 0, 0⟩ := by decide
theorem wit_tariff_steps : takeRequest 5 false (campaigning 1 (.tariffSet 9) 1) = some ⟨5, .tariffSet 9, 1, 0, 0⟩
    ∧ takeRequest 5 false (campaigning 1 (.tariffSet 10) 1) = some ⟨5, .tariffSet 10, 1, 0, 0⟩
    ∧ takeRequest 5 false (campaigning 1 .tariffConfirm 1) = some ⟨5, .tariffConfirm, 1, 0, 0⟩ := by decide
theorem wit_silence : (campaigning 1 .poll 4).upd.requests.find? (·.slot == 5) = some ⟨5, .poll, 4, 0, 0⟩ ∧ (0 : BitVec 48).toNat + 256 ≤ 1000
    ∧ (procAt.upd.requests.find? (·.slot == 5)) = none := by decide
theorem wit_silence_third : ({ campaigning 1 .poll 4 with upd.requests := [⟨5, .poll, 4, 0, 2⟩, ⟨6, .tariffSet 6, 1, 0, 2⟩] } : State).upd.requests.find?
    (·.slot == 6) = some ⟨6, .tariffSet 6, 1, 0, 2⟩ := by decide
theorem wit_deadline : ((camp 1).word 0x40 4 : Int) ≤ logUtc (campaigning 1 .poll 4).work.log ∧ (camp 1).phase ≠ 3 ∧ procAt.cov.upd.campaign = none := by
  decide
theorem wit_block : (camp 1).blocks[(camp 1).cursor]? = some 0 ∧ (camp 1).phase = 1 ∧ (camp 2).phase ≠ 1
    ∧ (campaigning 1 .poll 4).upd.lastBlock.toNat + cfg (campaigning 1 .poll 4) 0x0B01 0 4 2 16 ≤ (campaigning 1 .poll 4).work.log.tick.toNat
    ∧ (campaigning 1 .poll 4).upd.hasImage = false := by decide
/-- A target of the campaign in state 4, ready for its reading. -/
def confirming : State :=
  { campaigning 2 .poll 4 with upd.requests := [], cov.ledger.histories := [(pairOf 5 campCode, ⟨0, 4 + 65536 * 7, 0, 0, 0, 0, 0, none⟩)] }
theorem wit_confirm : (camp 2).phase ≠ 3 ∧ 5 ∈ (camp 2).targets ∧ campState confirming (camp 2) 5 = 4
    ∧ ((camp 2).activateAt : Int) + 900 ≤ logUtc confirming.work.log ∧ requestsLeft confirming ≠ 0 ∧ meterIdle confirming 5 = true := by decide
theorem wit_confirm_not : procAt.cov.upd.campaign = none := by decide

/-- A closed seal with one record and one event. -/
def boundSeal (event : List Byte) : SealSlot := ⟨⟨5, 0, 0, ⟨0, 0⟩, 1, 1, [], [], [], 0, 0, none, []⟩, 3, [], 0, [event]⟩
/-- A unit that holds both leaves. -/
def bound : State :=
  { proc with store.records := [(3, ⟨⟨0, 0, 0, 5, 0, 0, 3, none⟩, 5, 0, 0, none, 0⟩)], recorder.written := [(0, ⟨0, 0, 0, 0, 0, 0, 0, 0, 0⟩)] }
theorem wit_proof_leaf : ([[1], [2], [3]] : List Bytes)[2]? = some [3] := by decide
theorem wit_proof_leaves : sealRecords bound (boundSeal []) = some [⟨0, 0, 0, 5, 0, 0, 3, none⟩]
    ∧ (proofLeaf bound 0 (boundSeal []) 0).isSome = true := by decide
theorem proofLeaf_event (b : List Byte) (h : eventHeld bound b = true) : (proofLeaf bound 1 (boundSeal b) 1).isSome = true := by
  show (if eventHeld bound b = true then some _ else none : Option (Bytes × Option Bytes × List Bytes)).isSome = true
  rw [if_pos h]; rfl
theorem wit_proof_event : ∃ b, (proofLeaf bound 1 (boundSeal b) 1).isSome = true := by
  refine ⟨_, proofLeaf_event (EventRec.bytes ⟨0, 0, 0, 0, 0, 0, 0, 0, 0⟩) ?_⟩
  unfold eventHeld
  rw [Bool.or_eq_true, List.any_eq_true]
  exact Or.inl ⟨(0, ⟨0, 0, 0, 0, 0, 0, 0, 0, 0⟩), List.mem_singleton.mpr rfl, beq_self_eq_true _⟩

theorem wit_clear_denied : Passes 0x1A 6 (msg (List.replicate 8 0)) client3 (ruled 1) ∧ lifeState (asSealed (ruled 1)) ≠ .field := by decide

theorem wit_pins : State.reset.sys.mode = .inReset ∧ cap.sys.mode = .running ∧ cap.cap.isOn = true ∧ cap.twin.role = .single
    ∧ paired.sys.mode = .running ∧ paired.twin.role = .mirror ∧ waiting.sys.mode = .waiting := by decide
theorem wit_pins_others : ({ on with sys.mode := .halted } : State).sys.mode = .halted ∧ ({ on with sys.mode := .pause } : State).sys.mode = .pause
    ∧ ({ on with sys.firstTick := true } : State).cap.isOn = false ∧ on.twin.role ≠ .mirror := by decide

theorem wit_rc : rcFields ≠ [] := by decide

end Sys2Proof.Tests
end

section
/-!
SUPPORT. The RC fields of the observation space: their places, and what a clear leaves.
-/
namespace Sys2Proof.Machine

open Sys2Proof

/-! ### Their places -/

/-- One field's bits lie wholly ahead of another's: in a word of a lower address, or lower in the same word. -/
abbrev RcField.Before (f g : RcField) : Prop := f.addr < g.addr ∨ f.addr = g.addr ∧ f.lo + f.width ≤ g.lo

theorem RcField.Before.trans {f g h : RcField} (hfg : f.Before g) (hgh : g.Before h) : f.Before h := by
  unfold RcField.Before at *
  omega

theorem RcField.Before.disjoint {f g : RcField} (h : f.Before g) :
    f.addr ≠ g.addr ∨ f.lo + f.width ≤ g.lo ∨ g.lo + g.width ≤ f.lo := by
  rcases h with hlt | ⟨_, hle⟩
  · exact .inl (Nat.ne_of_lt hlt)
  · exact .inr (.inl hle)

theorem rcFields_inWord : ∀ f ∈ rcFields, f.addr % 4 = 0 ∧ f.addr < 2 ^ 24 ∧ 1 ≤ f.width ∧ f.lo + f.width ≤ 32 := by
  decide +kernel

/-- Each field's bits lie ahead of the next one's. -/
def risingFields : List RcField → Bool
  | f :: g :: l => decide (f.Before g) && risingFields (g :: l)
  | _ => true

theorem pairwise_before_of_rising {l : List RcField} (h : risingFields l = true) : l.Pairwise RcField.Before := by
  induction l with
  | nil => exact .nil
  | cons f l ih =>
    cases l with
    | nil => exact List.pairwise_singleton _ _
    | cons g l =>
      obtain ⟨hfg, hl⟩ : f.Before g ∧ risingFields (g :: l) = true := by
        rwa [risingFields, Bool.and_eq_true, decide_eq_true_eq] at h
      have hg := ih hl
      refine .cons (fun k hk => ?_) hg
      rcases List.mem_cons.mp hk with rfl | hk
      · exact hfg
      · exact hfg.trans ((List.pairwise_cons.mp hg).1 k hk)

/-- The fields are listed in rising order of their bits, so that neighbours alone need comparing. -/
theorem rcFields_rising : risingFields rcFields = true := by decide +kernel

theorem rcFields_pairwise_before : rcFields.Pairwise RcField.Before := pairwise_before_of_rising rcFields_rising

/-! ### What a clear leaves -/

/-- Once a read has cleared the field it reads zero. -/
def RcField.ClearsToZero (f : RcField) : Prop := ∀ s : State, f.get (f.clear s) = 0

/-- A counting field reads zero once cleared where what `put` writes is what `get` reads. -/
theorem rcf_clearsToZero (addr lo : Nat) {w : Nat} {get : State → Rc w} {put : State → Rc w → State}
    (h : ∀ s, get (put s (get s).clear) = (get s).clear) : (rcf addr lo get put).ClearsToZero := by
  intro s
  show (get (put s (get s).clear)).sealed.toNat = 0
  rw [h]
  rfl

@[simp] theorem modPhase_phase_same (p : Nat) (f : PhaseState → PhaseState) (s : State) :
    (modPhase p f s).plc.phase p = f (s.plc.phase p) := by
  unfold modPhase Plc.setPhase Plc.phase
  by_cases h1 : p = 1
  · simp [h1]
  · by_cases h2 : p = 2 <;> simp [h1, h2]

theorem phaseField_clearsToZero (p addr lo : Nat) {w : Nat} {get : PhaseState → Rc w} {put : PhaseState → Rc w → PhaseState}
    (h : ∀ x r, get (put x r) = r) :
    (rcf addr lo (fun s => get (s.plc.phase p)) (fun s r => modPhase p (fun x => put x r) s)).ClearsToZero :=
  rcf_clearsToZero addr lo fun s => by rw [modPhase_phase_same, h]

theorem phaseRc_clearsToZero (p : Nat) : ∀ f ∈ phaseRc p, f.ClearsToZero := by
  unfold phaseRc
  repeat' refine List.forall_mem_cons.mpr ⟨phaseField_clearsToZero _ _ _ fun _ _ => rfl, ?_⟩
  exact List.forall_mem_nil _

@[simp] theorem faultLink_putFaultLink_same (n : Nat) (l : FaultLink) (s : State) : faultLink (putFaultLink n l s) n = l :=
  tgetD_tput_same _ _ _ _

/-- A link that holds no entry yet takes no write, and reads as one never used. -/
theorem linkField_clearsToZero (n addr lo : Nat) {w : Nat} {get : FaultLink → Rc w} {put : FaultLink → Rc w → FaultLink}
    (h : ∀ x r, get (put x r) = r) (hb : get FaultLink.blank = ⟨0, 0⟩) :
    (rcf addr lo (fun s => get (faultLink s n))
      (fun s r => match tget s.test.links n with | some l => putFaultLink n (put l r) s | none => s)).ClearsToZero :=
  rcf_clearsToZero addr lo fun s => by
    cases hl : tget s.test.links n with
    | some l => simp [h]
    | none =>
      have hf : faultLink s n = FaultLink.blank := by simp [faultLink, tgetD, hl]
      simp [hf, hb, Rc.clear]

theorem linkRc_clearsToZero (n : Nat) : ∀ f ∈ linkRc n, f.ClearsToZero := by
  unfold linkRc
  repeat' refine List.forall_mem_cons.mpr ⟨linkField_clearsToZero _ _ _ (fun _ _ => rfl) rfl, ?_⟩
  exact List.forall_mem_nil _

/-- Every other field is a place of the state of its own: its `put` writes the very place that its `get` reads. -/
theorem blockRc_clearsToZero : ∀ f ∈ systemRc ++ plcRc ++ radioRc ++ tablesRc ++ ingestRc ++ storeRc ++ timeRc ++ linkageRc,
    f.ClearsToZero := by
  simp only [List.forall_mem_append]
  refine ⟨⟨⟨⟨⟨⟨⟨?_, ?_⟩, ?_⟩, ?_⟩, ?_⟩, ?_⟩, ?_⟩, ?_⟩
  all_goals
    repeat' refine List.forall_mem_cons.mpr ⟨fun _ => rfl, ?_⟩
    exact List.forall_mem_nil _

theorem rcFields_clearsToZero : ∀ f ∈ rcFields, f.ClearsToZero := by
  have hb := blockRc_clearsToZero
  simp only [List.forall_mem_append] at hb
  obtain ⟨⟨⟨⟨⟨⟨⟨hsys, hplc⟩, hradio⟩, htables⟩, hingest⟩, hstore⟩, htime⟩, hlink⟩ := hb
  have hf : ∀ f ∈ faultLinks.flatMap linkRc, f.ClearsToZero := fun f h => by
    obtain ⟨n, _, hn⟩ := List.mem_flatMap.mp h
    exact linkRc_clearsToZero n f hn
  simp only [rcFields, List.forall_mem_append]
  exact ⟨⟨⟨⟨⟨⟨⟨⟨⟨⟨⟨hsys, phaseRc_clearsToZero 1⟩, phaseRc_clearsToZero 2⟩, phaseRc_clearsToZero 3⟩, hplc⟩, hradio⟩, htables⟩,
    hingest⟩, hstore⟩, htime⟩, hlink⟩, hf⟩

/-- Settles O60: the fields stand in rising order, and what each one's clear writes is what it reads. -/
theorem readsClearTheirFields : Obligations.ReadsClearTheirFields :=
  ⟨rcFields_inWord, rcFields_pairwise_before.imp RcField.Before.disjoint, rcFields_clearsToZero⟩

end Sys2Proof.Machine
end

section
/-!
SUPPORT. ENDPOINT_GET, the Lens messages and WRITE: what each one's own effect answers and does, once the checks of R465 have
passed.
-/
namespace Sys2Proof.Machine

open Sys2Proof

variable {m : Msg} {x : Session} {s : State}

/-! ### From the command to its own effect -/

/-- A message that passes the checks and is for this unit is answered with its reply over its effect. -/
theorem done_beysynMessage_passes {type right : Nat} {r : Reply} {t : State} (hr : typeRight type = some right)
    (h : Passes type right m x s) (hs : serve (ctxOf m) x type m.body (tookUp m s) = (some r, t)) :
    done s (beysynMessage type m s) = .next (kept s (answered type m r t)) := by
  rw [done_eq, beysynMessage_passes _ _ _ _ _ hr h, hs]

theorem exec_endpointGet_passes (h : Passes 0x14 0 m x s) :
    exec (.endpointGet m) s = .next (kept s (answered 0x14 m (endpointGetReply m.body s) (tookUp m s))) :=
  done_beysynMessage_passes rfl h rfl

theorem exec_lensObserve_passes {r : Reply} {t : State} (h : Passes 0x18 0 m x s)
    (he : lensObserve (ctxOf m) m.body (tookUp m s) = (r, t)) :
    exec (.lensObserve m) s = .next (kept s (answered 0x18 m r t)) :=
  done_beysynMessage_passes rfl h (congrArg (fun p => (some p.1, p.2)) he)

theorem exec_lensRecorder_passes {r : Reply} {t : State} (h : Passes 0x19 0 m x s)
    (he : lensRecorder (ctxOf m) x m.body (tookUp m s) = (r, t)) :
    exec (.lensRecorder m) s = .next (kept s (answered 0x19 m r t)) :=
  done_beysynMessage_passes rfl h (congrArg (fun p => (some p.1, p.2)) he)

theorem exec_lensClear_passes {r : Reply} {t : State} (h : Passes 0x1A 6 m x s)
    (he : lensClear (ctxOf m) x (tookUp m s) = (r, t)) :
    exec (.lensClear m) s = .next (kept s (answered 0x1A m r t)) :=
  done_beysynMessage_passes rfl h (congrArg (fun p => (some p.1, p.2)) he)

theorem exec_write_passes {r : Reply} {t : State} (h : Passes 0x28 1 m x s) (he : directWrite m.body (tookUp m s) = (r, t)) :
    exec (.write m) s = .next (kept s (answered 0x28 m r t)) :=
  done_beysynMessage_passes rfl h (congrArg (fun p => (some p.1, p.2)) he)

/-- A unit that is no mirror sends the replies to the messages of its log. -/
theorem sends_of_due (h : Due m s) : (ctxOf m).sends (tookUp m s) = true := by
  have hm : s.twin.role ≠ .mirror := h.2.1
  simp [MsgCtx.sends, ctxOf, tookUp, hm]

theorem addressOk_iff {a : Nat} : addressOk a = true ↔ a < 2 ^ 24 ∧ a % 4 = 0 := by
  simp [addressOk]

/-! ### ENDPOINT_GET (R473) -/

/-- BY is a reserved value, or names a slot beyond 20 bits. -/
abbrev BadEndpointKey (b : Bytes) : Prop := 1 < ofLe (slice b 0 1) ∨ (ofLe (slice b 0 1) = 0 ∧ 2 ^ 20 ≤ ofLe (slice b 4 4))

/-- The slot that a request gives by its number or by an EUI-64. -/
abbrev requestedSlot (b : Bytes) (s : State) : Option Nat :=
  if ofLe (slice b 0 1) = 0 then some (ofLe (slice b 4 4)) else lookup (asSealed s) (euiOf (slice b 8 8))

theorem endpointGetReply_malformed {b : Bytes} (h : BadEndpointKey b) : endpointGetReply b s = .malformed := if_pos h

theorem endpointGetReply_notFound {b : Bytes} (h : ¬BadEndpointKey b)
    (hf : ∀ slot, requestedSlot b s = some slot → (endpoint (asSealed s) slot).state = .free) :
    endpointGetReply b s = .notFound := by
  refine (if_neg h).trans ?_
  change (match requestedSlot b s with | none => _ | some slot => _) = _
  cases hs : requestedSlot b s with
  | none => rfl
  | some slot => exact if_pos (hf slot hs)

/-- The 296 bytes of R473. -/
def endpointEntry (slot : Nat) (s : State) : Bytes :=
  let eui := ((s.view.tables.ways.find? fun w => w.2.slot.toNat == slot).map (·.2.eui)).getD 0
  let link := linkOfSlot s.view.tables.links slot
  le 4 slot ++ zeros 4 ++ euiBytes eui ++ (endpoint (asSealed s) slot).bytes ++ le 2 (link.getD 0xFFFF) ++ zeros 6
    ++ (match link with | some i => fit 256 (linkEntry (asSealed s) i).bytes | none => zeros 256)

theorem endpointGetReply_ok {b : Bytes} {slot : Nat} (h : ¬BadEndpointKey b) (hs : requestedSlot b s = some slot)
    (hf : (endpoint (asSealed s) slot).state ≠ .free) : endpointGetReply b s = .ok (endpointEntry slot s) := by
  refine (if_neg h).trans ?_
  change (match requestedSlot b s with | none => _ | some slot => _) = _
  rw [hs]
  exact if_neg hf

/-! ### LENS_OBSERVE (R475) -/

/-- An address and a length that LENS_OBSERVE reads. -/
abbrev GoodRange (a len : Nat) : Prop := a < 2 ^ 24 ∧ a % 4 = 0 ∧ 4 ≤ len ∧ len ≤ 8192 ∧ len % 4 = 0

theorem badRange_iff {a len : Nat} : (!addressOk a ∨ len < 4 ∨ 8192 < len ∨ len % 4 ≠ 0) ↔ ¬GoodRange a len := by
  have ha := addressOk_iff (a := a)
  cases h : addressOk a <;> simp [h, GoodRange] at ha ⊢ <;> omega

theorem lensObserve_malformed {c : MsgCtx} {b : Bytes} (h : ¬GoodRange (ofLe (slice b 0 4)) (ofLe (slice b 4 2))) :
    lensObserve c b s = (.malformed, s) := if_pos (badRange_iff.mpr h)

theorem lensObserve_ok {c : MsgCtx} {b : Bytes} (h : GoodRange (ofLe (slice b 0 4)) (ofLe (slice b 4 2)))
    (hc : c.sends s = true) :
    lensObserve c b s
      = (.ok (le 4 (ofLe (slice b 0 4)) ++ le 2 (ofLe (slice b 4 2)) ++ zeros 2
          ++ (observe (ofLe (slice b 0 4)) (ofLe (slice b 4 2)) s).1), (observe (ofLe (slice b 0 4)) (ofLe (slice b 4 2)) s).2) := by
  refine (if_neg fun hbad => badRange_iff.mp hbad h).trans ?_
  rw [hc]
  rfl

/-! ### LENS_RECORDER (R526 to R529) -/

/-- A COUNT and a START that LENS_RECORDER takes; a START of all ones is the session's cursor. -/
abbrev GoodExport (start count : Nat) : Prop := 1 ≤ count ∧ count ≤ 256 ∧ (start ≤ 262143 ∨ start = 0xFFFFFFFF)

theorem badExport_iff {start count : Nat} :
    (count = 0 ∨ 256 < count ∨ (262143 < start ∧ start ≠ 0xFFFFFFFF)) ↔ ¬GoodExport start count := by
  unfold GoodExport
  omega

/-- The index that a START reads from. -/
abbrev exportFrom (start : Nat) (x : Session) : Nat := if start = 0xFFFFFFFF then x.cursor else start

theorem lensRecorder_malformed {c : MsgCtx} {b : Bytes} (h : ¬GoodExport (ofLe (slice b 0 4)) (ofLe (slice b 4 2))) :
    lensRecorder c x b s = (.malformed, s) := if_pos (badExport_iff.mpr h)

theorem lensRecorder_unreadable {c : MsgCtx} {b : Bytes} {i : Nat} (h : GoodExport (ofLe (slice b 0 4)) (ofLe (slice b 4 2)))
    (hr : s.recorder.read (exportFrom (ofLe (slice b 0 4)) x) (ofLe (slice b 4 2)) = .unreadable i) :
    lensRecorder c x b s = (⟨6, 0, i, []⟩, c.put { x with cursor := i + 128 } s) := by
  refine (if_neg fun hbad => badExport_iff.mp hbad h).trans ?_
  rw [hr]

/-- The exported bytes ahead of their signature. -/
def exportBody (first next : Nat) (recs : List EventRec) : Bytes :=
  le 4 first ++ le 2 recs.length ++ zeros 2 ++ le 4 next ++ zeros 4 ++ recs.flatMap EventRec.bytes

/-- The signature over exported bytes, where exports have a signer. -/
def exportTrailer (body : Bytes) (s : State) : Bytes :=
  match exportSigner (asSealed s) with
  | some (_, d) => sigBytes (ecdsaSign d (sha256 (euiBytes (ownEui s) ++ le 8 (s.sys.image.ledgerId.getD 0).toNat ++ body)))
  | none => []

theorem lensRecorder_ok {c : MsgCtx} {b : Bytes} {first next : Nat} {recs : List EventRec}
    (h : GoodExport (ofLe (slice b 0 4)) (ofLe (slice b 4 2)))
    (hr : s.recorder.read (exportFrom (ofLe (slice b 0 4)) x) (ofLe (slice b 4 2)) = .records first next recs) :
    lensRecorder c x b s = (.ok (exportBody first next recs ++ exportTrailer (exportBody first next recs) s),
      c.put { x with cursor := next } s) := by
  refine (if_neg fun hbad => badExport_iff.mp hbad h).trans ?_
  rw [hr]
  rfl

/-! ### LENS_CLEAR (R477, R530) -/

theorem lensClear_denied {c : MsgCtx} (h : lifeState (asSealed s) ≠ .field) : lensClear c x s = (.denied, s) := if_pos h

theorem lensClear_conflict {c : MsgCtx} (h : lifeState (asSealed s) = .field) (hc : s.bey.clear ≠ none) :
    lensClear c x s = (.conflict 1 0, s) :=
  (if_neg (not_not_intro h)).trans (if_pos (Option.isSome_iff_ne_none.mpr hc))

theorem lensClear_ok {c : MsgCtx} (h : lifeState (asSealed s) = .field) (hc : s.bey.clear = none) :
    lensClear c x s = (.ok [], raise c.src 0x0052 [s.recorder.writePos, c.session, digestLow x.digest]
      { s with bey.clear := some (c.session, x.digest) }) :=
  (if_neg (not_not_intro h)).trans (if_neg (by simp [hc]))

/-! ### WRITE (R478) -/

/-- The bits of a word that WRITE may name: those of ALERT_LATCH and of EXPORT_MARK. -/
abbrev openBits (a : Nat) : BitVec 32 := if a = 0x30 then 0xFF else if a = 0x38 then 0xFFFFFFFF else if a = 0x3C then 0xFFFF else 0

theorem writable_openBits (a : Nat) : BitVec.ofNat 32 (writable a).1 ||| BitVec.ofNat 32 (writable a).2 = openBits a := by
  unfold writable openBits
  by_cases h30 : a = 0x30
  · rw [if_pos h30, if_pos h30]; rfl
  by_cases h38 : a = 0x38
  · rw [if_neg h30, if_neg h30, if_pos h38, if_pos h38]; rfl
  by_cases h3C : a = 0x3C
  · rw [if_neg h30, if_neg h30, if_neg h38, if_neg h38, if_pos h3C, if_pos h3C]; rfl
  · rw [if_neg h30, if_neg h30, if_neg h38, if_neg h38, if_neg h3C, if_neg h3C]; rfl

/-- An address and a MASK that WRITE takes. -/
abbrev GoodWrite (a : Nat) (mask : BitVec 32) : Prop := a < 2 ^ 24 ∧ a % 4 = 0 ∧ mask &&& ~~~openBits a = 0

/-- Outside the words that WRITE reaches no MASK but the empty one is good. -/
theorem GoodWrite.word {a : Nat} {mask : BitVec 32} (h : GoodWrite a mask) (hm : mask ≠ 0) : a = 0x30 ∨ a = 0x38 ∨ a = 0x3C := by
  refine Decidable.by_contra fun ha => hm ?_
  obtain ⟨h30, h38, h3C⟩ : a ≠ 0x30 ∧ a ≠ 0x38 ∧ a ≠ 0x3C := by omega
  have hopen : mask &&& ~~~openBits a = 0 := h.2.2
  simp only [openBits, h30, h38, h3C, if_false] at hopen
  rwa [show ~~~(0 : BitVec 32) = BitVec.allOnes 32 from rfl, BitVec.and_allOnes] at hopen

/-- `old` with the bits of `mask` taken from `v`. -/
def masked (mask v old : BitVec 32) : BitVec 32 := (old &&& ~~~mask) ||| (v &&& mask)

theorem masked_getLsbD (mask v old : BitVec 32) {i : Nat} (hi : i < 32) :
    (masked mask v old).getLsbD i = if mask.getLsbD i = true then v.getLsbD i else old.getLsbD i := by
  simp only [masked, BitVec.getLsbD_or, BitVec.getLsbD_and, BitVec.getLsbD_not, hi, decide_true, Bool.true_and]
  cases mask.getLsbD i <;> simp

/-- EXPORT_MARK from its high and its low word. -/
def markOf (high : BitVec 16) (low : BitVec 32) : BitVec 48 := high ++ low

theorem markOf_getLsbD_low (high : BitVec 16) (low : BitVec 32) {i : Nat} (hi : i < 32) :
    (markOf high low).getLsbD i = low.getLsbD i := BitVec.getLsbD_append.trans (if_pos hi)

theorem markOf_getLsbD_high (high : BitVec 16) (low : BitVec 32) (i : Nat) :
    (markOf high low).getLsbD (32 + i) = high.getLsbD i :=
  (BitVec.getLsbD_append.trans (if_neg (by omega))).trans (by rw [Nat.add_sub_cancel_left])

/-- The low word of EXPORT_MARK. -/
def markLow (mark : BitVec 48) : BitVec 32 := mark.setWidth 32

/-- The high word of EXPORT_MARK, of which it holds 16 bits. -/
def markHigh (mark : BitVec 48) : BitVec 32 := (mark >>> 32).setWidth 32

theorem markLow_getLsbD (mark : BitVec 48) {i : Nat} (hi : i < 32) : (markLow mark).getLsbD i = mark.getLsbD i := by
  rw [markLow, BitVec.getLsbD_setWidth, decide_eq_true hi, Bool.true_and]

theorem markHigh_getLsbD (mark : BitVec 48) {i : Nat} (hi : i < 32) : (markHigh mark).getLsbD i = mark.getLsbD (32 + i) := by
  rw [markHigh, BitVec.getLsbD_setWidth, decide_eq_true hi, Bool.true_and, BitVec.getLsbD_ushiftRight]

theorem setWidth16_getLsbD (word : BitVec 32) {i : Nat} (hi : i < 16) : (word.setWidth 16).getLsbD i = word.getLsbD i := by
  rw [BitVec.getLsbD_setWidth, decide_eq_true hi, Bool.true_and]

/-- EXPORT_MARK after a WRITE to the word at `a`. -/
def writtenMark (a : Nat) (mask v : BitVec 32) (mark : BitVec 48) : BitVec 48 :=
  if a = 0x38 then markOf ((markHigh mark).setWidth 16) (masked mask v (markLow mark))
  else markOf ((masked mask v (markHigh mark)).setWidth 16) (markLow mark)

theorem writtenMark_getLsbD_low {a : Nat} (mask v : BitVec 32) (mark : BitVec 48) {i : Nat} (hi : i < 32) :
    (writtenMark a mask v mark).getLsbD i
      = if a = 0x38 ∧ mask.getLsbD i = true then v.getLsbD i else mark.getLsbD i := by
  unfold writtenMark
  by_cases ha : a = 0x38
  · simp only [ha, if_true, true_and, markOf_getLsbD_low _ _ hi, masked_getLsbD _ _ _ hi, markLow_getLsbD _ hi]
  · simp only [ha, if_false, false_and, markOf_getLsbD_low _ _ hi, markLow_getLsbD _ hi]

theorem writtenMark_getLsbD_high {a : Nat} (ha : a = 0x38 ∨ a = 0x3C) (mask v : BitVec 32) (mark : BitVec 48) {i : Nat}
    (hi : i < 16) :
    (writtenMark a mask v mark).getLsbD (32 + i)
      = if a = 0x3C ∧ mask.getLsbD i = true then v.getLsbD i else mark.getLsbD (32 + i) := by
  have h32 : i < 32 := by omega
  unfold writtenMark
  rcases ha with rfl | rfl
  · rw [if_pos rfl, if_neg (by simp), markOf_getLsbD_high, setWidth16_getLsbD _ hi, markHigh_getLsbD _ h32]
  · simp only [Nat.reduceEqDiff, if_false, true_and, markOf_getLsbD_high, setWidth16_getLsbD _ hi, masked_getLsbD _ _ _ h32,
      markHigh_getLsbD _ h32]

/-- The MASK of a WRITE. -/
abbrev writeMask (b : Bytes) : BitVec 32 := BitVec.ofNat 32 (ofLe (slice b 4 4))

/-- The value of a WRITE. -/
abbrev writeValue (b : Bytes) : BitVec 32 := BitVec.ofNat 32 (ofLe (slice b 8 4))

theorem badWrite_iff {a : Nat} {mask : BitVec 32} :
    (!addressOk a ∨ mask &&& ~~~(BitVec.ofNat 32 (writable a).1 ||| BitVec.ofNat 32 (writable a).2) ≠ 0) ↔ ¬GoodWrite a mask := by
  rw [writable_openBits, GoodWrite, ← and_assoc, ← addressOk_iff]
  cases addressOk a <;> simp

theorem directWrite_malformed {b : Bytes} (h : ¬GoodWrite (ofLe (slice b 0 4)) (writeMask b)) :
    directWrite b s = (.malformed, s) := if_pos (badWrite_iff.mpr h)

theorem directWrite_notFound {b : Bytes} (h : GoodWrite (ofLe (slice b 0 4)) (writeMask b)) (hm : writeMask b = 0) :
    directWrite b s = (.notFound, s) := (if_neg fun hbad => badWrite_iff.mp hbad h).trans (if_pos hm)

theorem directWrite_latch {b : Bytes} (h : GoodWrite (ofLe (slice b 0 4)) (writeMask b)) (hm : writeMask b ≠ 0)
    (ha : ofLe (slice b 0 4) = 0x30) :
    directWrite b s
      = (.ok [], { s with bey.alert := s.bey.alert &&& ~~~((writeMask b &&& writeValue b).setWidth 8) }) :=
  ((if_neg fun hbad => badWrite_iff.mp hbad h).trans (if_neg hm)).trans (congrArg (Prod.mk (Reply.ok [])) (if_pos ha))

theorem directWrite_mark {b : Bytes} (h : GoodWrite (ofLe (slice b 0 4)) (writeMask b)) (hm : writeMask b ≠ 0)
    (ha : ofLe (slice b 0 4) ≠ 0x30) :
    directWrite b s
      = (.ok [], { s with bey.mark := writtenMark (ofLe (slice b 0 4)) (writeMask b) (writeValue b) s.bey.mark }) := by
  refine ((if_neg fun hbad => badWrite_iff.mp hbad h).trans (if_neg hm)).trans
    (congrArg (Prod.mk (Reply.ok [])) ((if_neg ha).trans ?_))
  unfold writtenMark
  by_cases h38 : ofLe (slice b 0 4) = 0x38
  · rw [if_pos h38, if_pos h38]
    rfl
  · rw [if_neg h38, if_neg h38]
    rfl

end Sys2Proof.Machine
end

section
/-!
SUPPORT. What ENDPOINT_GET, the Lens messages and WRITE answer and do.
-/
namespace Sys2Proof.Machine

open Sys2Proof

/-- Settles O49: each message that passes the checks of R465 is answered by its own effect, case by case of its operands. -/
theorem beysynObservesAndWrites : Obligations.BeysynObservesAndWrites := by
  refine ⟨?endpointGet, ?lensObserve, ?lensRecorder, ?lensClear, ?write⟩
  case endpointGet =>
    intro m x s h by_ given slotOf
    rw [exec_endpointGet_passes h]
    refine ⟨fun hbad => ?_, fun hby => ?_⟩
    · rw [endpointGetReply_malformed hbad]
      rfl
    have hgood : ¬BadEndpointKey m.body := by
      change ¬(1 < by_ ∨ by_ = 0 ∧ 2 ^ 20 ≤ given)
      omega
    refine ⟨fun hfree => ?_, fun slot hslot hfree => ?_⟩
    · rw [endpointGetReply_notFound hgood hfree]
      rfl
    · rw [endpointGetReply_ok hgood hslot hfree]
      rfl
  case lensObserve =>
    intro m x s h a len good
    exact ⟨fun hbad => exec_lensObserve_passes h (lensObserve_malformed hbad),
      fun hgood => exec_lensObserve_passes h (lensObserve_ok hgood (sends_of_due h.1.1))⟩
  case lensRecorder =>
    intro m x s h start count good read moved
    exact ⟨fun hbad => exec_lensRecorder_passes h (lensRecorder_malformed hbad),
      fun i hgood hread => exec_lensRecorder_passes h (lensRecorder_unreadable hgood hread),
      fun first next recs hgood hread => exec_lensRecorder_passes h (lensRecorder_ok hgood hread)⟩
  case lensClear =>
    intro m x s h
    exact ⟨fun hfield => exec_lensClear_passes h (lensClear_denied hfield),
      fun hfield hclear => exec_lensClear_passes h (lensClear_conflict hfield hclear),
      fun hfield hclear => exec_lensClear_passes h (lensClear_ok hfield hclear)⟩
  case write =>
    intro m x s h a mask v open_ good
    refine ⟨fun hbad => exec_write_passes h (directWrite_malformed hbad),
      fun hgood hmask => exec_write_passes h (directWrite_notFound hgood hmask),
      fun hgood hmask ha => exec_write_passes h (directWrite_latch hgood hmask ha), fun hgood hmask ha => ?_,
      fun hgood hmask => GoodWrite.word hgood hmask⟩
    have hne : a ≠ 0x30 := by omega
    exact ⟨writtenMark a mask v s.bey.mark, exec_write_passes h (directWrite_mark hgood hmask hne),
      fun i hi => writtenMark_getLsbD_low mask v s.bey.mark hi, fun i hi => writtenMark_getLsbD_high ha mask v s.bey.mark hi⟩

end Sys2Proof.Machine
end

section
/-!
SUPPORT. A Beysyn message on its way to its own effect, check by check, and a reply on its way out.
-/
namespace Sys2Proof.Machine

open Sys2Proof

variable {c : MsgCtx} {x : Session} {type right : Nat} {v : Byte} {b : Bytes} {s : State}

/-! ### The checks of one message (R463, R465, R467, R468) -/

/-- A message of a session is counted (R488). -/
def counted (s : State) : State := { s with bey.messages := s.bey.messages.inc }

/-- The event of a DENIED reply to a message of the log (R489). -/
def deniedNoted (c : MsgCtx) (type : Nat) (r : Reply) (s : State) : State :=
  if r.status = 4 ∧ !c.own then raise c.src 0xA004 [c.session, type] s else s

theorem takeMessage_absent (h : ∀ x, c.find s = some x → x.ended.isSome = true) : takeMessage c v type b s = s := by
  unfold takeMessage
  cases hf : c.find s with
  | none => rfl
  | some x => exact if_pos (h x hf)

theorem takeMessage_version (hf : c.find s = some x) (he : x.ended = none) (hv : v ≠ 1) :
    takeMessage c v type b s = respond c type false false .malformed (counted s) := by
  simp only [takeMessage, hf, he, hv, Option.isSome_none, Bool.false_eq_true, if_false, ne_eq, not_false_eq_true, if_true]
  rfl

theorem takeMessage_repeat {r : BitVec 32 × Bytes} (hf : c.find s = some x) (he : x.ended = none) (hc : isCached type = true)
    (hr : x.replies.find? (·.1 == c.rid) = some r) :
    takeMessage c 1 type b s = c.send r.2 { counted s with bey.dupRequests := s.bey.dupRequests.inc } := by
  simp only [takeMessage, hf, he, hc, hr, Option.isSome_none, Bool.false_eq_true, if_false, ne_eq, not_true_eq_false, if_true]
  rfl

/-- A message that repeats no request that is held is answered as its checks say. -/
theorem takeMessage_answers {r : Reply} {later : Bool} {t : State} (hf : c.find s = some x) (he : x.ended = none)
    (hr : isCached type = true → x.replies.find? (·.1 == c.rid) = none)
    (hs : checkedServe c x type b (counted s) = (some r, later, t)) :
    takeMessage c 1 type b s = respond c type later (isCached type) r (deniedNoted c type r t) := by
  have hheld : (if isCached type = true then x.replies.find? (·.1 == c.rid) else none) = none := by
    split
    · exact hr ‹_›
    · rfl
  simp only [takeMessage, hf, he, hheld, Option.isSome_none, Bool.false_eq_true, if_false, ne_eq, not_true_eq_false]
  change (match checkedServe c x type b (counted s) with | (none, _, s) => s | (some r, later, s) => _) = _
  rw [hs]
  rfl

theorem checkedServe_layout (hr : typeRight type = some right) (hl : layoutOk type b = false) :
    checkedServe c x type b s = (some .malformed, false, s) := by
  simp [checkedServe, hr, hl]

theorem checkedServe_right (hr : typeRight type = some right) (hl : layoutOk type b = true)
    (ht : testBit (rightsOf s x.digest) right = false) : checkedServe c x type b s = (some .denied, false, s) := by
  simp [checkedServe, hr, hl, ht]

theorem checkedServe_own (hr : typeRight type = some right) (hl : layoutOk type b = true)
    (ht : testBit (rightsOf s x.digest) right = true) (ho : c.own = true) (hq : isQuery type = false) :
    checkedServe c x type b s = (some .busy, false, s) := by
  simp [checkedServe, hr, hl, ht, ho, hq]

theorem checkedServe_full (hr : typeRight type = some right) (hl : layoutOk type b = true)
    (ht : testBit (rightsOf s x.digest) right = true) (ho : c.own = false) (hq : isStoreQuery type = true)
    (hs : c.sends s = true) (hf : queriesFull s c.session = true) :
    checkedServe c x type b s = (some .busy, false, s) := by
  simp [checkedServe, hr, hl, ht, ho, hq, hs, hf]

/-! ### From the command to the message -/

theorem exec_of_beysynCode {i : Instr} {m : Msg} (h : beysynCode i = some (type, m)) (s : State) :
    exec i s = .next (kept s (beysynMessage type m s)) := by
  unfold beysynCode at h
  split at h <;> cases h <;> rfl

variable {m : Msg}

theorem beysynMessage_outside (h : running s = false ∨ (s.twin.role ≠ .mirror ∧ s.work.isOpen = false)) :
    beysynMessage type m s = s := by
  unfold beysynMessage
  cases hr : running s with
  | false => rfl
  | true =>
    obtain ⟨hm, ho⟩ : s.twin.role ≠ .mirror ∧ s.work.isOpen = false := by simpa [hr] using h
    simp [hm, ho]

/-- A message that comes up is handled, and nothing else has happened yet (R46). -/
def broughtUp (m : Msg) (s : State) : State := { s with work.handled := (0, m.org.pos) :: s.work.handled }

theorem beysynMessage_broughtUp (h : Due m s) :
    beysynMessage type m s = takeMessage (ctxOf m) m.version type m.body (broughtUp m s) := beysynMessage_due type m s h

theorem find_broughtUp (hx : tget s.bey.sessions m.session = some x) : (ctxOf m).find (broughtUp m s) = some x := hx

/-- In last gasp a message that comes up is passed over (R48). -/
theorem beysynMessage_lastGasp (hp : Processing s) (hm : s.twin.role ≠ .mirror) (hg : s.work.lastGasp = true)
    (hh : s.work.handled.contains (0, m.org.pos) = false)
    (hu : ∀ p ∈ s.work.log.entries.zipIdx, p.1.kind = 2 → p.2 < m.org.pos → s.work.handled.contains (0, p.2) = true) :
    beysynMessage type m s = broughtUp m s := by
  obtain ⟨hr, ho⟩ := hp
  unfold beysynMessage
  rw [if_neg (by simp [hr]), if_neg hm, if_neg (by simp [ho]), beysynUpTo_handled _ _ hu]
  exact (if_neg (by simp only [hh]; decide)).trans (if_pos hg)

/-- The place and session of a message to a mirror (R437). -/
def ownCtx (m : Msg) : MsgCtx := ⟨Src.c0 m.org, m.session, true, m.requestId⟩

theorem find_ownCtx (hx : tget s.bey.own m.session = some x) : (ownCtx m).find s = some x := hx

/-- A mirror answers its own sessions at once (R437). -/
theorem beysynMessage_mirror (hr : running s = true) (hm : s.twin.role = .mirror) :
    beysynMessage type m s = takeMessage (ownCtx m) m.version type m.body s := by
  unfold beysynMessage
  rw [if_neg (by simp [hr]), if_pos hm]
  rfl

/-! ### A reply on its way out (R458, R464, R488) -/

/-- The DTLS session is the one that carries the Beysyn session. -/
abbrev Carries (d : DtlsSession) (x : Session) : Prop :=
  d.addr = x.addr ∧ d.udpPort = x.udpPort ∧ d.ethPort = x.ethPort ∧ d.digest = x.digest

theorem send_uncarried (m : Bytes) (h : tget s.bey.dtls c.session = none) : c.send m s = s := by
  simp [MsgCtx.send, MsgCtx.carrier, h]

theorem carrier_eq {d : DtlsSession} (hx : c.find s = some x) (hd : tget s.bey.dtls c.session = some d) (hc : Carries d x) :
    c.carrier s = some d := by
  simp only [MsgCtx.carrier, hx, hd]
  exact if_pos hc

theorem send_unkeyed {d : DtlsSession} (m : Bytes) (hx : c.find s = some x) (hd : tget s.bey.dtls c.session = some d)
    (hc : Carries d x) (hk : d.keyed = false) : c.send m s = s := by
  simp [MsgCtx.send, carrier_eq hx hd hc, hk]

/-- On a carried session with its keys, no fault being injected, a message leaves as it is. -/
theorem send_carried {d : DtlsSession} (m : Bytes) (hx : c.find s = some x) (hd : tget s.bey.dtls c.session = some d)
    (hc : Carries d x) (hk : d.keyed = true) (hs : c.sends s = true) (hf : faultOn s (0x10 + d.ethPort.toNat) false = false) :
    c.send m s = emit (.beysyn c.session m) s := by
  simp only [MsgCtx.send, carrier_eq hx hd hc, hk, hs, Bool.and_self, if_true]
  exact ethernetOut_plain _ _ _ hf

/-- The counters of statuses after one more reply. -/
theorem countStatus_eq (n : Nat) (s : State) :
    countStatus n s = { s with
      bey.busy := if n = 1 then s.bey.busy.inc else s.bey.busy
      bey.conflict := if n = 2 then s.bey.conflict.inc else s.bey.conflict
      bey.denied := if n = 4 then s.bey.denied.inc else s.bey.denied
      bey.malformed := if n = 5 then s.bey.malformed.inc else s.bey.malformed } := by
  unfold countStatus
  split
  · rfl
  · rfl
  · rfl
  · rfl
  · rename_i h1 h2 h4 h5
    rw [if_neg h1, if_neg h2, if_neg h4, if_neg h5]

/-- The session with a reply that is held for repeats. -/
def Session.holding (x : Session) (cached : Bool) (rid : BitVec 32) (m : Bytes) : Session :=
  { x with replies := if cached then ((rid, m) :: x.replies).take 16 else x.replies }

/-- The reply of a message of the log on a carried session: its status is counted, it is held where its type is cached, and it
waits or leaves (R464, R467, R468, R488). -/
theorem respond_carried {later cached : Bool} {r : Reply} {d : DtlsSession} (ho : c.own = false)
    (hm : s.twin.role ≠ .mirror) (hx : tget s.bey.sessions c.session = some x) (hd : tget s.bey.dtls c.session = some d)
    (hc : Carries d x) (hk : d.keyed = true) (hf : faultOn s (0x10 + d.ethPort.toNat) false = false) :
    ∃ sessions, tget sessions c.session = some (x.holding cached c.rid (r.message type c.rid s.sys.answer))
      ∧ respond c type later cached r s = { countStatus r.status s with
          bey.sessions := sessions
          bey.queries := if later then s.bey.queries ++ [⟨c.session, s.work.log.tick, r.message type c.rid s.sys.answer⟩]
            else s.bey.queries
          out := if later then s.out else s.out ++ [.beysyn c.session (r.message type c.rid s.sys.answer)] } := by
  have ht : c.tick s = s.sys.answer := by simp [MsgCtx.tick, ho]
  have hfind : ∀ u : State, c.find u = tget u.bey.sessions c.session := fun u => by simp [MsgCtx.find, ho]
  have hput : ∀ (y : Session) (u : State), c.put y u = { u with bey.sessions := tput u.bey.sessions c.session y } :=
    fun y u => by simp [MsgCtx.put, ho]
  have hsends : ∀ u : State, u.twin = s.twin → c.sends u = true := fun u hu => by simp [MsgCtx.sends, ho, hu, hm]
  simp only [countStatus_eq]
  refine ⟨if cached then tput s.bey.sessions c.session (x.holding true c.rid (r.message type c.rid s.sys.answer))
    else s.bey.sessions, ?_, ?_⟩
  · cases cached
    · exact hx
    · exact tget_tput_same _ _ _
  · unfold respond
    simp only [ht, hfind, hput, countStatus_eq, hx]
    cases later <;> cases cached <;> simp only [Bool.false_eq_true, if_true, if_false]
    case false.false => exact send_carried _ ((hfind _).trans hx) hd hc hk (hsends _ rfl) hf
    case false.true =>
      refine send_carried (x := x.holding true c.rid (r.message type c.rid s.sys.answer)) _ ((hfind _).trans ?_) hd hc hk
        (hsends _ rfl) hf
      exact tget_tput_same _ _ _
    all_goals rfl

end Sys2Proof.Machine
end

section
/-!
SUPPORT. What every Beysyn message passes before its own effect, and how a reply leaves.
-/
namespace Sys2Proof.Machine

open Sys2Proof

/-- Settles O46: the checks of R465 one by one, and the reply of R464 with what is counted, held and sent of it. -/
theorem beysynMessagesAreChecked : Obligations.BeysynMessagesAreChecked := by
  refine ⟨?message, ?reply⟩
  case message =>
    intro i type right m s hi hright
    rw [exec_of_beysynCode hi]
    refine ⟨fun h => ?outside, fun hp hm hg hh hu => ?lastGasp, fun hd hx => ?absent, fun x ha => ?taken,
      fun x hr hm hx he hv hl ht hq hno => ?mirror⟩
    case outside => rw [beysynMessage_outside h]; rfl
    case lastGasp => rw [beysynMessage_lastGasp hp hm hg hh hu]; rfl
    case absent => rw [beysynMessage_broughtUp hd, takeMessage_absent (c := ctxOf m) (s := broughtUp m s) hx]; rfl
    case taken =>
      obtain ⟨hd, hx, he⟩ := ha
      have hfind := find_broughtUp hx
      rw [beysynMessage_broughtUp hd]
      refine ⟨fun hv => by rw [takeMessage_version hfind he hv]; rfl, fun hv => ?_⟩
      rw [hv]
      refine ⟨fun r hc hr => by rw [takeMessage_repeat hfind he hc hr]; rfl, fun hno => ⟨fun hl => ?_, fun hl => ⟨fun ht => ?_,
        fun ht hq hfull => ?_⟩⟩⟩
      · rw [takeMessage_answers hfind he hno (checkedServe_layout hright hl)]; rfl
      · rw [takeMessage_answers hfind he hno (checkedServe_right hright hl ht)]; rfl
      · rw [takeMessage_answers hfind he hno (checkedServe_full hright hl ht rfl hq (sends_of_due (s := s) hd) hfull)]; rfl
    case mirror =>
      rw [beysynMessage_mirror hr hm, hv,
        takeMessage_answers (find_ownCtx hx) he (fun _ => hno) (checkedServe_own hright hl ht rfl hq)]
      rfl
  case reply =>
    intro m type later cached r u x d hm hx hd hc hk hf bytes t
    obtain ⟨sessions, hs, ht⟩ := respond_carried (c := ctxOf m) (type := type) (later := later) (cached := cached) (r := r)
      rfl hm hx hd hc hk hf
    rw [countStatus_eq] at ht
    change t = _ at ht
    rw [ht]
    exact ⟨hs, rfl, rfl, rfl, rfl, rfl, rfl, rfl, rfl, rfl, rfl⟩

end Sys2Proof.Machine
end

section
/-!
SUPPORT. What SUBSCRIBE, UNSUBSCRIBE and the staging messages answer and do, and what leaves the part later.
-/
namespace Sys2Proof.Machine

open Sys2Proof

variable {c : MsgCtx} {m : Msg} {x : Session} {type right : Nat} {b : Bytes} {s t : State}

/-- A message of the log that passes the checks is answered with its own effect. -/
theorem exec_passes {i : Instr} {r : Reply} (hi : beysynCode i = some (type, m)) (hr : typeRight type = some right)
    (h : Passes type right m x s) (hs : serve (ctxOf m) x type m.body (tookUp m s) = (some r, t)) :
    exec i s = .next (kept s (answered type m r t)) :=
  (exec_of_beysynCode hi s).trans (done_beysynMessage_passes hr h hs)

/-- What an effect that always replies hands back, as `serve` gives it. -/
theorem serve_effect {p : Reply × State} {r : Reply} (h : p = (r, t)) : (some p.1, p.2) = (some r, t) := by rw [h]

variable {r : Reply}

theorem exec_stageOpen_passes (h : Passes 0x30 2 m x s) (he : stageOpen (ctxOf m) (tookUp m s) = (r, t)) :
    exec (.stageOpen m) s = .next (kept s (answered 0x30 m r t)) := exec_passes rfl rfl h (serve_effect he)

theorem exec_stageAdd_passes (h : Passes 0x31 2 m x s) (he : stageAdd (ctxOf m) m.body (tookUp m s) = (r, t)) :
    exec (.stageAdd m) s = .next (kept s (answered 0x31 m r t)) := exec_passes rfl rfl h (serve_effect he)

theorem exec_stageCheck_passes (h : Passes 0x32 2 m x s) (he : stageCheck (ctxOf m) m.body (tookUp m s) = (r, t)) :
    exec (.stageCheck m) s = .next (kept s (answered 0x32 m r t)) := exec_passes rfl rfl h (serve_effect he)

theorem exec_stageCommit_passes (h : Passes 0x33 2 m x s) (he : stageCommit (ctxOf m) m.body (tookUp m s) = (r, t)) :
    exec (.stageCommit m) s = .next (kept s (answered 0x33 m r t)) := exec_passes rfl rfl h (serve_effect he)

theorem exec_stageDiscard_passes (h : Passes 0x34 2 m x s) (he : stageDiscard (ctxOf m) m.body (tookUp m s) = (r, t)) :
    exec (.stageDiscard m) s = .next (kept s (answered 0x34 m r t)) := exec_passes rfl rfl h (serve_effect he)

theorem exec_setAbort_passes (h : Passes 0x35 2 m x s) (he : setAbort (ctxOf m) m.body (tookUp m s) = (r, t)) :
    exec (.setAbort m) s = .next (kept s (answered 0x35 m r t)) := exec_passes rfl rfl h (serve_effect he)

/-! ### Numbers of staging sessions (R480, R481) -/

theorem stageOpen_busy (h : ∀ n, 1 ≤ n → n ≤ 8 → tget s.bey.staging n ≠ none) : stageOpen c s = (.busy, s) := by
  have hfind : (List.range' 1 8).find? (fun n => (tget s.bey.staging n).isNone) = none := by
    refine List.find?_eq_none.mpr fun n hn => ?_
    obtain ⟨h1, h8⟩ := List.mem_range'_1.mp hn
    simpa using h n h1 (by omega)
  change (match (List.range' 1 8).find? (fun n => (tget s.bey.staging n).isNone) with | none => _ | some n => _) = _
  rw [hfind]

theorem stageOpen_lowest {n : Nat} (h1 : 1 ≤ n) (h8 : n ≤ 8) (hn : tget s.bey.staging n = none)
    (hlow : ∀ k, 1 ≤ k → k < n → tget s.bey.staging k ≠ none) :
    stageOpen c s = (.ok (le 2 n ++ zeros 2), { s with bey.staging := tput s.bey.staging n ⟨c.session, []⟩ }) := by
  have hfind : (List.range' 1 8).find? (fun n => (tget s.bey.staging n).isNone) = some n := by
    refine List.find?_range'_eq_some.mpr ⟨by simp [hn], List.mem_range'_1.mpr ⟨h1, by omega⟩, fun k hk hkn => ?_⟩
    simpa [Option.isSome_iff_ne_none] using hlow k hk hkn
  change (match (List.range' 1 8).find? (fun n => (tget s.bey.staging n).isNone) with | none => _ | some n => _) = _
  rw [hfind]

/-- The number that a staging message names. -/
abbrev stageNumber (b : Bytes) : Nat := ofLe (slice b 0 2)

theorem staging_foreign (h : ∀ g, tget s.bey.staging (stageNumber b) = some g → g.session ≠ c.session) :
    c.staging b s = none := by
  simp only [MsgCtx.staging, Option.map_eq_none_iff, Option.filter_eq_none_iff, beq_iff_eq]
  exact h

theorem staging_own {g : Staging} (hg : tget s.bey.staging (stageNumber b) = some g) (hs : g.session = c.session) :
    c.staging b s = some (stageNumber b, g) := by
  simp only [MsgCtx.staging, hg, Option.filter_some, hs, beq_self_eq_true, if_true, Option.map_some]

/-- A staging message of a number that its session has no staging session of. -/
theorem serve_staging_foreign (ht : type ∈ [0x31, 0x32, 0x33, 0x34]) (h : c.staging b s = none) :
    serve c x type b s = (some .notFound, s) := by
  have hadd : stageAdd c b s = (.notFound, s) := by simp only [stageAdd, h]
  have hcheck : stageCheck c b s = (.notFound, s) := by simp only [stageCheck, h]
  have hcommit : stageCommit c b s = (.notFound, s) := by simp only [stageCommit, h]
  have hdiscard : stageDiscard c b s = (.notFound, s) := by simp only [stageDiscard, h]
  simp only [List.mem_cons, List.not_mem_nil, or_false] at ht
  rcases ht with rfl | rfl | rfl | rfl
  · exact serve_effect hadd
  · exact serve_effect hcheck
  · exact serve_effect hcommit
  · exact serve_effect hdiscard

/-! ### The window of a boundary (R43) -/

theorem windowReply_early {u bound : Nat} (h : bound < u + 4) : windowReply u bound = some .stale := by
  simp [windowReply, boundaryWindow, h]

theorem windowReply_late {u bound : Nat} (h : u + 2 ^ 20 < bound) : windowReply u bound = some .malformed := by
  have hearly : ¬bound < u + 4 := by omega
  simp only [windowReply, boundaryWindow, hearly, h, if_false, if_true]
  rfl

theorem windowReply_inside {u bound : Nat} (h4 : u + 4 ≤ bound) (hmax : bound ≤ u + 2 ^ 20) : windowReply u bound = none := by
  simp only [windowReply, boundaryWindow, Nat.not_lt.mpr h4, Nat.not_lt.mpr hmax, if_false]
  rfl

theorem noBadItem {items : List Item} (h : ∀ i ∈ items, itemEncodes i = true) :
    items.findIdx? (fun i => !itemEncodes i) = none := List.findIdx?_eq_none_iff.mpr (by simpa using h)

theorem noSetAt {sets : Tab PendingSet} {bound : Nat} (h : ∀ p ∈ sets, p.2.boundary.toNat ≠ bound) :
    (sets.any fun p => p.2.boundary.toNat == bound) = false := by simpa using h

section Staged
variable {n : Nat} {g : Staging} (hg : c.staging b s = some (n, g))
include hg

/-! ### STAGE_ADD (R42, R481) -/

variable {items : List Item} (hp : parseItems (ofLe (slice b 2 2)) (b.drop 4) = some items)

section Add
include hp

theorem stageAdd_malformed {k : Nat} (hk : items.findIdx? (fun i => !itemEncodes i) = some k) :
    stageAdd c b s = (⟨5, 0, k, []⟩, s) := by
  simp only [stageAdd, hg, hp, hk]

variable (hi : ∀ i ∈ items, itemEncodes i = true)
include hi

theorem stageAdd_tooMany (h : 4096 < g.items.length + items.length) :
    stageAdd c b s = (⟨5, 0, 4096 - g.items.length, []⟩, s) := by
  simp only [stageAdd, hg, hp, noBadItem hi, h, if_true]

theorem stageAdd_noRoom {k : Nat} (h : g.items.length + items.length ≤ 4096)
    (hk : firstBeyond (524288 - stagedBytes s) 0 items = some k) : stageAdd c b s = (⟨1, 0, k, []⟩, s) := by
  simp only [stageAdd, hg, hp, noBadItem hi, Nat.not_lt.mpr h, if_false, hk]

theorem stageAdd_ok (h : g.items.length + items.length ≤ 4096) (hk : firstBeyond (524288 - stagedBytes s) 0 items = none) :
    stageAdd c b s = (.ok (le 4 (g.items.length + items.length)),
      { s with bey.staging := tput s.bey.staging n ⟨g.session, g.items ++ items⟩ }) := by
  simp only [stageAdd, hg, hp, noBadItem hi, Nat.not_lt.mpr h, if_false, hk]

end Add

/-! ### STAGE_CHECK, STAGE_COMMIT and STAGE_DISCARD (R43, R482) -/

theorem stageCheck_conflict {i code : Nat} {cause : Nat}
    (h : applyItems Src.stagedSet 0 g.items (checkState s (2 ^ 48)) = .error (i, cause, code)) :
    stageCheck c b s = (.conflict cause (i % 2 ^ 24 + code % 256 * 2 ^ 24), s) := by
  simp only [stageCheck, hg, checkItems, h]

theorem stageCheck_ok (h : applyItems Src.stagedSet 0 g.items (checkState s (2 ^ 48)) = .ok t) :
    stageCheck c b s = (.ok [], s) := by
  simp only [stageCheck, hg, checkItems, h]

/-- What a commit of `items` at `bound` tests before its set is checked: the window, another set of the boundary, the number
of sets. -/
structure CommitOpen (bound : Nat) (s : State) : Prop where
  early : s.work.log.tick.toNat + 4 ≤ bound
  late  : bound ≤ s.work.log.tick.toNat + 2 ^ 20
  fresh : ∀ p ∈ s.cov.sys.sets, p.2.boundary.toNat ≠ bound
  room  : s.cov.sys.sets.length < 32

/-- The boundary of a STAGE_COMMIT. -/
abbrev commitBound (b : Bytes) : Nat := ofLe (slice b 4 6)

/-- A set beyond the limits of the journal or the vault (R43). -/
abbrev SetTooBig (items : List Item) (base after s : State) : Prop :=
  458752 < journalNeed s items ∨ (65456 < vaultBytes after ∧ vaultBytes base < vaultBytes after)

theorem stageCommit_window (h : windowReply s.work.log.tick.toNat (commitBound b) = some r) :
    stageCommit c b s = (r, s) := by
  simp only [stageCommit, hg, h]

theorem stageCommit_taken {p : Nat × PendingSet} (h4 : s.work.log.tick.toNat + 4 ≤ commitBound b)
    (hmax : commitBound b ≤ s.work.log.tick.toNat + 2 ^ 20) (hp : p ∈ s.cov.sys.sets)
    (hb : p.2.boundary.toNat = commitBound b) : stageCommit c b s = (.conflict 8 0, s) := by
  have hany : (s.cov.sys.sets.any fun p => p.2.boundary.toNat == commitBound b) = true :=
    List.any_eq_true.mpr ⟨p, hp, by simp [hb]⟩
  simp only [stageCommit, hg, windowReply_inside h4 hmax, hany, if_true]

theorem stageCommit_manySets (h4 : s.work.log.tick.toNat + 4 ≤ commitBound b)
    (hmax : commitBound b ≤ s.work.log.tick.toNat + 2 ^ 20) (hfresh : ∀ p ∈ s.cov.sys.sets, p.2.boundary.toNat ≠ commitBound b)
    (h32 : 32 ≤ s.cov.sys.sets.length) : stageCommit c b s = (.busy, s) := by
  simp only [stageCommit, hg, windowReply_inside h4 hmax, noSetAt hfresh, h32, if_true, Bool.false_eq_true, if_false]

section Open
variable (ho : CommitOpen (commitBound b) s)
include ho

theorem stageCommit_conflict {i cause code : Nat}
    (h : applyItems Src.stagedSet 0 g.items (checkState s (commitBound b)) = .error (i, cause, code)) :
    stageCommit c b s = (.conflict cause (i % 2 ^ 24 + code % 256 * 2 ^ 24), s) := by
  obtain ⟨h4, hmax, hfresh, hroom⟩ := ho
  simp only [stageCommit, hg, windowReply_inside h4 hmax, noSetAt hfresh, Nat.not_le.mpr hroom, Bool.false_eq_true, if_false,
    checkItems, h]

theorem stageCommit_tooBig (h : applyItems Src.stagedSet 0 g.items (checkState s (commitBound b)) = .ok t)
    (hbig : SetTooBig g.items (checkState s (commitBound b)) t s) : stageCommit c b s = (.busy, s) := by
  obtain ⟨h4, hmax, hfresh, hroom⟩ := ho
  simp only [stageCommit, hg, windowReply_inside h4 hmax, noSetAt hfresh, Nat.not_le.mpr hroom, Bool.false_eq_true, if_false,
    checkItems, h]
  exact if_pos hbig

theorem stageCommit_ok (h : applyItems Src.stagedSet 0 g.items (checkState s (commitBound b)) = .ok t)
    (hfits : ¬SetTooBig g.items (checkState s (commitBound b)) t s) :
    stageCommit c b s = (.ok (le 6 (commitBound b) ++ zeros 2),
      journalDue (.commit s.work.log.tick (BitVec.ofNat 48 (commitBound b)) g.items)
        (raise c.src 0x0020 [commitBound b % 2 ^ 32, g.items.length]
          (addSet c.src ⟨BitVec.ofNat 48 (commitBound b), s.work.log.tick, g.items⟩
            { s with bey.staging := tdel s.bey.staging n }))) := by
  obtain ⟨h4, hmax, hfresh, hroom⟩ := ho
  simp only [stageCommit, hg, windowReply_inside h4 hmax, noSetAt hfresh, Nat.not_le.mpr hroom, Bool.false_eq_true, if_false,
    checkItems, h]
  exact if_neg hfits

end Open

theorem stageDiscard_own : stageDiscard c b s = (.ok [], discardStaging c.src 0 (n, g) s) := by
  simp only [stageDiscard, hg]

end Staged

/-! ### SET_ABORT (R43, R482) -/

/-- The pending set of the boundary that a SET_ABORT names. -/
abbrev abortedSet (b : Bytes) (s : State) : Option (Nat × PendingSet) :=
  s.cov.sys.sets.find? fun p => p.2.boundary.toNat == ofLe (slice b 0 6)

theorem setAbort_notFound (h : abortedSet b s = none) : setAbort c b s = (.notFound, s) := by
  simp only [setAbort, h]

theorem setAbort_stale (h : abortedSet b s ≠ none) (hs : ofLe (slice b 0 6) < s.work.log.tick.toNat + 4) :
    setAbort c b s = (.stale, s) := by
  obtain ⟨p, hp⟩ := Option.ne_none_iff_exists'.mp h
  simp only [setAbort, hp, hs, if_true]

theorem setAbort_ok {pos : Nat} {p : PendingSet} (h : abortedSet b s = some (pos, p))
    (hs : s.work.log.tick.toNat + 4 ≤ ofLe (slice b 0 6)) :
    setAbort c b s = (.ok [], journalDue (.drop p.boundary p.commit)
      (raise c.src 0x0023 [ofLe (slice b 0 6) % 2 ^ 32] (removeSet c.src pos s))) := by
  simp only [setAbort, h, Nat.not_lt.mpr hs, if_false]


end Sys2Proof.Machine
end

section
/-!
SUPPORT. How staging sessions open, grow, are checked, committed and dropped, and how a pending set is aborted.
-/
namespace Sys2Proof.Machine

open Sys2Proof

/-- Settles O51: each staging message that passes the checks of R465 is answered by its own effect, test by test in the order of
R43 and R480 to R482. -/
theorem stagingAndCommits : Obligations.StagingAndCommits := by
  refine ⟨?stageOpen, ?foreign, ?stageAdd, ?stageCheck, ?stageCommit, ?stageDiscard, ?setAbort⟩
  case stageOpen =>
    intro m x s h
    exact ⟨fun hfull => exec_stageOpen_passes h (stageOpen_busy hfull),
      fun n h1 h8 hn hlow => exec_stageOpen_passes h (stageOpen_lowest h1 h8 hn hlow)⟩
  case foreign =>
    intro i type m x s ht hi h hforeign
    have hright : typeRight type = some 2 := by
      simp only [List.mem_cons, List.not_mem_nil, or_false] at ht
      rcases ht with rfl | rfl | rfl | rfl <;> rfl
    exact exec_passes hi hright h (serve_staging_foreign ht (staging_foreign hforeign))
  case stageAdd =>
    intro m x s g items h hg hs hp total free
    have hown : (ctxOf m).staging m.body (tookUp m s) = some (stageNumber m.body, g) := staging_own hg hs
    refine ⟨fun k hk => ?_, fun hi => ⟨fun hmany => ?_, fun k hle hk => ?_, fun hle hk => ?_⟩⟩
    · exact exec_stageAdd_passes h (stageAdd_malformed hown hp hk)
    · exact exec_stageAdd_passes h (stageAdd_tooMany hown hp hi hmany)
    · exact exec_stageAdd_passes h (stageAdd_noRoom hown hp hi hle hk)
    · rw [← hs]
      exact exec_stageAdd_passes h (stageAdd_ok hown hp hi hle hk)
  case stageCheck =>
    intro m x s g h hg hs
    have hown : (ctxOf m).staging m.body (tookUp m s) = some (stageNumber m.body, g) := staging_own hg hs
    exact ⟨fun i cause code he => exec_stageCheck_passes h (stageCheck_conflict hown he),
      fun t ht => exec_stageCheck_passes h (stageCheck_ok hown ht)⟩
  case stageCommit =>
    intro m x s g h hg hs bound now base refusedAs
    have hown : (ctxOf m).staging m.body (tookUp m s) = some (stageNumber m.body, g) := staging_own hg hs
    refine ⟨fun hearly => exec_stageCommit_passes h (stageCommit_window hown (windowReply_early hearly)),
      fun hlate => exec_stageCommit_passes h (stageCommit_window hown (windowReply_late hlate)), fun h4 hmax =>
      ⟨fun p hp hb => exec_stageCommit_passes h (stageCommit_taken hown h4 hmax hp hb), fun hfresh =>
        ⟨fun h32 => exec_stageCommit_passes h (stageCommit_manySets hown h4 hmax hfresh h32), fun h32 => ?_⟩⟩⟩
    have hopen : CommitOpen (commitBound m.body) (tookUp m s) := ⟨h4, hmax, hfresh, h32⟩
    exact ⟨fun i cause code he => exec_stageCommit_passes h (stageCommit_conflict hown hopen he), fun t ht =>
      ⟨fun hbig => exec_stageCommit_passes h (stageCommit_tooBig hown hopen ht hbig),
        fun hfits => exec_stageCommit_passes h (stageCommit_ok hown hopen ht hfits)⟩⟩
  case stageDiscard =>
    intro m x s g h hg hs
    have hown : (ctxOf m).staging m.body (tookUp m s) = some (stageNumber m.body, g) := staging_own hg hs
    exact exec_stageDiscard_passes h (stageDiscard_own hown)
  case setAbort =>
    intro m x s h bound held
    exact ⟨fun hnone => exec_setAbort_passes h (setAbort_notFound hnone),
      fun hheld hstale => exec_setAbort_passes h (setAbort_stale hheld hstale),
      fun pos p hheld hlate => exec_setAbort_passes h (setAbort_ok hheld hlate)⟩

end Sys2Proof.Machine
end

section
/-!
SUPPORT. What SUBSCRIBE and UNSUBSCRIBE do, and what leaves later: seal notices and the replies of store queries.
-/
namespace Sys2Proof.Machine

open Sys2Proof

variable {c : MsgCtx} {m : Msg} {x : Session} {n : Nat} {s : State}

/-! ### SUBSCRIBE and UNSUBSCRIBE (R479) -/

theorem exec_subscribe_passes (h : Passes 0x20 0 m x s) :
    exec (.subscribe m) s = .next (kept s (answered 0x20 m (.ok []) ((ctxOf m).put
      { x with sub := some ⟨m.requestId, testBit (ofLe (slice m.body 0 1)) 0, s.work.log.tick⟩ } (tookUp m s)))) :=
  exec_passes rfl rfl h rfl

theorem exec_unsubscribe_passes (h : Passes 0x21 0 m x s) :
    exec (.unsubscribe m) s
      = .next (kept s (answered 0x21 m (.ok []) ((ctxOf m).put { x with sub := none } (tookUp m s)))) :=
  exec_passes rfl rfl h rfl

/-! ### Seal notices (R40, R479) -/

/-- The next durable seal that a subscription selects. -/
def dueSeal (sub : Subscription) (s : State) : Option SealSlot :=
  (sealsUpTo s s.store.durable).find? fun y =>
    decide (sub.next.toNat ≤ y.body.tick.toNat) && (!sub.signedOnly || y.body.sig.isSome)

/-- A notice is no message's reply: it names the subscription's request. -/
def noticeCtx (n : Nat) (sub : Subscription) : MsgCtx := ⟨Src.sweep 0, n, false, sub.requestId⟩

/-- The session once a notice of a seal is made: the seal after it is the next. -/
def Session.noted (x : Session) (sub : Subscription) (y : SealSlot) : Session :=
  { x with sub := some { sub with next := y.body.tick + 1 } }

/-- The state once a notice of a seal is made. -/
def noticeMade (n : Nat) (x : Session) (sub : Subscription) (y : SealSlot) (s : State) : State :=
  { s with bey.sessions := tput s.bey.sessions n (x.noted sub y) }

/-- The message of a notice. -/
def noticeBytes (sub : Subscription) (y : SealSlot) : Bytes :=
  messageBytes 0x22 sub.requestId (some y.body.tick) 0 y.body.wide

theorem exec_sealNotice_off (h : running s = false) : exec (.sealNotice n) s = .next s := by
  change execSealNotice n s = _
  exact whenRunning_off h

theorem exec_sealNotice_unsubscribed (h : ∀ x, tget s.bey.sessions n = some x → x.sub = none) :
    exec (.sealNotice n) s = .next s := by
  cases hr : running s with
  | false => exact exec_sealNotice_off hr
  | true =>
    change execSealNotice n s = _
    unfold execSealNotice
    rw [whenRunning_on hr]
    cases hx : tget s.bey.sessions n with
    | none => rfl
    | some x => simp only [h x hx]; rfl

variable {sub : Subscription}

section Subscribed
variable (hr : running s = true) (hx : tget s.bey.sessions n = some x) (hs : x.sub = some sub)
include hr hx hs

theorem exec_sealNotice_noSeal (hy : dueSeal sub s = none) : exec (.sealNotice n) s = .next s := by
  change execSealNotice n s = _
  unfold dueSeal at hy
  simp only [execSealNotice, whenRunning_on hr, hx, hs, hy]
  rfl

theorem exec_sealNotice_due {y : SealSlot} (hy : dueSeal sub s = some y) :
    exec (.sealNotice n) s = .next (kept s (if s.twin.role = .mirror then s
      else (noticeCtx n sub).send (noticeBytes sub y) (noticeMade n x sub y s))) := by
  change execSealNotice n s = _
  unfold dueSeal at hy
  simp only [execSealNotice, whenRunning_on hr, hx, hs, hy]
  rfl

end Subscribed

theorem exec_sealNotice_mirror (hm : s.twin.role = .mirror) : exec (.sealNotice n) s = .next s := by
  cases hr : running s with
  | false => exact exec_sealNotice_off hr
  | true =>
    by_cases hsub : ∀ x, tget s.bey.sessions n = some x → x.sub = none
    · exact exec_sealNotice_unsubscribed hsub
    · obtain ⟨x, hx, hne⟩ : ∃ x, tget s.bey.sessions n = some x ∧ x.sub ≠ none := by simpa using hsub
      obtain ⟨sub, hs⟩ := Option.ne_none_iff_exists'.mp hne
      cases hy : dueSeal sub s with
      | none => exact exec_sealNotice_noSeal hr hx hs hy
      | some y => rw [exec_sealNotice_due hr hx hs hy, if_pos hm]; rfl

theorem find_noticeMade (y : SealSlot) : (noticeCtx n sub).find (noticeMade n x sub y s) = some (x.noted sub y) :=
  tget_tput_same _ _ _

theorem sends_noticeCtx {t : State} (hm : t.twin.role ≠ .mirror) : (noticeCtx n sub).sends t = true := by
  simp [MsgCtx.sends, noticeCtx, hm]

/-! ### Replies of store queries (R467) -/

/-- The place and session of a store query's reply. -/
def queryCtx (n : Nat) (s : State) : MsgCtx := ⟨Src.sweep 0, n, s.twin.role == .mirror, 0⟩

/-- A store query is outstanding no longer. -/
def queryLeft (q : StoreQuery) (s : State) : State := { s with bey.queries := s.bey.queries.erase q }

theorem exec_storeQueryReply_none (h : running s = false ∨ ∀ q ∈ s.bey.queries, q.session ≠ n) :
    exec (.storeQueryReply n) s = .next s := by
  change execStoreQueryReply n s = _
  unfold execStoreQueryReply
  cases hr : running s with
  | false => exact whenRunning_off hr
  | true =>
    have hnone : s.bey.queries.find? (fun q => q.session == n) = none :=
      List.find?_eq_none.mpr (by simpa [hr] using h)
    rw [whenRunning_on hr, hnone]
    rfl

theorem exec_storeQueryReply_oldest {q : StoreQuery} (hr : running s = true)
    (hq : s.bey.queries.find? (fun q => q.session == n) = some q) :
    exec (.storeQueryReply n) s = .next (kept s ((queryCtx n s).send q.reply (queryLeft q s))) := by
  change execStoreQueryReply n s = _
  unfold execStoreQueryReply
  rw [whenRunning_on hr, hq]
  rfl

theorem find_queryCtx (q : StoreQuery) (hx : tget (if s.twin.role = .mirror then s.bey.own else s.bey.sessions) n = some x) :
    (queryCtx n s).find (queryLeft q s) = some x := by
  by_cases hm : s.twin.role = .mirror <;> simpa [MsgCtx.find, queryCtx, queryLeft, hm] using hx

theorem sends_queryCtx (q : StoreQuery) : (queryCtx n s).sends (queryLeft q s) = true := by
  by_cases hm : s.twin.role = .mirror <;> simp [MsgCtx.sends, queryCtx, queryLeft, hm]

end Sys2Proof.Machine
end

section
/-!
SUPPORT. Subscriptions, their notices, and the replies of store queries.
-/
namespace Sys2Proof.Machine

open Sys2Proof

/-- Settles O50: a notice and a store query's reply each leave on the session that carries them, or are lost without one. -/
theorem subscriptionsAndStoreReplies : Obligations.SubscriptionsAndStoreReplies := by
  refine ⟨fun m x s h => exec_subscribe_passes h, fun m x s h => exec_unsubscribe_passes h, ?noNotice, ?notice,
    fun n s h => exec_storeQueryReply_none h, ?reply⟩
  case noNotice =>
    rintro n s (hr | hm | hsub)
    · exact exec_sealNotice_off hr
    · exact exec_sealNotice_mirror hm
    · exact exec_sealNotice_unsubscribed hsub
  case notice =>
    intro n x sub s hr hm hx hs due
    refine ⟨fun hnone => exec_sealNotice_noSeal hr hx hs hnone, fun y hy => ?_⟩
    intro noted
    rw [exec_sealNotice_due hr hx hs hy, if_neg hm]
    refine ⟨fun hd => by rw [send_uncarried _ hd]; rfl, fun d hd hc => ⟨fun hk => ?_, fun hk hf => ?_⟩⟩
    · rw [send_unkeyed _ (find_noticeMade y) hd hc hk]
      rfl
    · rw [send_carried _ (find_noticeMade y) hd hc hk (sends_noticeCtx hm) hf]
      rfl
  case reply =>
    intro n q s hr hq
    rw [exec_storeQueryReply_oldest hr hq]
    refine ⟨fun hd => by rw [send_uncarried _ hd]; rfl, fun d x hd hx hc hk hf => ?_⟩
    rw [send_carried _ (find_queryCtx q hx) hd hc hk (sends_queryCtx q) hf]
    rfl

end Sys2Proof.Machine
end

section
/-!
SUPPORT. What LIFECYCLE and SWAP_REQUEST check, in the order of R399 and R444.
-/
namespace Sys2Proof.Machine

open Sys2Proof

variable {c : MsgCtx} {m : Msg} {x : Session} {b : Bytes} {r : Reply} {s t : State}

/-! ### LIFECYCLE (R399, R484) -/

/-- A root that may sign the action signed the request, with the key whose digest its fuses hold (R399). -/
def requestSigned (q : LcRequest) (s : State) : Bool :=
  (requestRoots (asSealed s) q.action).contains q.root && sha256 q.signerKey == (rootFuses s.keys.fuses q.root).digest
    && ecdsaVerify (pointOf q.signerKey).1 (pointOf q.signerKey).2 (sha256 q.body) q.r q.s

/-- The condition of the action as of the answering seal, with the pending requests applied (R399). -/
def requestAllowed (q : LcRequest) (s : State) : Bool :=
  lcCondition (lcPendingApplied { asSealed s with cov.keys.requests := s.cov.keys.requests }) q

theorem lifecycleRequest_malformed (h : lcOfBody b = none) : lifecycleRequest c b s = (some .malformed, s) := by
  simp only [lifecycleRequest, h]

section Named
variable {q : LcRequest} (hq : lcOfBody b = some q)
include hq

theorem lifecycleRequest_unnamed (ha : lcAddressed q s = none) : lifecycleRequest c b s = (none, s) := by
  simp only [lifecycleRequest, hq, ha]

theorem lifecycleRequest_halfNamed (ha : lcAddressed q s = some true) : lifecycleRequest c b s = (some (.conflict 0 0), s) := by
  simp only [lifecycleRequest, hq, ha]

variable (ha : lcAddressed q s = some false)
include ha

theorem lifecycleRequest_window (hw : windowReply s.work.log.tick.toNat q.boundary.toNat = some r) :
    lifecycleRequest c b s = (some r, s) := by
  simp only [lifecycleRequest, hq, ha, hw]

variable (hw : windowReply s.work.log.tick.toNat q.boundary.toNat = none)
include hw

theorem lifecycleRequest_unsigned (hs : requestSigned q s = false) : lifecycleRequest c b s = (some .denied, s) := by
  simp only [lifecycleRequest, hq, ha, hw]
  simp only [requestSigned, Bool.and_eq_false_iff, beq_eq_false_iff_ne, or_assoc] at hs
  exact if_pos (by simpa using hs)

section Signed
variable (hs : requestSigned q s = true)
include hs

/-- A request in its window that is signed as it must be is judged by its condition and by the room that is left. -/
theorem lifecycleRequest_signed :
    lifecycleRequest c b s = if !requestAllowed q s then (some (.conflict 0 0), s)
      else if 8 ≤ s.cov.keys.requests.length then (some .busy, s) else (some (.ok []), lcAccept c.src q s) := by
  simp only [lifecycleRequest, hq, ha, hw]
  refine if_neg ?_
  simpa [requestSigned, and_assoc] using hs

theorem lifecycleRequest_conflict (hc : requestAllowed q s = false) : lifecycleRequest c b s = (some (.conflict 0 0), s) := by
  rw [lifecycleRequest_signed hq ha hw hs, hc]
  rfl

theorem lifecycleRequest_busy (hc : requestAllowed q s = true) (h8 : 8 ≤ s.cov.keys.requests.length) :
    lifecycleRequest c b s = (some .busy, s) := by
  rw [lifecycleRequest_signed hq ha hw hs, hc]
  exact if_pos h8

theorem lifecycleRequest_ok (hc : requestAllowed q s = true) (h8 : ¬8 ≤ s.cov.keys.requests.length) :
    lifecycleRequest c b s = (some (.ok []), lcAccept c.src q s) := by
  rw [lifecycleRequest_signed hq ha hw hs, hc]
  exact if_neg h8

end Signed

end Named

theorem exec_lifecycle_passes (h : Passes 0x38 4 m x s) (he : lifecycleRequest (ctxOf m) m.body (tookUp m s) = (some r, t)) :
    exec (.lifecycle m) s = .next (kept s (answered 0x38 m r t)) := exec_passes rfl rfl h he

/-- A request that is not for this unit is taken up and gets no reply. -/
theorem exec_lifecycle_unnamed (h : Passes 0x38 4 m x s)
    (he : lifecycleRequest (ctxOf m) m.body (tookUp m s) = (none, tookUp m s)) :
    exec (.lifecycle m) s = .next (tookUp m s) := by
  have hserve : serve (ctxOf m) x 0x38 m.body (tookUp m s) = (none, tookUp m s) := he
  rw [exec_of_beysynCode rfl, beysynMessage_passes _ _ _ _ _ rfl h, hserve]
  rfl

/-! ### SWAP_REQUEST (R444, R485) -/

/-- The unit is one of a pair as of the answering seal. -/
abbrev PairSealed (s : State) : Prop := cfgOf s.view.sys.records 0x0901 0 0 1 0 = 1

/-- STANDBY as the mirror last told it (R438). -/
abbrev standbyTold (s : State) : Nat := (s.twin.mirror.map (·.standby)).getD 0

/-- The boundary of a SWAP_REQUEST. -/
abbrev swapBound (b : Bytes) : Nat := ofLe (slice b 0 6)

theorem exec_swapRequest_passes (h : Passes 0x39 5 m x s) (he : swapRequest (ctxOf m) m.body (tookUp m s) = (r, t)) :
    exec (.swapRequest m) s = .next (kept s (answered 0x39 m r t)) := exec_passes rfl rfl h (serve_effect he)

theorem swapRequest_single (h : ¬PairSealed s) : swapRequest c b s = (.notFound, s) := if_pos h

section Pair
variable (hp : PairSealed s)
include hp

theorem swapRequest_window (hw : windowReply s.work.log.tick.toNat (swapBound b) = some r) : swapRequest c b s = (r, s) := by
  refine (if_neg (not_not_intro hp)).trans ?_
  rw [hw]

variable (hw : windowReply s.work.log.tick.toNat (swapBound b) = none)
include hw

theorem swapRequest_pending (h : s.twin.swapAt ≠ none) : swapRequest c b s = (.conflict 0 0, s) := by
  refine (if_neg (not_not_intro hp)).trans ?_
  rw [hw]
  exact if_pos (Option.isSome_iff_ne_none.mpr h)

theorem swapRequest_notReady (h : s.twin.swapAt = none) (h2 : standbyTold s ≠ 2) (h4 : standbyTold s ≠ 4) :
    swapRequest c b s = (.conflict 3 0, s) := by
  refine (if_neg (not_not_intro hp)).trans ?_
  rw [hw]
  exact (if_neg (by simp [h])).trans (if_pos ⟨h2, h4⟩)

theorem swapRequest_ok (h : s.twin.swapAt = none) (hst : standbyTold s = 2 ∨ standbyTold s = 4) :
    swapRequest c b s = (.ok [], raise c.src 0x900A [swapBound b % 2 ^ 32, 1]
      { s with twin.swapAt := some (BitVec.ofNat 48 (swapBound b)), twin.swapTransfer := decide (standbyTold s = 4) }) := by
  refine (if_neg (not_not_intro hp)).trans ?_
  rw [hw]
  exact (if_neg (by simp [h])).trans (if_neg fun hne => hst.elim hne.1 hne.2)

end Pair

end Sys2Proof.Machine
end

section
/-!
SUPPORT. What LIFECYCLE and SWAP_REQUEST answer and leave pending.
-/
namespace Sys2Proof.Machine

open Sys2Proof

/-- Settles O52: the checks of R399 and R444 one after the other, and the request or swap that passes them all. -/
theorem lifeCycleRequestsAndSwaps : Obligations.LifeCycleRequestsAndSwaps := by
  refine ⟨?lifecycle, ?swap⟩
  case lifecycle =>
    intro m x s h
    refine ⟨fun hq => exec_lifecycle_passes h (lifecycleRequest_malformed hq), fun q hq => ?_⟩
    intro now refusedAs
    refine ⟨fun ha => exec_lifecycle_unnamed h (lifecycleRequest_unnamed hq ha),
      fun ha => exec_lifecycle_passes h (lifecycleRequest_halfNamed hq ha), fun ha =>
      ⟨fun hearly => exec_lifecycle_passes h (lifecycleRequest_window hq ha (windowReply_early hearly)),
        fun hlate => exec_lifecycle_passes h (lifecycleRequest_window hq ha (windowReply_late hlate)), fun h4 hmax => ?_⟩⟩
    intro signed holds
    have hw := windowReply_inside h4 hmax
    cases hs : signed with
    | false => exact exec_lifecycle_passes h (lifecycleRequest_unsigned hq ha hw hs)
    | true =>
      cases hc : holds with
      | false => exact exec_lifecycle_passes h (lifecycleRequest_conflict hq ha hw hs hc)
      | true =>
        by_cases h8 : 8 ≤ s.cov.keys.requests.length
        · rw [if_pos h8]
          exact exec_lifecycle_passes h (lifecycleRequest_busy hq ha hw hs hc h8)
        · rw [if_neg h8]
          exact exec_lifecycle_passes h (lifecycleRequest_ok hq ha hw hs hc h8)
  case swap =>
    intro m x s h bound now st refusedAs
    refine ⟨fun hp => exec_swapRequest_passes h (swapRequest_single hp), fun hp =>
      ⟨fun hearly => exec_swapRequest_passes h (swapRequest_window hp (windowReply_early hearly)),
        fun hlate => exec_swapRequest_passes h (swapRequest_window hp (windowReply_late hlate)), fun h4 hmax => ?_⟩⟩
    have hw := windowReply_inside h4 hmax
    exact ⟨fun hpending => exec_swapRequest_passes h (swapRequest_pending hp hw hpending),
      fun hnone h2 h4 => exec_swapRequest_passes h (swapRequest_notReady hp hw hnone h2 h4),
      fun hnone hst => exec_swapRequest_passes h (swapRequest_ok hp hw hnone hst)⟩

end Sys2Proof.Machine
end

section
/-!
SUPPORT. The journal's writes and the recorder's grains.
-/
namespace Sys2Proof.Machine

open Sys2Proof

variable {s : State} {ok : Bool}

/-! ### The journal (R40, R56, R81, R86) -/

/-- The first due write of the journal is performed. -/
def journalPerformed (op : JournalOp) (rest : List (BitVec 48 × JournalOp)) (s : State) : State :=
  { s with nor.journal := { s.nor.journal.perform (s.sys.image.ledgerId.getD 0) op with due := rest } }

/-- A write that fails freezes the journal. -/
def journalFrozen (s : State) : State :=
  { s with nor.journal.due := [], nor.journal.frozen := true, nor.journal.fails := s.nor.journal.fails.inc }

/-- A journal written anew is an event. -/
def journalNoted (op : JournalOp) (s : State) : State :=
  match op with
  | .rewrite _ _ sets => raiseU 0x0044 [1 + sets.length] s
  | _ => s

section Due
variable {t : BitVec 48} {op : JournalOp} {rest : List (BitVec 48 × JournalOp)} (hd : s.nor.journal.due = (t, op) :: rest)
include hd

theorem exec_journalWrite_waits
    (h : isDurable s t = false ∨ s.keys.vaultDue ≠ [] ∨ s.nor.journal.frozen = true) : exec (.journalWrite ok) s = .next s := by
  change execJournalWrite ok s = _
  have hwait : (!norOn s || s.nor.journal.frozen || !isDurable s t || !s.keys.vaultDue.isEmpty) = true := by
    rcases h with h | h | h <;> simp [h]
  simp only [execJournalWrite, hd, hwait, if_true]
  rfl

variable (hon : norOn s = true) (hf : s.nor.journal.frozen = false) (ht : isDurable s t = true) (hv : s.keys.vaultDue = [])
include hon hf ht hv

theorem exec_journalWrite_ok : exec (.journalWrite true) s = .next (kept s (journalNoted op (journalPerformed op rest s))) := by
  change execJournalWrite true s = _
  simp only [execJournalWrite, hd, hon, hf, ht, hv, List.isEmpty_nil, Bool.not_true, Bool.or_self, Bool.false_eq_true, if_false,
    if_true]
  rfl

theorem exec_journalWrite_fails :
    exec (.journalWrite false) s = .next (kept s (raiseU 0x0046 [s.nor.journal.address] (journalFrozen s))) := by
  change execJournalWrite false s = _
  simp only [execJournalWrite, hd, hon, hf, ht, hv, List.isEmpty_nil, Bool.not_true, Bool.or_self, Bool.false_eq_true, if_false]
  rfl

end Due

/-! ### The recorder's grains (R523) -/

/-- Records that the next grain still needs. -/
abbrev grainLeft (s : State) : Nat := 128 - s.recorder.base % 128

theorem exec_recorderGrainProgram_ok (hon : norOn s = true) (hw : s.store.writeProtect = false) (hg : s.recorder.noGrain = false)
    (hn : grainLeft s ≤ s.recorder.staging.length) :
    exec (.recorderGrainProgram true) s = .next { s with recorder := s.recorder.programmed (grainLeft s) } := by
  change execRecorderGrainProgram true s = _
  simp only [execRecorderGrainProgram, hon, hw, hg, Nat.not_lt.mpr hn, decide_false, Bool.not_true, Bool.or_self,
    Bool.false_eq_true, if_false, if_true]
  rfl

theorem exec_recorderGrainProgram_waits (h : s.recorder.staging.length < grainLeft s ∨ s.store.writeProtect = true) :
    exec (.recorderGrainProgram ok) s = .next s := by
  change execRecorderGrainProgram ok s = _
  have hwait : (!norOn s || s.store.writeProtect || s.recorder.noGrain
      || decide (s.recorder.staging.length < grainLeft s)) = true := by
    rcases h with h | h <;> simp [h]
  simp only [execRecorderGrainProgram, hwait, if_true]
  rfl

end Sys2Proof.Machine
end

section
/-!
SUPPORT. The journal and the recorder's grains: what a write that is due does, and what waits.
-/
namespace Sys2Proof.Machine

open Sys2Proof

/-- Settles O18: a due journal write and a full grain are written, and nothing else is. -/
theorem norAndRecorderWrites : Obligations.NorAndRecorderWrites := by
  refine ⟨?journal, fun s ok t op rest hd h => exec_journalWrite_waits hd h,
    fun s hon hw hg hn => exec_recorderGrainProgram_ok hon hw hg hn, fun s ok h => exec_recorderGrainProgram_waits h⟩
  intro s t op rest hon hd hf ht hv j
  refine ⟨?_, exec_journalWrite_fails hd hon hf ht hv⟩
  rw [exec_journalWrite_ok hd hon hf ht hv]
  cases op <;> rfl

end Sys2Proof.Machine
end

section
/-!
SUPPORT. One command of the store each: packages, checkpoints and write-backs.
-/
namespace Sys2Proof.Machine

open Sys2Proof

variable {s : State} {st : Store}

/-- Where the store works a command has its effect, and the low-space check behind it leaves but the tick of its event. -/
theorem whenStore_on (f : State → State) (h : storeOn s = true) :
    ∃ t, whenStore s f = .next t ∧ t.store = { (f s).store with lastLow := t.store.lastLow } ∧ t.seals = (f s).seals
      ∧ t.snaps = (f s).snaps := by
  have hlow := (lowSpace_held (f s)).2
  refine ⟨kept s (lowSpace (f s)), by simp [whenStore, h, done_eq], lowSpace_store (f s), ?_, ?_⟩ <;> rw [hlow] <;> rfl

/-- The same, of a command whose effect on `s` is `u`. -/
theorem whenStore_store {f : State → State} {u : State} (h : storeOn s = true) (hf : f s = u) :
    ∃ t, whenStore s f = .next t ∧ t.store = { u.store with lastLow := t.store.lastLow } := by
  obtain ⟨t, ht, hstore, -, -⟩ := whenStore_on f h
  exact ⟨t, ht, hf ▸ hstore⟩

/-! ### Tick packages (R40, R337) -/

theorem packageBody_programs {p : Package} (hp : s.store.packages.find? (fun p => p.first.isNone) = some p)
    (hst : s.store.program hotStream 0 (storeNow s) (packageGrains p) = some st) :
    packageBody s = { s with store := { st with
      packages := st.packages.map fun q => if q.tick = p.tick then { q with first := some s.store.pageSeq } else q } } := by
  simp only [packageBody, hp, hst]

section Header
variable {p : Package} {rest : List Package} (hp : s.store.packages = p :: rest)
include hp

theorem packageHeader_durable (hb : p.first.isSome = true)
    (hst : s.store.program hotStream 0 (storeNow s) [newGrain 0x21 ((packageGrains p).length + 1) p.tick.toNat] = some st) :
    packageHeader s = { s with
      store := { st with packages := rest, durable := some p.tick }
      seals := s.seals.filter fun x => p.tick < x.tick
      snaps := s.snaps.filter fun x => p.tick < x.1 || x.1 == p.tick } := by
  have hnone : p.first.isNone = false := by simpa using hb
  simp only [packageHeader, hp, hnone, Bool.false_eq_true, if_false, hst]

theorem packageHeader_waits (hb : p.first = none) : packageHeader s = s := by
  simp only [packageHeader, hp, hb, Option.isNone_none, if_true]

end Header

/-! ### Checkpoints (R340) -/

/-- A root of the checkpoint at `c` protects packages from this page on (R340). -/
def deltaStart (c : BitVec 48) (st : Store) : Nat :=
  ((st.packages.find? fun p => p.tick == c).bind (·.first)).getD st.pageSeq

/-- The store once a checkpoint has begun. -/
def checkpointBegun (c : BitVec 48) (st : Store) : Store := { st with
  ckptDue := none
  checkpoint := some ⟨c, deltaStart c st, st.stateDirty⟩
  stateDirty := []
  writebacks := st.writebacks ++ st.dirtyPairs.map fun d => (d.1 / 4096, d.2) }

section Begin
variable {c : BitVec 48} (hon : storeOn s = true) (hc : s.store.ckptDue = some c)
include hon hc

theorem exec_checkpointBegin_starts (hk : s.store.checkpoint = none) :
    ∃ t, exec .checkpointBegin s = .next t ∧ t.store = { checkpointBegun c s.store with lastLow := t.store.lastLow } := by
  change ∃ t, execCheckpointBegin s = .next t ∧ _
  refine whenStore_store (u := { s with store := checkpointBegun c s.store }) hon ?_
  simp only [hc, hk, Option.isSome_none, Bool.false_eq_true, if_false]
  rfl

theorem exec_checkpointBegin_skips {k : Checkpoint} (hk : s.store.checkpoint = some k) :
    ∃ t, exec .checkpointBegin s = .next t ∧ t.store = { s.store with
      ckptDue := none, ckptLate := s.store.ckptLate.inc, lastLow := t.store.lastLow } := by
  let late : State := { s with store.ckptDue := none, store.ckptLate := s.store.ckptLate.inc }
  obtain ⟨t, ht, hstore⟩ : ∃ t, execCheckpointBegin s = .next t
      ∧ t.store = { (raiseU 0x6007 [c.toNat % 2 ^ 32] late).store with lastLow := t.store.lastLow } := by
    refine whenStore_store hon ?_
    simp only [hc]
    exact if_pos (by rw [hk]; rfl)
  rw [raiseU_store] at hstore
  exact ⟨t, ht, hstore⟩

end Begin

/-- The write-backs whose seal is durable are programmed (R339). -/
def durableWritten (d : BitVec 48) (s : State) : State :=
  s.store.writebacks.foldl (fun s w => if w.2 ≤ d then writeHistory w.1 w.2.toNat s else s) s

/-- The hash of the seal of a checkpoint. -/
def checkpointHash (c : Checkpoint) (s : State) : Bytes :=
  match tget s.store.seals c.tick.toNat with
  | some x => x.body.hash
  | none => []

theorem eraseReleased_keeps (st : Store) : st.eraseReleased.checkpoint = st.checkpoint
    ∧ st.eraseReleased.journal = st.journal ∧ st.eraseReleased.roots = st.roots := by
  unfold Store.eraseReleased
  refine foldl_inv (fun a : Store => a.checkpoint = st.checkpoint ∧ a.journal = st.journal ∧ a.roots = st.roots) _ ?_ _ _
    ⟨rfl, rfl, rfl⟩
  intro a b ha
  split
  · exact ha
  · exact ha

section Complete
variable {c : Checkpoint} {d : BitVec 48} (hon : storeOn s = true) (hc : s.store.checkpoint = some c)
  (hd : s.store.durable = some d)
include hon hc hd

theorem exec_checkpointComplete_waits (h : d < c.tick) :
    ∃ t, exec .checkpointComplete s = .next t ∧ t.store = { s.store with lastLow := t.store.lastLow } := by
  change ∃ t, execCheckpointComplete s = .next t ∧ _
  refine whenStore_store (u := s) hon ?_
  simp only [hc, hd, h, if_true]

theorem exec_checkpointComplete_finishes (h : c.tick ≤ d)
    (hf : (durableWritten d s).store.finish c (checkpointHash c (durableWritten d s)) (durableWritten d s).radio.ledger
      (storeNow (durableWritten d s)) = some st) :
    ∃ t, exec .checkpointComplete s = .next t ∧ t.store = { st.eraseReleased with lastLow := t.store.lastLow } := by
  change ∃ t, execCheckpointComplete s = .next t ∧ _
  refine whenStore_store (u := { durableWritten d s with store := st.eraseReleased }) hon ?_
  simp only [hc, hd, BitVec.not_lt.mpr h, if_false]
  change (match (durableWritten d s).store.finish c (checkpointHash c (durableWritten d s)) (durableWritten d s).radio.ledger
    (storeNow (durableWritten d s)) with | some st => _ | none => _) = _
  rw [hf]
  rfl

end Complete

/-! ### Write-backs (R338, R339) -/

theorem writeHistory_programs {slot tick : Nat}
    (h : s.store.program hotStream 0 (storeNow s) [newGrain 2 (0x10000 + slot) tick] = some st) :
    writeHistory slot tick s = { s with store := { st with
      writebacks := st.writebacks.filter (fun w => w.1 != slot)
      dirtyPairs := st.dirtyPairs.filter fun d => d.1 / 4096 != slot } } := by
  simp only [writeHistory, h]

section Writeback
variable {slot : BitVec 20} {n : Nat} {d : BitVec 48} (hon : storeOn s = true)
  (hn : writebackTick s.store slot.toNat = some n) (hd : s.store.durable = some d)
include hon hn hd

theorem exec_historyWriteback_durable (h : n ≤ d.toNat) : ∃ t, exec (.historyWriteback slot) s = .next t
    ∧ t.store = { (writeHistory slot.toNat n s).store with lastLow := t.store.lastLow } := by
  change ∃ t, execHistoryWriteback slot s = .next t ∧ _
  refine whenStore_store (u := writeHistory slot.toNat n s) hon ?_
  simp only [hn, hd, h, if_true]

theorem exec_historyWriteback_waits (h : d.toNat < n) : ∃ t, exec (.historyWriteback slot) s = .next t
    ∧ t.store = { s.store with lastLow := t.store.lastLow } := by
  change ∃ t, execHistoryWriteback slot s = .next t ∧ _
  refine whenStore_store (u := s) hon ?_
  simp only [hn, hd, Nat.not_le.mpr h, if_false]

end Writeback

end Sys2Proof.Machine
end

section
/-!
SUPPORT. Packages, durable seals, checkpoints and write-backs of the store.
-/
namespace Sys2Proof.Machine

open Sys2Proof

/-- Settles O32: each step of the store's progress, with what it programs and what it makes durable. -/
theorem storeProgress : Obligations.StoreProgress := by
  refine ⟨?body, ?header, ?ckptBegin, ?writeback, ?ckptComplete⟩
  case body =>
    intro s p st hon hp hst
    obtain ⟨t, ht, hstore, -, -⟩ := whenStore_on packageBody hon
    refine ⟨t, ht, ?_⟩
    rw [packageBody_programs hp hst] at hstore
    exact hstore
  case header =>
    intro s p rest hon hp
    obtain ⟨t, ht, hstore, hseals, hsnaps⟩ := whenStore_on packageHeader hon
    refine ⟨fun st hb hst => ⟨t, ht, ?_⟩, fun hb => ⟨t, ht, ?_⟩⟩
    · rw [packageHeader_durable hp hb hst] at hstore hseals hsnaps
      rw [hstore]
      exact ⟨rfl, rfl, hseals, hsnaps⟩
    · rwa [packageHeader_waits hp hb] at hstore
  case ckptBegin =>
    intro s c hon hc
    cases hk : s.store.checkpoint with
    | none =>
      obtain ⟨t, ht, hstore⟩ := exec_checkpointBegin_starts hon hc hk
      refine ⟨t, ht, ?_⟩
      rw [hstore]
      exact ⟨rfl, fun _ => ⟨rfl, rfl, rfl⟩, fun _ h => (Option.some_ne_none _ h.symm).elim⟩
    | some k =>
      obtain ⟨t, ht, hstore⟩ := exec_checkpointBegin_skips hon hc hk
      refine ⟨t, ht, ?_⟩
      rw [hstore]
      exact ⟨rfl, fun h => (Option.some_ne_none _ h).elim, fun _ h => ⟨hk.trans h, rfl⟩⟩
  case writeback =>
    intro s slot n d st hon hn hd
    refine ⟨fun hle hst => ?_, fun hlt => exec_historyWriteback_waits hon hn hd hlt⟩
    have hwrite := exec_historyWriteback_durable hon hn hd hle
    rwa [writeHistory_programs hst] at hwrite
  case ckptComplete =>
    intro s c d hon hc hd
    refine ⟨fun hlt => exec_checkpointComplete_waits hon hc hd hlt, fun hle => ?_⟩
    intro v hash st hf
    obtain ⟨t, ht, hstore⟩ := exec_checkpointComplete_finishes hon hc hd hle hf
    obtain ⟨-, hck, hj, hroots⟩ := finish_held _ _ _ _ _ _ hf
    obtain ⟨eck, ej, eroots⟩ := eraseReleased_keeps st
    refine ⟨t, ht, ?_⟩
    rw [hstore]
    exact ⟨eck.trans hck, ej.trans hj, (congrArg (fun l => l.head?.map fun r => (r.tick, r.hash)) eroots).trans hroots⟩

end Sys2Proof.Machine
end

section
/-!
SUPPORT. STATUS and REJOIN on their way into the log, and what a state transfer leaves of the unit that loads it.
-/
namespace Sys2Proof.Machine

open Sys2Proof

variable {s : State}

/-! ### Inputs that nothing waits ahead of (R23) -/

theorem placeReleased_none (h : s.cap.released = []) : placeReleased s = s := by
  have hs : ({ s with cap.released := [] } : State) = s := by rw [← h]
  simp only [placeReleased, h, List.foldl_nil, hs]

theorem placeReports_none (h : s.cap.reports = []) : placeReports s = s := by
  have hs : ({ s with cap.reports := [] } : State) = s := by rw [← h]
  simp only [placeReports, h, List.foldl_nil, hs]

theorem settleLog_settled (h : Settled s) : settleLog s = s := by
  obtain ⟨-, hcarried, hreleased, hreports⟩ := h
  simp only [settleLog, hcarried, takeDeferredAll, placeReleased_none hreleased, placeReports_none hreports]

/-- An input that nothing waits ahead of enters a log that takes it. -/
theorem appendInput_settled {e : LogEntry} (h : Settled s) (ht : s.cap.log.takes e = true) : appendInput e s = enterLog e s := by
  have hq : s.cap.queue = [] := h.1
  simp only [appendInput, settleLog_settled h, placeInput, hq, ht, List.isEmpty_nil, Bool.and_self, if_true]

/-! ### STATUS and REJOIN at the primary (R22, R430, R438, R447) -/

/-- The header of a frame with `n` bytes of payload, as the log holds it. -/
def loggedHeader (h : HolhamHdr) (type n : Nat) : Bytes :=
  [BitVec.ofNat 8 type, if h.retry then 1 else 0] ++ le 2 n ++ le 4 h.seq.toNat ++ le 6 h.tick.toNat ++ [0, 0]

theorem holhamBody_eq (h : HolhamHdr) (type : Nat) (payload : Bytes) :
    holhamBody h type payload = loggedHeader h type payload.length ++ payload := by
  have hretry : BitVec.ofNat 8 (bit h.retry) = if h.retry then 1 else 0 := by cases h.retry <;> rfl
  simp only [holhamBody, HolhamTx.header, loggedHeader, hretry]
  rfl

/-- The payload of STATUS (R432). -/
def statusPayload (p : StatusIn) : Bytes :=
  [BitVec.ofNat 8 p.standby, BitVec.ofNat 8 ((if p.isMatch then 1 else 0) + 2 * (if p.fillDone then 1 else 0))]
    ++ le 2 p.procVersion.toNat ++ le 6 p.lastSeal.toNat ++ [0, 0, 0, 0, 0, 0]

/-- The payload of REJOIN (R432). -/
def rejoinPayload (durable : BitVec 48) : Bytes := le 6 durable.toNat ++ [0, 0]

theorem statusPayload_length (p : StatusIn) : (statusPayload p).length = 16 := by simp [statusPayload]

theorem rejoinPayload_length (durable : BitVec 48) : (rejoinPayload durable).length = 8 := by simp [rejoinPayload]

/-- A frame of the peer as an input of the log. -/
def peerInput (arrival : BitVec 32) (body : Bytes) : LogEntry := ⟨5, 7, arrival, body, none⟩

/-- A frame of the peer stands last in the log, and has had no other effect but to be counted as received. -/
structure PeerLogged (e : LogEntry) (s t : State) : Prop where
  entries    : t.cap.log.entries = s.cap.log.entries ++ [e]
  mirror     : t.twin.mirror = s.twin.mirror
  rejoinSeal : t.twin.rejoinSeal = s.twin.rejoinSeal
  cov        : t.cov = s.cov
  rxSeq      : t.twin.rxSeq = s.twin.rxSeq + 1

theorem peerInput_logged {e : LogEntry} (h : Settled s) (ht : s.cap.log.takes e = true) :
    PeerLogged e s (kept s (appendInput e (acked s))) := by
  have hstate := (enterLog_inputs e (acked s)).state
  have hlog := enterLog_last e (acked s)
  rw [appendInput_settled (s := acked s) h ht]
  refine ⟨?_, ?_, ?_, ?_, ?_⟩
  · exact congrArg (·.entries) hlog
  all_goals
    rw [hstate]
    rfl

variable {h : HolhamHdr} (hl : LinkPlain s) (hn : NextFrame h s)
include hl hn

theorem exec_status_next (p : StatusIn) (arrival : BitVec 32) :
    exec (.status h p arrival) s = .next (kept s (if !capturing s then acked s
      else appendInput (peerInput arrival (loggedHeader h 5 16 ++ statusPayload p)) (acked s))) := by
  have hbody : holhamBody h holStatus (statusPayload p) = loggedHeader h 5 16 ++ statusPayload p := by
    rw [holhamBody_eq, statusPayload_length]; rfl
  rw [← hbody]
  change execStatus h p arrival s = _
  unfold execStatus
  rw [holhamIn_next h _ s hl hn]
  rfl

theorem exec_rejoin_next (durable : BitVec 48) (arrival : BitVec 32) :
    exec (.rejoin h durable arrival) s = .next (kept s (if !capturing s then acked s
      else appendInput (peerInput arrival (loggedHeader h 6 8 ++ rejoinPayload durable)) (acked s))) := by
  have hbody : holhamBody h holRejoin (rejoinPayload durable) = loggedHeader h 6 8 ++ rejoinPayload durable := by
    rw [holhamBody_eq, rejoinPayload_length]; rfl
  rw [← hbody]
  change execRejoin h durable arrival s = _
  unfold execRejoin
  rw [holhamIn_next h _ s hl hn]
  rfl

end Sys2Proof.Machine
end

section
/-!
SUPPORT. XFER, XFER_END and FILL at the mirror, and what a loaded transfer leaves of the unit.
-/
namespace Sys2Proof.Machine

open Sys2Proof

variable {s : State} {h : HolhamHdr}

/-! ### XFER and XFER_END (R447, R448) -/

/-- A mirror that has asked for a transfer, or is in a transfer swap. -/
abbrev TakesTransfer (s : State) : Prop := s.twin.role = .mirror ∧ (s.twin.asked = true ∨ s.twin.xferSwap = true)

theorem not_takesTransfer_iff :
    ¬TakesTransfer s ↔ s.twin.role ≠ .mirror ∨ (s.twin.asked = false ∧ s.twin.xferSwap = false) := by
  rw [Decidable.not_and_iff_not_or_not, not_or, Bool.not_eq_true, Bool.not_eq_true]

theorem xferGuard_iff :
    (s.twin.role ≠ .mirror ∨ (!(s.twin.asked || s.twin.xferSwap)) = true) ↔ ¬TakesTransfer s := by
  rw [not_takesTransfer_iff, Bool.not_eq_true', Bool.or_eq_false_iff]

/-- What XFER adds to the transfer that is received. -/
def xferTaken (payload : Bytes) (s : State) : State := { s with
  twin.xferIn := s.twin.xferIn ++ payload, twin.xferCount := s.twin.xferCount + 1
  twin.standby := if s.twin.xferSwap then s.twin.standby else .rejoining }

/-- What XFER_END says agrees with what was received. -/
abbrev TransferAgrees (e : XferEndIn) (b : Bytes) : Prop :=
  b.length = e.bytes ∧ (streamEntries (b.length / 8 + 1) b).length = e.entries ∧ sha256 b = e.hash

/-- A transfer swap whose transfer does not agree is given up. -/
def swapGivenUp (s : State) : State :=
  { s with twin.xferSwap := false, twin.handover := none, twin.xferIn := [], twin.xferCount := 0 }

/-- The transfer is asked for again. -/
def askedAgain (s : State) : State :=
  { s with twin.asked := true, twin.xferIn := [], twin.xferCount := 0, twin.loaded := none }

section Frames
variable (hl : LinkPlain s) (hn : NextFrame h s)
include hl hn

theorem exec_xfer_next (payload : Bytes) :
    exec (.xfer h payload) s = .next (kept s (if TakesTransfer s then xferTaken payload (acked s) else acked s)) := by
  change execXfer h payload s = _
  unfold execXfer
  rw [holhamIn_next h _ s hl hn]
  by_cases ht : TakesTransfer s
  · rw [if_pos ht, if_neg fun hg => (xferGuard_iff (s := acked s)).mp hg ht]
    rfl
  · rw [if_neg ht, if_pos ((xferGuard_iff (s := acked s)).mpr ht)]
    rfl

theorem exec_xferEnd_ignored (e : XferEndIn) (ht : ¬TakesTransfer s) : exec (.xferEnd h e) s = .next (acked s) := by
  change execXferEnd h e s = _
  unfold execXferEnd
  rw [holhamIn_next h _ s hl hn, if_pos ((xferGuard_iff (s := acked s)).mpr ht)]
  rfl

variable {e : XferEndIn} (ht : TakesTransfer s)
include ht

theorem exec_xferEnd_next :
    exec (.xferEnd h e) s = .next (kept s (if TransferAgrees e s.twin.xferIn then takeTransfer (sealOf e.sealBody e.signature) (acked s)
      else if s.twin.xferSwap then holhamSend holAnswer h.tick ([1, 5] ++ zeros 6) (swapGivenUp (acked s))
      else sendRejoin (acked s))) := by
  change execXferEnd h e s = _
  unfold execXferEnd
  rw [holhamIn_next h _ s hl hn, if_neg fun hg => (xferGuard_iff (s := acked s)).mp hg ht]
  simp only [TransferAgrees, Bool.and_eq_true, decide_eq_true_eq, and_assoc]
  rfl

section Differs
variable (ha : ¬TransferAgrees e s.twin.xferIn) (hroom : HolhamRoom 8 s)
include ha hroom

theorem exec_xferEnd_refused (hs : s.twin.xferSwap = true) :
    exec (.xferEnd h e) s = .next (framed 8 h.tick [1, 5, 0, 0, 0, 0, 0, 0] (swapGivenUp (acked s))) := by
  have hplain := hl
  obtain ⟨-, hup, -, hf⟩ := hplain
  have hlen : (([1, 5] : Bytes) ++ zeros 6).length = 8 := by simp
  rw [exec_xferEnd_next hl hn ht, if_neg ha, if_pos hs,
    holhamSend_framed holAnswer h.tick _ (swapGivenUp (acked s)) hup hf (by rw [hlen]; exact hroom)]
  rfl

theorem exec_xferEnd_again (hs : s.twin.xferSwap = false) :
    exec (.xferEnd h e) s = .next (framed 6 s.cap.tick (le 6 (durableTick s) ++ [0, 0]) (askedAgain (acked s))) := by
  have hplain := hl
  obtain ⟨-, hup, -, hf⟩ := hplain
  have hlen : (le 6 (durableTick s) ++ [0, 0]).length = 8 := by simp
  have hsend : sendRejoin (acked s) = holhamSend holRejoin s.cap.tick (le 6 (durableTick s) ++ [0, 0]) (askedAgain (acked s)) :=
    if_neg (by show ¬(!s.twin.linkUp) = true; simp [hup])
  rw [exec_xferEnd_next hl hn ht, if_neg ha, if_neg (by simp [hs]), hsend,
    holhamSend_framed holRejoin s.cap.tick _ (askedAgain (acked s)) hup hf (by rw [hlen]; exact hroom)]
  rfl

end Differs

end Frames

/-! ### A transfer that is loaded (R447, R448, R450) -/

/-- What loading the parts of a transfer leaves of a unit. -/
structure SameUnit (s t : State) : Prop where
  peer     : t.twin.peer = s.twin.peer
  rejoins  : t.twin.rejoins = s.twin.rejoins
  xferIn   : t.twin.xferIn = s.twin.xferIn
  asked    : t.twin.asked = s.twin.asked
  firmware : t.upd.fw = s.upd.fw
  prevSeal : t.sys.prevSeal = s.sys.prevSeal

theorem SameUnit.refl (s : State) : SameUnit s s := ⟨rfl, rfl, rfl, rfl, rfl, rfl⟩

theorem SameUnit.trans {s t u : State} (h : SameUnit s t) (k : SameUnit t u) : SameUnit s u :=
  ⟨k.peer.trans h.peer, k.rejoins.trans h.rejoins, k.xferIn.trans h.xferIn, k.asked.trans h.asked,
    k.firmware.trans h.firmware, k.prevSeal.trans h.prevSeal⟩

theorem storeValue_sameUnit (slot type gen : Nat) (v : Bytes) (s : State) : SameUnit s (storeValue slot type gen v s) := by
  unfold storeValue
  split
  · exact ⟨rfl, rfl, rfl, rfl, rfl, rfl⟩
  · exact ⟨rfl, rfl, rfl, rfl, rfl, rfl⟩

theorem loadKeyValue_sameUnit (s : State) (e : Entry) : SameUnit s (loadKeyValue s e) := by
  unfold loadKeyValue
  simp only []
  split
  · split
    · split
      · exact storeValue_sameUnit _ _ _ _ _
      · exact .refl s
    · exact .refl s
  · exact .refl s

theorem loadKeyValues_sameUnit (es : List Entry) (s : State) : SameUnit s (es.foldl loadKeyValue s) :=
  foldl_inv (SameUnit s) loadKeyValue (fun t e ht => ht.trans (loadKeyValue_sameUnit t e)) es s (.refl s)

theorem carry_sameUnit (c : Carried) (s : State) : SameUnit s (s.carry c) := ⟨rfl, rfl, rfl, rfl, rfl, rfl⟩

theorem writeHistory_sameUnit (slot tick : Nat) (s : State) : SameUnit s (writeHistory slot tick s) := by
  rw [(writeHistory_held slot tick s).2]
  exact ⟨rfl, rfl, rfl, rfl, rfl, rfl⟩

theorem storeTransfer_sameUnit (x : Seal) (s : State) : SameUnit s (storeTransfer x s) := by
  have hput : SameUnit s (transferStore x s) := ⟨rfl, rfl, rfl, rfl, rfl, rfl⟩
  unfold storeTransfer
  simp only []
  have hwritten := foldl_inv (SameUnit s) (fun s k => writeHistory k x.tick.toNat s)
    (fun t k ht => ht.trans (writeHistory_sameUnit k _ t)) (s.cov.ledger.histories.map fun p => p.1 / 4096).eraseDups _ hput
  split
  · exact hwritten.trans ⟨rfl, rfl, rfl, rfl, rfl, rfl⟩
  · exact hwritten

/-- Seal `x` is the head of the unit's chain. -/
def headed (x : Seal) (s : State) : State := { s with sys.prevSeal := some (x.tick, x.hash) }

/-- The state objects of a stream take the place of the unit's own, and seal `x` heads its chain. -/
def objectsLoaded (stream : Bytes) (x : Seal) (s : State) : State :=
  let c := coveredOf (streamEntries (stream.length / 8 + 1) stream)
  { s with
    cov := c, view := c, snaps := [(x.tick, c)], seals := [], closing := none, work := Work.init
    sys.prevSeal := some (x.tick, x.hash), sys.genesis := false, sys.recovery := false, sys.takeover := false
    sys.lastSigned := if x.signed then x.tick else 0, sys.imageDue := none, keys.cells := [], keys.starting := false
    cap.excess := [] }

theorem objectsLoaded_sameUnit (stream : Bytes) (x : Seal) (s : State) : SameUnit (headed x s) (objectsLoaded stream x s) :=
  ⟨rfl, rfl, rfl, rfl, rfl, rfl⟩

/-- The entries of a stream that carry values beside its objects (R448). -/
def carriedEntriesOf (es : List Entry) : List Entry := es.filter fun e => decide (0x80 ≤ e.2.1) && !(e.1 == 8 && e.2.1 == 0x80)

theorem loadTransfer_eq (stream : Bytes) (x : Seal) (s : State) : loadTransfer stream x s
    = storeTransfer x (((streamEntries (stream.length / 8 + 1) stream).foldl loadKeyValue (objectsLoaded stream x s)).carry
        (Config.carriedOf (carriedEntriesOf (streamEntries (stream.length / 8 + 1) stream)))) := by
  unfold loadTransfer objectsLoaded carriedEntriesOf
  rfl

theorem loadTransfer_sameUnit (stream : Bytes) (x : Seal) (s : State) : SameUnit (headed x s) (loadTransfer stream x s) := by
  rw [loadTransfer_eq]
  exact (((objectsLoaded_sameUnit stream x s).trans (loadKeyValues_sameUnit _ _)).trans (carry_sameUnit _ _)).trans
    (storeTransfer_sameUnit x _)

theorem toHeld_sameUnit (cause : Nat) (s : State) : SameUnit s (toHeld cause s) := by
  unfold toHeld
  rw [raiseU_recorder]
  exact ⟨rfl, rfl, rfl, rfl, rfl, rfl⟩

theorem toHeld_held (cause : Nat) (s : State) : (toHeld cause s).twin.standby = .held ∧ (toHeld cause s).twin.logs = [] := by
  unfold toHeld
  rw [raiseU_recorder]
  exact ⟨rfl, rfl⟩

/-- Outside a transfer swap a unit of another life cycle or version is HELD with the transfer loaded (R428, R447, R450). -/
theorem takeTransfer_held {x : Seal} (hh : s.twin.handover = none) (hv : versionsDiffer s = true) :
    (takeTransfer x s).twin.standby = .held ∧ (takeTransfer x s).twin.logs = []
      ∧ SameUnit (headed x (transferDone x s)) (takeTransfer x s) := by
  have hsame := loadTransfer_sameUnit s.twin.xferIn x (transferDone x s)
  have hdiffer : versionsDiffer (loadTransfer s.twin.xferIn x (transferDone x s)) = true := by
    unfold versionsDiffer
    rw [hsame.peer, hsame.firmware]
    exact hv
  obtain ⟨cause, htake⟩ : ∃ cause, takeTransfer x s = toHeld cause (loadTransfer s.twin.xferIn x (transferDone x s)) := by
    simp only [takeTransfer, hh, Option.filter_none, hdiffer, if_true]
    by_cases hlife : lifeDiffers (loadTransfer s.twin.xferIn x (transferDone x s)) = true
    · exact ⟨1, if_pos hlife⟩
    · exact ⟨0, if_neg hlife⟩
  rw [htake]
  obtain ⟨hstandby, hlogs⟩ := toHeld_held cause (loadTransfer s.twin.xferIn x (transferDone x s))
  exact ⟨hstandby, hlogs, hsame.trans (toHeld_sameUnit cause _)⟩

theorem sealOf_hash (body sig : Bytes) : (sealOf body sig).hash = sha256 body := rfl

/-! ### FILL (R449) -/

/-- The seal slots of a FILL in the store, where it works. -/
def filled (slots : List FillSlot) (s : State) : State := if storeOn s then slots.foldl placeFill s else s

theorem exec_fill_next (hl : LinkPlain s) (hn : NextFrame h s) (slots : List FillSlot) (last : Bool) :
    exec (.fill h slots last) s = .next (kept s (if s.twin.role ≠ .mirror then acked s
      else if last then { filled slots (acked s) with twin.fillDone := true } else filled slots (acked s))) := by
  change execFill h slots last s = _
  unfold execFill
  rw [holhamIn_next h _ s hl hn]
  rfl

end Sys2Proof.Machine
end

section
/-!
SUPPORT. STATUS, REJOIN, and a transfer at the mirror.
-/
namespace Sys2Proof.Machine

open Sys2Proof

/-- Settles O44: STATUS and REJOIN as inputs of the log, and each frame of a transfer or a fill at the mirror. -/
theorem statusAndTransfer : Obligations.StatusAndTransfer := by
  refine ⟨?inputs, ?transfer, ?fill⟩
  case inputs =>
    intro h p durable arrival s hl hn header status rejoin
    rw [exec_status_next hl hn, exec_rejoin_next hl hn]
    refine ⟨fun hc => ?_, fun hc hsettled => ?_⟩
    · rw [if_pos (by simp [hc]), if_pos (by simp [hc])]
      exact ⟨rfl, rfl⟩
    · intro into
      rw [if_neg (by simp [hc]), if_neg (by simp [hc])]
      refine ⟨fun ht => ?_, fun ht => ?_⟩
      · have hlogged := peerInput_logged hsettled ht
        exact ⟨_, rfl, hlogged.entries, hlogged.mirror, hlogged.cov, hlogged.rxSeq⟩
      · have hlogged := peerInput_logged hsettled ht
        exact ⟨_, rfl, hlogged.entries, hlogged.rejoinSeal, hlogged.cov, hlogged.rxSeq⟩
  case transfer =>
    intro h payload e s hl hn
    refine ⟨fun hno => ?_, fun hm hx => ?_⟩
    · have ht := not_takesTransfer_iff.mpr hno
      rw [exec_xfer_next hl hn, if_neg ht]
      exact ⟨rfl, exec_xferEnd_ignored hl hn e ht⟩
    · have ht : TakesTransfer s := ⟨hm, hx⟩
      rw [exec_xfer_next hl hn, if_pos ht]
      refine ⟨rfl, ?_⟩
      intro b agrees
      refine ⟨fun ha hroom => ⟨fun hs => exec_xferEnd_refused hl hn ht ha hroom hs,
        fun hs => exec_xferEnd_again hl hn ht ha hroom hs⟩, fun ha hh => ?_⟩
      rw [exec_xferEnd_next hl hn ht, if_pos ha]
      refine ⟨rfl, fun hv => ⟨_, rfl, ?_⟩⟩
      obtain ⟨hstandby, hlogs, hsame⟩ := takeTransfer_held (x := sealOf e.sealBody e.signature) (s := acked s) hh hv
      have hseal := hsame.prevSeal
      rw [headed, sealOf_hash] at hseal
      exact ⟨hstandby, hlogs, hsame.rejoins, hsame.xferIn, hsame.asked, hseal⟩
  case fill =>
    intro h slots s hl hn
    refine ⟨fun hm b => ?_, fun hm => ?_⟩
    · rw [exec_fill_next hl hn, if_pos hm]
      rfl
    · intro placed
      rw [exec_fill_next hl hn, exec_fill_next hl hn, if_neg (not_not_intro hm), if_neg (not_not_intro hm)]
      exact ⟨rfl, rfl⟩

end Sys2Proof.Machine
end

section
/-!
SUPPORT. How every command answers: by which of the outcomes of Machine/Ops, and what each of them leaves alone.
-/
namespace Sys2Proof.Machine

open Sys2Proof

/-- A command that may burn a quarantine entry leaves the queue and the image alone. -/
theorem doneEntry_frame {s t u : State} (h : doneEntry s t = .next u) : u.pending = s.pending ∧ u.nor.image = s.nor.image := by
  cases h; exact ⟨rfl, rfl⟩

/-- A start leaves the queue alone. -/
theorem doneBoard_pending {s t u : State} (h : doneBoard s t = .next u) : u.pending = s.pending := by
  cases h; rfl

/-- The outcome of each command but START: FUSE_BURN and CLOCK_LOSS may burn fuses, no other does. -/
theorem exec_answers (c : Instr) (s : State) : (∃ b, c = .start b) ∨ (∃ t, exec c s = done s t)
    ∨ (∃ ok t, c = .fuseBurn ok ∧ exec c s = doneFuse s t) ∨ ∃ f t, c = .clockLoss f ∧ exec c s = doneEntry s t := by
  cases c
  case start b => exact .inl ⟨b, rfl⟩
  case fuseBurn ok => exact .inr (.inr (.inl ⟨ok, _, rfl, rfl⟩))
  case clockLoss f => exact .inr (.inr (.inr ⟨f, _, rfl, rfl⟩))
  all_goals exact .inr (.inl ⟨_, rfl⟩)

variable {b : StartIn} {s : State}

/-- The start goes into service with a valid image that is a misuse of R609. -/
abbrev StartFaults (b : StartIn) (s : State) : Prop :=
  s.sys.mode = .inReset ∧ s.test.resetLow = false ∧ b.pfailLow = false ∧ startMisused b s (startUnit b s) = true

theorem exec_start_faults (h : StartFaults b s) : exec (.start b) s = .fault (.undefinedCase 609) := by
  obtain ⟨hm, hr, hp, hmis⟩ := h
  change execStart b s = _
  simp only [execStart, hm, hr, hp, hmis, ne_eq, not_true_eq_false, Bool.false_eq_true, or_self, if_false, if_true]

theorem exec_start_completes (h : ¬StartFaults b s) : ∃ t, exec (.start b) s = doneBoard s t := by
  change ∃ t, execStart b s = _
  unfold execStart
  split
  next => exact ⟨_, rfl⟩
  next hready =>
    obtain ⟨hm, hr⟩ := not_or.mp hready
    split
    next => exact ⟨_, rfl⟩
    next hp =>
      have hmis : ¬startMisused b s (startUnit b s) = true := fun hmis =>
        h ⟨Decidable.of_not_not hm, Bool.eq_false_iff.mpr hr, Bool.eq_false_iff.mpr hp, hmis⟩
      exact ⟨_, if_neg hmis⟩

variable {c : Instr} {t : State}

theorem exec_pending (h : exec c s = .next t) : t.pending = s.pending := by
  rcases exec_answers c s with ⟨b, rfl⟩ | ⟨u, hu⟩ | ⟨_, u, -, hu⟩ | ⟨_, u, -, hu⟩
  · have hno : ¬StartFaults b s := fun hf => nomatch (exec_start_faults hf).symm.trans h
    obtain ⟨u, hu⟩ := exec_start_completes hno
    exact doneBoard_pending (hu.symm.trans h)
  · exact (done_frame (hu.symm.trans h)).1
  · exact (doneFuse_frame (hu.symm.trans h)).1
  · exact (doneEntry_frame (hu.symm.trans h)).1

theorem exec_image (hstart : ∀ b, c ≠ .start b) (h : exec c s = .next t) : t.nor.image = s.nor.image := by
  rcases exec_answers c s with ⟨b, hb⟩ | ⟨u, hu⟩ | ⟨_, u, -, hu⟩ | ⟨_, u, -, hu⟩
  · exact absurd hb (hstart b)
  · exact (done_frame (hu.symm.trans h)).2.2
  · exact (doneFuse_frame (hu.symm.trans h)).2
  · exact (doneEntry_frame (hu.symm.trans h)).2

theorem exec_fuses (hstart : ∀ b, c ≠ .start b) (hburn : ∀ ok, c ≠ .fuseBurn ok) (hclock : ∀ f, c ≠ .clockLoss f)
    (h : exec c s = .next t) : t.keys.fuses = s.keys.fuses := by
  rcases exec_answers c s with ⟨b, hb⟩ | ⟨u, hu⟩ | ⟨ok, _, hc, -⟩ | ⟨f, _, hc, -⟩
  · exact absurd hb (hstart b)
  · exact (done_frame (hu.symm.trans h)).2.1
  · exact absurd hc (hburn ok)
  · exact absurd hc (hclock f)

theorem exec_completes (c : Instr) (s : State) (hstart : ∀ b, c ≠ .start b) : ∃ t, exec c s = .next t := by
  rcases exec_answers c s with ⟨b, hb⟩ | ⟨_, hu⟩ | ⟨_, _, -, hu⟩ | ⟨_, _, -, hu⟩
  · exact absurd hb (hstart b)
  all_goals exact ⟨_, hu⟩

end Sys2Proof.Machine
end

section
/-!
SUPPORT. What no command touches.
-/
namespace Sys2Proof.Machine

open Sys2Proof

/-- Settles O3: START answers by the fault of R609 or by `doneBoard`, FUSE_BURN and CLOCK_LOSS by outcomes of their own, and
every other command by `done`. -/
theorem commandsLeaveQueueAndImage : Obligations.CommandsLeaveQueueAndImage := by
  refine ⟨fun c s t h => ⟨exec_pending h, fun hs => exec_image hs h, fun hs hb hc => exec_fuses hs hb hc h⟩, exec_completes,
    fun b s hm hr hp hmis => exec_start_faults ⟨hm, hr, hp, hmis⟩, fun b s h => ?_⟩
  obtain ⟨u, hu⟩ := exec_start_completes h
  exact ⟨_, hu⟩

end Sys2Proof.Machine
end

section
/-!
SUPPORT. The unit right after reset.
-/
namespace Sys2Proof.Machine

open Sys2Proof

theorem rcFields_reset : ∀ f ∈ rcFields, f.get State.reset = 0 := by decide +kernel

/-- Settles O59: each part of the power-up state stands at its own initial value. -/
theorem resetState : Obligations.ResetState :=
  ⟨rfl, rfl, rfl, rfl, fun _ => rfl, by decide, rfl, rfl, rfl, rfl, rfl, rfl, rfl, rfl, rfl, rcFields_reset⟩

end Sys2Proof.Machine
end

section
/-!
SUPPORT. The supply of the VBAT domain, its crystal, and the links of the Ethernet ports.
-/
namespace Sys2Proof.Machine

open Sys2Proof

variable {s : State}

theorem kept_self (s : State) : kept s s = s := rfl

theorem whenClock_on {f : State → State} (h : clockOn s = true) : whenClock s f = .next (kept s (f s)) := by
  simp [whenClock, h, done_eq]

/-! ### Alarms (R416, R418) -/

/-- The tamper source is enabled, by its fuse or by the record. -/
abbrev tamperEnabled (n : Nat) (s : State) : Bool := (s.keys.fuses.tamper ||| s.hw.record.tamper).getLsbD n

theorem alarm_disabled {n : Nat} (h : tamperEnabled n s = false) : alarm n s = s := by
  simp only [alarm, h, Bool.not_false, if_true]

theorem setLatch_free (bits : BitVec 10) (h : s.keys.latch = none) :
    setLatch bits s = { s with keys.latch := some ⟨bits, s.sys.vbat.seconds⟩ } := by
  simp only [setLatch, h, Option.isSome_none, Bool.false_eq_true, if_false]

/-- In reset an alarm goes to the latch alone. -/
theorem alarm_inReset {n : Nat} (h : tamperEnabled n s = true) (hm : s.sys.mode = .inReset) (hl : hwLifeState s = .field) :
    alarm n s = setLatch (BitVec.ofNat 10 (2 ^ n)) s := by
  simp only [alarm, h, hm, hl, Bool.not_true, Bool.false_eq_true, reduceCtorEq, or_self, if_false]

/-! ### The VBAT domain (R570 to R572) -/

/-- Power returns to the VBAT domain. -/
def vbatCleared (s : State) : State := { s with sys.vbat := Vbat.init, keys.latch := none, keys.active := 0 }

theorem exec_vbatPowerOn_eq (s : State) : exec .vbatPowerOn s = .next (kept s (alarm 9 (vbatCleared s))) := rfl

theorem exec_vbatPowerOn_disabled (h : tamperEnabled 9 s = false) : exec .vbatPowerOn s = .next (vbatCleared s) := by
  rw [exec_vbatPowerOn_eq, alarm_disabled (s := vbatCleared s) h]
  rfl

theorem exec_vbatPowerOn_latches (h : tamperEnabled 9 s = true) (hm : s.sys.mode = .inReset) (hl : hwLifeState s = .field) :
    exec .vbatPowerOn s = .next { vbatCleared s with keys.latch := some ⟨0x200, Vbat.init.seconds⟩ } := by
  rw [exec_vbatPowerOn_eq, alarm_inReset (s := vbatCleared s) h hm hl, setLatch_free _ rfl]
  rfl

theorem exec_vbatSample_low {mv : Nat} (h : clockOn s = true) (hmv : mv < 2500) :
    exec (.vbatSample mv) s = .next (if s.sys.vbatLowSeen then { s with sys.vbatLow := true }
      else kept s (raiseU 0x0062 [mv] { s with sys.vbatLow := true, sys.vbatLowSeen := true })) := by
  change execVbatSample mv s = _
  rw [execVbatSample, whenClock_on h]
  cases hs : s.sys.vbatLowSeen
  · simp only [hmv, hs, decide_true, Bool.not_false, Bool.and_self, Bool.false_eq_true, if_true, if_false]
  · simp only [hmv, hs, decide_true, Bool.not_true, Bool.and_false, Bool.false_eq_true, if_true, if_false]
    rfl

theorem exec_vbatSample_high {mv : Nat} (h : clockOn s = true) (hmv : 2500 ≤ mv) :
    exec (.vbatSample mv) s = .next { s with sys.vbatLow := false } := by
  change execVbatSample mv s = _
  rw [execVbatSample, whenClock_on h]
  simp only [Nat.not_lt.mpr hmv, decide_false, Bool.false_and, Bool.false_eq_true, if_false]
  rfl

/-- The crystal stops, and the seconds counter with it. -/
def crystalStopped (s : State) : State := { s with sys.vbat.xtalOk := false, sys.vbat.valid := false }

/-- The CLOCK source becomes active. -/
def clockTripped (s : State) : State := { s with keys.active := s.keys.active ||| 256 }

theorem exec_xtal32kStop_eq (s : State) : exec .xtal32kStop s = .next (kept s
    (if s.keys.active.getLsbD 8 then crystalStopped s else alarm 8 (clockTripped (crystalStopped s)))) := rfl

theorem exec_xtal32kStop_disabled (h : tamperEnabled 8 s = false) :
    exec .xtal32kStop s = .next { crystalStopped s with
      keys.active := if s.keys.active.getLsbD 8 then s.keys.active else s.keys.active ||| 256 } := by
  rw [exec_xtal32kStop_eq, alarm_disabled (s := clockTripped (crystalStopped s)) h]
  by_cases ha : s.keys.active.getLsbD 8 = true
  · rw [if_pos ha, if_pos ha]
    rfl
  · rw [if_neg ha, if_neg ha]
    rfl

/-! ### Ethernet links (R73) -/

theorem exec_ethernetLinkChange_on {p : BitVec 2} (up : Bool) (h : clockOn s = true)
    (hphy : hwCfg s 0x0002 p.toNat 2 1 0xFF ≠ 0xFF) (hon : hwCfg s 0x0002 p.toNat 0 1 1 ≠ 0) :
    exec (.ethernetLinkChange p up) s = .next { s with sys.ethUp := s.sys.ethUp.set p.toNat up } := by
  change execEthernetLinkChange p up s = _
  rw [execEthernetLinkChange, whenClock_on h]
  simp only [hphy, hon, or_self, if_false]
  rfl

end Sys2Proof.Machine
end

section
/-!
SUPPORT. What the supply of the VBAT domain and an Ethernet link do to the unit.
-/
namespace Sys2Proof.Machine

open Sys2Proof

/-- Settles O16: each command of the domain and of a link, with the alarm or the event that it makes. -/
theorem supplyOfTheVbatDomain : Obligations.SupplyOfTheVbatDomain :=
  ⟨fun _ h => exec_vbatPowerOn_disabled h, fun _ h hm hl => exec_vbatPowerOn_latches h hm hl,
    fun _ _ h hmv => exec_vbatSample_low h hmv, fun _ _ h hmv => exec_vbatSample_high h hmv,
    fun _ h => exec_xtal32kStop_disabled h, fun _ up _ h hphy hon => exec_ethernetLinkChange_on up h hphy hon⟩

end Sys2Proof.Machine
end

section
/-!
SUPPORT. Where a start ends: one lemma for each of its ends, and the wait for HELLO.
-/
namespace Sys2Proof.Machine

open Sys2Proof

variable {b : StartIn} {s t : State}

/-! ### The answer of a start (R57, R561) -/

theorem burnedInto_self (f : Fuses) : burnedInto f f = f := by simp only [burnedInto, BitVec.or_self]

theorem doneBoard_self (s : State) : doneBoard s s = .next s := by rw [doneBoard, burnedInto_self]

theorem exec_start_resetLow (h : s.test.resetLow = true) : exec (.start b) s = .next s := by
  change execStart b s = _
  rw [execStart, if_pos (.inr h), doneBoard_self]

theorem exec_pfailAtStart_held (ms : Nat) (hm : s.sys.mode = .pfailHeld) :
    exec (.pfailAtStart ms) s = .next { s with sys.mode := .inReset, sys.pfailWait := some ms } := by
  change execPfailAtStart ms s = _
  rw [execPfailAtStart, if_pos hm]
  rfl

/-- Reset is released: the unit stands in reset, RESET_N and PFAIL_N high. -/
abbrev Released (b : StartIn) (s : State) : Prop := s.sys.mode = .inReset ∧ s.test.resetLow = false ∧ b.pfailLow = false

theorem exec_start_pfailLow (hm : s.sys.mode = .inReset) (hr : s.test.resetLow = false) (hp : b.pfailLow = true) :
    exec (.start b) s = .next { s with sys.mode := .pfailHeld } := by
  change execStart b s = _
  rw [execStart, if_neg (by simp [hm, hr]), if_pos hp, doneBoard, burnedInto_self]

/-- A start that is no misuse answers with the unit's own start. -/
theorem exec_start_released (h : Released b s) (hu : startUnit b s = t) (hmis : startMisused b s t = false) :
    ∃ u, exec (.start b) s = .next u ∧ u.sys = t.sys ∧ u.twin = t.twin ∧ u.nor = t.nor := by
  obtain ⟨hm, hr, hp⟩ := h
  have hdone : exec (.start b) s = doneBoard s t := by
    change execStart b s = _
    rw [execStart, if_neg (by simp [hm, hr]), if_neg (by simp [hp]), hu, if_neg (by simp [hmis])]
  exact ⟨_, hdone, rfl, rfl, rfl⟩

/-- No start that stays out of service is a misuse. -/
theorem startMisused_outOfService (hrun : t.sys.mode ≠ .running) (hwait : t.sys.mode ≠ .waiting) : startMisused b s t = false := by
  simp only [startMisused, beq_eq_false_iff_ne.mpr hrun, beq_eq_false_iff_ne.mpr hwait, Bool.or_self, Bool.false_and]

theorem startMisused_goodImage (h : imageBlank (release b s).nor.image = true
    ∨ ∀ q, imageMisused q (imageRecords (release b s).nor.image) = false) : startMisused b s t = false := by
  rcases h with h | h
  · simp [startMisused, h]
  · simp [startMisused, h]

/-! ### Its ends (R67, R501, R563) -/

theorem release_reports (b : StartIn) (s : State) : (release b s).nor.reports = s.nor.reports := by
  unfold release
  cases b.boot <;> cases b.image <;> rfl

theorem startUnit_unsound (h : (release b s).nor.boot.any (·.sound) = false) :
    startUnit b s = settlePins { release b s with sys.mode := .dead } := by
  simp only [startUnit, h, Bool.not_false, if_true]

theorem haltWith_mode (cause : Nat) (serial : BitVec 32) (s : State) : (haltWith cause serial s).sys.mode = .halted := rfl

theorem haltWith_pins (cause : Nat) (serial : BitVec 32) (s : State) :
    (haltWith cause serial s).sys.pins = ⟨.parked, .hiz, .hiz, .hiz, false⟩ := rfl

/-- The newest report of the ring is the one just written. -/
theorem haltWith_report (cause : Nat) (serial : BitVec 32) (s : State) :
    (haltWith cause serial s).nor.reports.head?.map (·.cause) = some (BitVec.ofNat 8 cause) := by
  change (bootReport cause serial s).nor.reports.head?.map (·.cause) = _
  simp only [bootReport, List.head?_take]
  rw [if_neg (by omega)]
  rfl

/-! ### The wait for HELLO (R433) -/

theorem exec_helloWaitTimeout_eq (peerLow : Bool) (hm : s.sys.mode = .waiting) (hw : s.twin.waitingHello = true) :
    exec (.helloWaitTimeout peerLow) s = .next (kept s (
      if peerLow then becomeStarting { s with twin.waitingHello := false, twin.peerN := peerLow }
      else { s with twin.waitingHello := false, twin.peerN := peerLow })) := by
  change execHelloWaitTimeout peerLow s = _
  rw [execHelloWaitTimeout, if_pos ⟨hm, hw⟩, done_eq]

end Sys2Proof.Machine
end

section
/-!
SUPPORT. A start from reset release to where it ends.
-/
namespace Sys2Proof.Machine

open Sys2Proof

/-- Settles O15: a start that reset release lets go on ends dead, halted or in service, by the boot header and the image. -/
theorem startBringsUpTheUnit : Obligations.StartBringsUpTheUnit := by
  refine ⟨fun b s hm hr hp => exec_start_pfailLow hm hr hp, fun ms s hm => exec_pfailAtStart_held ms hm,
    fun b s hr => exec_start_resetLow hr, ?dead, ?halted, ?service, fun s hm hw =>
      ⟨exec_helloWaitTimeout_eq true hm hw, exec_helloWaitTimeout_eq false hm hw⟩⟩
  case dead =>
    intro b s hm hr hp hboot
    obtain ⟨t, ht, hsys, -, hnor⟩ := exec_start_released ⟨hm, hr, hp⟩ (startUnit_unsound hboot)
      (startMisused_outOfService nofun nofun)
    rw [settlePins_nor] at hnor
    exact ⟨t, ht, by rw [hsys]; rfl, by rw [hsys]; rfl, by rw [hnor]; exact release_reports b s⟩
  case halted =>
    intro b s cause info img hm hr hp hboot hlatch htamper himage hcause
    have hunit := startUnit_eq b s hboot hlatch htamper himage
    rw [if_pos hcause] at hunit
    obtain ⟨t, ht, hsys, -, hnor⟩ := exec_start_released ⟨hm, hr, hp⟩ hunit (startMisused_outOfService nofun nofun)
    refine ⟨t, ht, ?_, ?_, ?_⟩
    · rw [hsys]
      exact haltWith_mode ..
    · rw [hsys]
      exact haltWith_pins ..
    · rw [hnor]
      exact haltWith_report ..
  case service =>
    intro b s cause info img u recs plan hm hr hp hboot hlatch htamper himage hcause hplan hgood
    have hunit := startUnit_eq b s (unlock_nor (release b s) ▸ hboot) hlatch htamper himage
    obtain ⟨x, hx⟩ := recoverStart_enters b s.sys.vbat.stage s.sys.pfailWait cause info img u hplan
    rw [if_neg (Nat.not_le.mpr hcause), hx] at hunit
    obtain ⟨t, ht, hsys, htwin, -⟩ := exec_start_released ⟨hm, hr, hp⟩ hunit (startMisused_goodImage hgood)
    refine ⟨t, ht, ?_⟩
    rw [hsys, htwin]
    exact enterService_mode x

end Sys2Proof.Machine
end

section
/-!
SUPPORT. An update on its way: the lock, the staging region, the verification, and the rewrite of the firmware.
-/
namespace Sys2Proof.Machine

open Sys2Proof

variable {s : State} {u : UpdSession}

/-! ### The lock (R495) -/

theorem heldSession_eq_some_iff : heldSession s = some u ↔ s.cov.upd.session = some u ∧ u.pending = false := by
  simp [heldSession, Option.filter_eq_some_iff]

/-- Ticks since the holder's latest message. -/
abbrev idleTicks (u : UpdSession) (s : State) : Nat := (s.work.log.tick.toNat + 2 ^ 32 - u.lastTick.toNat) % 2 ^ 32

/-- Ticks that a holder may stay idle. -/
abbrev idleLimit (s : State) : Nat := cfg s 0x0B01 0 0 4 3600 * ticksPerS s

theorem lockLapse_held (h : ∀ u, s.cov.upd.session = some u → u.pending = false → idleTicks u s ≤ idleLimit s) :
    lockLapse s = s := by
  unfold lockLapse
  split
  next => rfl
  next u hu =>
    obtain ⟨hs, hp⟩ := heldSession_eq_some_iff.mp hu
    exact if_neg (Nat.not_lt.mpr (h u hs hp))

theorem lockLapse_lapses (hs : s.cov.upd.session = some u) (hp : u.pending = false) (h : idleLimit s < idleTicks u s) :
    lockLapse s = raise (Src.sweep 0) 0xB002 [1, u.received] (dropVerify (putSession (Src.sweep 0) none s)) := by
  unfold lockLapse
  rw [heldSession_eq_some_iff.mpr ⟨hs, hp⟩]
  exact if_pos h

theorem exec_updateLockLapse_held (h : Processing s → ∀ u, s.cov.upd.session = some u → u.pending = false →
    idleTicks u s ≤ idleLimit s) : exec .updateLockLapse s = .next s := by
  change whenProcessing s lockLapse = _
  by_cases hp : Processing s
  · rw [whenProcessing_on hp, lockLapse_held (h hp), kept_self]
  · exact whenProcessing_off hp

theorem exec_updateLockLapse_lapses (hproc : Processing s) (hs : s.cov.upd.session = some u) (hp : u.pending = false)
    (h : idleLimit s < idleTicks u s) : exec .updateLockLapse s
      = .next (kept s (raise (Src.sweep 0) 0xB002 [1, u.received] (dropVerify (putSession (Src.sweep 0) none s)))) := by
  change whenProcessing s lockLapse = _
  rw [whenProcessing_on hproc, lockLapse_lapses hs hp h]

/-! ### The staging region (R496) -/

theorem exec_updateDataWrite_waits (ok : Bool)
    (h : ∀ w rest, s.upd.writes = w :: rest → norOn s = false ∨ isDurable s w.log = false) :
    exec (.updateDataWrite ok) s = .next s := by
  change execUpdateDataWrite ok s = _
  unfold execUpdateDataWrite
  split
  next => rfl
  next w rest hw =>
    have hno : ¬(norOn s = true ∧ isDurable s w.log = true) := by
      rcases h w rest hw with h | h <;> simp [h]
    rw [if_neg hno]
    rfl

section Write
variable {w : DataWrite} {rest : List DataWrite} (hw : s.upd.writes = w :: rest) (hon : norOn s = true) (hd : isDurable s w.log = true)
include hw hon hd

theorem exec_updateDataWrite_ok : exec (.updateDataWrite true) s
    = .next { s with upd.writes := rest, upd.delta := writeAt s.upd.delta w.offset w.bytes } := by
  change execUpdateDataWrite true s = _
  simp only [execUpdateDataWrite, hw, hon, hd, and_self, if_true]
  rfl

theorem exec_updateDataWrite_fails : exec (.updateDataWrite false) s = .next { s with
    upd.writes := rest, upd.writeFailed := true, upd.delta := writeAt s.upd.delta w.offset [] } := by
  change execUpdateDataWrite false s = _
  simp only [execUpdateDataWrite, hw, hon, hd, and_self, if_true, Bool.false_eq_true, if_false]
  rfl

end Write

/-! ### The rebuild of a Delta (R497) -/

/-- A rebuild runs: a Delta for this unit waits for verification with every write complete. -/
abbrev RebuildDue (u : UpdSession) (s : State) : Prop :=
  norOn s = true ∧ u.kind = 0 ∧ u.target = ownEui s ∧ s.upd.verify = .waiting ∧ s.upd.writes = []

/-- What a rebuild leaves. -/
def rebuildEnded (x : Nat ⊕ (BootHeader × Bytes)) (s : State) : State :=
  match x with
  | .inl c => raiseU 0xB004 [c] { s with upd.verify := .rejected, upd.cause := c, upd.rebuilt := [] }
  | .inr (h, img) => raiseU 0xB003 [ofLe (h.fwDigest.take 4), h.procVersion.toNat, h.build.toNat]
      { s with upd.verify := .verified, upd.cause := 0, upd.fresh := h, upd.rebuilt := img }

theorem exec_updateRebuild_none (h : s.cov.upd.session = none) : exec .updateRebuild s = .next s := by
  change execUpdateRebuild s = _
  rw [execUpdateRebuild, h]
  rfl

theorem exec_updateRebuild_eq (hs : s.cov.upd.session = some u) :
    exec .updateRebuild s = .next (if RebuildDue u s then kept s (rebuildEnded (rebuild s u.size) s) else s) := by
  change execUpdateRebuild s = _
  have hguard : (norOn s && u.kind == 0 && u.target == ownEui s && s.upd.verify == .waiting && s.upd.writes.isEmpty) = true
      ↔ RebuildDue u s := by
    simp only [Bool.and_eq_true, beq_iff_eq, List.isEmpty_iff, and_assoc, RebuildDue]
  rw [execUpdateRebuild, hs]
  simp only [hguard]
  split
  · rfl
  · rfl

theorem exec_updateRebuild_waits (h : ∀ u, s.cov.upd.session = some u → ¬RebuildDue u s) : exec .updateRebuild s = .next s := by
  cases hs : s.cov.upd.session with
  | none => exact exec_updateRebuild_none hs
  | some u => rw [exec_updateRebuild_eq hs, if_neg (h u hs)]

theorem exec_updateRebuild_due (hs : s.cov.upd.session = some u) (h : RebuildDue u s) :
    exec .updateRebuild s = .next (kept s (rebuildEnded (rebuild s u.size) s)) := by
  rw [exec_updateRebuild_eq hs, if_pos h]

/-- What a rebuild ends with: an image that meets `p`, or a cause of R497. -/
def EndsIn (p : BootHeader × Bytes → Prop) : Nat ⊕ (BootHeader × Bytes) → Prop
  | .inl c => 1 ≤ c ∧ c ≤ 8
  | .inr x => p x

theorem endsIn_guard {p : BootHeader × Bytes → Prop} {q : Prop} [Decidable q] {c : Nat} {x : Nat ⊕ (BootHeader × Bytes)}
    (hc : 1 ≤ c ∧ c ≤ 8) (hx : ¬q → EndsIn p x) : EndsIn p (if q then .inl c else x) := by
  split
  next => exact hc
  next hq => exact hx hq

/-- The Delta passes every check of R497, and its op stream writes the image of the boot header. -/
def DeltaAccepted (s : State) (size : Nat) (x : BootHeader × Bytes) : Prop :=
  let d := s.upd.delta.take size
  let vkey := slice d 0x58 64
  let counter := (slotValue s (ofLe (slice d 0x54 2))).getD []
  ofLe (slice d 0 4) = 0x4C454457 ∧ ofLe (slice d 4 2) = 1 ∧ ofLe (slice d 8 4) = size ∧ d.length = size
  ∧ slice d 0x10 32 = s.upd.fw.fwDigest ∧ sha256 vkey ∈ Config.vendorDigests s.upd.fw.fwDigest
  ∧ ecdsaVerify (pointOf vkey).1 (pointOf vkey).2 (sha256 (d.take (size - 128)))
      (ofLe (slice d (size - 128) 32)) (ofLe (slice d (size - 96) 32)) = true
  ∧ usable { s with cov := s.view } 4 (ofLe (slice d 0x54 2)) = true
  ∧ ecdsaVerify (pointOf counter).1 (pointOf counter).2 (sha256 (d.take (size - 64)))
      (ofLe (slice d (size - 64) 32)) (ofLe (slice d (size - 32) 32)) = true
  ∧ applyOps (runningImage s) size (slice d 0xC0 (size - 128 - 0xC0)) = some x.2 ∧ x.2.length = ofLe (slice d 0xC 4)
  ∧ sha256 x.2 = slice d 0x30 32 ∧ x.1.fwDigest = sha256 x.2

theorem rebuild_endsIn (s : State) (size : Nat) : EndsIn (DeltaAccepted s size) (rebuild s size) := by
  unfold rebuild
  refine endsIn_guard (by decide) fun hshape => ?_
  refine endsIn_guard (by decide) fun hbase => ?_
  refine endsIn_guard (by decide) fun hvendor => ?_
  refine endsIn_guard (by decide) fun hsigned => ?_
  refine endsIn_guard (by decide) fun husable => ?_
  refine endsIn_guard (by decide) fun hcounter => ?_
  cases hops : applyOps (runningImage s) size (slice (s.upd.delta.take size) 0xC0 (size - 128 - 0xC0)) with
  | none => exact (by decide : 1 ≤ 6 ∧ 6 ≤ 8)
  | some img =>
    refine endsIn_guard (by decide) fun hlength => ?_
    refine endsIn_guard (by decide) fun hdigest => ?_
    simp only [Bool.not_eq_true', decide_eq_false_iff_not, Bool.not_eq_false] at hshape hvendor hsigned husable hcounter
    simp only [ne_eq, Classical.not_not] at hshape hbase hlength hdigest
    obtain ⟨hmagic, hversion, hsize, hlen, -⟩ := hshape
    exact ⟨hmagic, hversion, hsize, hlen, hbase, List.contains_iff_mem.mp hvendor, hsigned, husable, hcounter, hops, hlength,
      hdigest, hdigest.symm⟩

/-! ### The readback of an image (R498) -/

theorem exec_campaignReadback_waits (h : readbackOf s = none ∨ norOn s = false ∨ s.upd.writes ≠ []) :
    exec .campaignReadback s = .next s := by
  change execCampaignReadback s = _
  unfold execCampaignReadback
  split
  next => rfl
  next size digest hr =>
    have hwait : (!(norOn s && s.upd.writes.isEmpty)) = true := by
      rcases h with h | h | h
      · exact absurd h (by rw [hr]; exact nofun)
      · simp [h]
      · simp [h]
    rw [if_pos hwait]
    rfl

section Readback
variable {size : Nat} {digest : Bytes} (hr : readbackOf s = some (size, digest)) (hon : norOn s = true) (hw : s.upd.writes = [])
include hr hon hw

theorem exec_campaignReadback_verified (hlen : size ≤ s.upd.delta.length) (hd : sha256 (s.upd.delta.take size) = digest) :
    exec .campaignReadback s = .next (kept s (raiseU 0xB003 [ofLe (digest.take 4), 0, 0]
      { s with upd.verify := .verified, upd.cause := 0, upd.readback := true, upd.hasImage := true })) := by
  change execCampaignReadback s = _
  rw [execCampaignReadback, hr]
  simp only [hon, hw]
  rw [if_neg (by decide), if_pos ⟨hlen, hd⟩]
  rfl

theorem exec_campaignReadback_rejected (h : s.upd.delta.length < size ∨ sha256 (s.upd.delta.take size) ≠ digest) :
    exec .campaignReadback s = .next (kept s (raiseU 0xB004 [10]
      { s with upd.verify := .rejected, upd.cause := 10, upd.readback := true, upd.hasImage := false })) := by
  have hdiffers : ¬(s.upd.delta.length ≥ size ∧ sha256 (s.upd.delta.take size) = digest) := fun ⟨hlen, hd⟩ =>
    h.elim (Nat.not_lt.mpr hlen) (absurd hd)
  change execCampaignReadback s = _
  rw [execCampaignReadback, hr]
  simp only [hon, hw]
  rw [if_neg (by decide), if_neg hdiffers]
  rfl

end Readback

/-! ### The dead window (R499, R501) -/

/-- The pause of an activation is complete: seal, checkpoint, vault and journal stand. -/
abbrev PauseComplete (s : State) : Prop :=
  ∃ a, s.upd.activation = some a ∧ s.sys.mode = .pause ∧ s.upd.deadWindow = false ∧ isDurable s a = true
    ∧ s.store.checkpoint = none ∧ s.store.ckptDue = none ∧ s.keys.vaultDue = [] ∧ s.nor.journal.due = []

/-- The boot header is gone and the new image loaded. -/
def deadWindowOpened (s : State) : State := { s with
  nor.boot := none, upd.deadWindow := true, upd.fw := s.upd.fresh, upd.fwImage := s.upd.rebuilt
  recorder := if s.recorder.noGrain then s.recorder else s.recorder.flush }

theorem exec_deadWindowOpen_waits (ms : Nat) (h : ¬PauseComplete s) : exec (.deadWindowOpen ms) s = .next s := by
  change execDeadWindowOpen ms s = _
  dsimp only [execDeadWindowOpen]
  split
  next => rfl
  next a ha =>
    rw [if_neg fun hready => h ⟨a, ha, by simpa using hready⟩]
    rfl

theorem exec_deadWindowOpen_opens (ms : Nat) (h : PauseComplete s) :
    exec (.deadWindowOpen ms) s = .next (deadWindowOpened s) := by
  obtain ⟨a, ha, hready⟩ := h
  change execDeadWindowOpen ms s = _
  dsimp only [execDeadWindowOpen]
  split
  next hnone => exact absurd (ha.symm.trans hnone) nofun
  next y hy =>
    obtain rfl : a = y := Option.some.inj (ha.symm.trans hy)
    rw [if_pos (by simpa using hready)]
    rfl

/-! ### The rewrite of the firmware (R500 to R502) -/

/-- Firmware and boot header are programmed. -/
def firmwareWritten (s : State) : State :=
  { s with nor.boot := some s.upd.fresh, nor.firmware := s.upd.rebuilt, upd.deadWindow := false }

/-- A rewrite that fails leaves the unit dead. -/
def rewriteFailed (s : State) : State := settlePins { s with sys.mode := .dead, cap.isOn := false }

theorem exec_norRewrite_mirror (ms : Nat) (ok : Bool) (hm : s.upd.mirrorRewrite = true) :
    exec (.norRewrite ms ok) s = .next (kept s (if s.sys.mode ≠ .running ∧ s.sys.mode ≠ .waiting then s
      else if ok then resetUnit 10 { firmwareWritten s with upd.mirrorRewrite := false } else rewriteFailed s)) := by
  change execNorRewrite ms ok s = _
  simp only [execNorRewrite, hm]
  rfl

theorem exec_norRewrite_none (ms : Nat) (ok : Bool) (hm : s.upd.mirrorRewrite = false) (hx : s.upd.rewriteDue = none) :
    exec (.norRewrite ms ok) s = .next s := by
  change execNorRewrite ms ok s = _
  simp only [execNorRewrite, hm, hx]
  rfl

theorem exec_norRewrite_due (ms : Nat) (ok : Bool) (hm : s.upd.mirrorRewrite = false) {x : BitVec 48}
    (hx : s.upd.rewriteDue = some x) :
    exec (.norRewrite ms ok) s = .next (kept s (if s.sys.mode = .running ∧ isDurable s x = true then
        if !ok then rewriteFailed s
        else if norQuiet s then raiseU 0xB006 [ms] { dropVerify (firmwareWritten s) with upd.rewriteDue := none } else s
      else s)) := by
  change execNorRewrite ms ok s = _
  dsimp only [execNorRewrite]
  split
  next hmirror => exact absurd (hm.symm.trans hmirror) nofun
  next y _ hy =>
    obtain rfl : x = y := Option.some.inj (hx.symm.trans hy)
    rfl
  next hnone => exact absurd (hx.symm.trans hnone) nofun

theorem exec_norRewrite_waits (ms : Nat) (ok : Bool) (hm : s.upd.mirrorRewrite = false)
    (h : ∀ x, s.upd.rewriteDue = some x →
      s.sys.mode ≠ .running ∨ isDurable s x = false ∨ (ok = true ∧ norQuiet s = false)) :
    exec (.norRewrite ms ok) s = .next s := by
  cases hx : s.upd.rewriteDue with
  | none => exact exec_norRewrite_none ms ok hm hx
  | some x =>
    rw [exec_norRewrite_due ms ok hm hx]
    rcases h x hx with hrun | hdur | ⟨rfl, hquiet⟩
    · rw [if_neg fun h => hrun h.1, kept_self]
    · rw [if_neg (by simp [hdur]), kept_self]
    · simp only [hquiet, Bool.not_true, Bool.false_eq_true, if_false, ite_self, kept_self]

end Sys2Proof.Machine
end

section
/-!
SUPPORT. An update from its lock to the firmware that it leaves.
-/
namespace Sys2Proof.Machine

open Sys2Proof

/-- Settles O54: the lock, the writes, the rebuild, the readback, the dead window and the rewrite, each by its own command. -/
theorem updatesAreWrittenAndVerified : Obligations.UpdatesAreWrittenAndVerified := by
  refine ⟨fun s h => exec_updateLockLapse_held h, fun u s hp hs hu h => exec_updateLockLapse_lapses hp hs hu h,
    fun ok s h => exec_updateDataWrite_waits ok h,
    fun w rest s hw hon hd => ⟨exec_updateDataWrite_ok hw hon hd, exec_updateDataWrite_fails hw hon hd⟩, ?waits,
    fun u s hs hon hk ht hv hw => exec_updateRebuild_due hs ⟨hon, hk, ht, hv, hw⟩, ?sound,
    fun s h => exec_campaignReadback_waits h,
    fun size digest s hr hon hw => ⟨exec_campaignReadback_verified hr hon hw, exec_campaignReadback_rejected hr hon hw⟩,
    fun ms s => ⟨exec_deadWindowOpen_waits ms, exec_deadWindowOpen_opens ms⟩, ?rewrite⟩
  case waits =>
    intro s h
    refine exec_updateRebuild_waits fun u hs ⟨hon, hk, ht, hv, hw⟩ => ?_
    rcases h u hs with h | h | h | h | h
    · exact absurd hon (by simp [h])
    · exact h hk
    · exact h ht
    · exact h hv
    · exact h hw
  case sound =>
    intro s size
    have hends := rebuild_endsIn s size
    split
    next c hc => rwa [hc] at hends
    next h img hi => rwa [hi] at hends
  case rewrite =>
    intro ms ok s written dead
    refine ⟨fun hm => ⟨fun hrun hwait => ?_, fun hmode => ?_⟩,
      fun hm => ⟨exec_norRewrite_waits ms ok hm, fun x hx hrun hd => ?_⟩⟩
    · rw [exec_norRewrite_mirror ms ok hm, if_pos ⟨hrun, hwait⟩, kept_self]
    · have hup : ¬(s.sys.mode ≠ .running ∧ s.sys.mode ≠ .waiting) := fun ⟨hr, hw⟩ => hmode.elim hr hw
      rw [exec_norRewrite_mirror ms ok hm, if_neg hup]
      exact ⟨fun hok => by rw [if_pos hok]; rfl, fun hok => by rw [if_neg (by simp [hok])]; rfl⟩
    · rw [exec_norRewrite_due ms ok hm hx, if_pos ⟨hrun, hd⟩]
      refine ⟨fun hok => ?_, fun hok hquiet => ?_⟩
      · rw [if_pos (by simp [hok])]
        rfl
      · rw [if_neg (by simp [hok]), if_pos hquiet]
        rfl

end Sys2Proof.Machine
end

section
/-!
SUPPORT. Reception on the powerline: preambles, native PPDUs and IEEE 1901.2 PPDUs, where nothing is injected on the phase.
-/
namespace Sys2Proof.Machine

open Sys2Proof

variable {s : State}

/-! ### Frames that arrive without injection (R576, R579, R580) -/

theorem injectFault_plain {k : Nat} {rx : Bool} (failed : Bool) (h : faultOn s k rx = false) :
    injectFault k rx failed s = (.pass, s) := by
  simp only [injectFault, h, Bool.not_false, if_true]

theorem deliverInput_inputs (k : Nat) (e : LogEntry) (s : State) : OnlyInputs s (deliverInput k e s) := by
  have h := appendInput_inputs e s
  simp only [deliverInput]
  split
  · exact h
  · refine h.trans (OnlyInputs.trans ?_ (appendInput_inputs _ _))
    exact ⟨rfl, rfl, rfl⟩

theorem deliverInput_plc (k : Nat) (e : LogEntry) (s : State) : (deliverInput k e s).plc = s.plc := by
  rw [(deliverInput_inputs k e s).state]

/-- Where nothing waits ahead of an input and no frame of its link is held, it is all that the log gains. -/
theorem deliverInput_logged {k : Nat} {e : LogEntry} (hr : s.twin.role = .single) (h : Settled s)
    (hh : (faultLink s k).held = none) (ht : s.cap.log.takes e = true) : deliverInput k e s = logged e s := by
  have happend : appendInput e s = logged e s := (appendInput_settled h ht).trans (enterLog_single e s hr)
  have hheld : (faultLink (logged e s) k).held = none := hh
  simp only [deliverInput, happend, hheld]

/-! ### Preambles (R117, R119, R127) -/

/-- A preamble on `phase` starts the one reception. -/
def receptionBegun (phase : BitVec 2) (s : State) : State := { s with plc.reception := some phase.toNat }

/-- The one reception has ended. -/
def receptionEnded (s : State) : State := { s with plc.reception := none }

theorem exec_preambleDetect_starts {phase : BitVec 2} (hc : capturing s = true) (hn : nativeOn s phase.toNat = true)
    (ha : s.plc.onAir = none) (hr : s.plc.reception = none) :
    exec (.preambleDetect phase) s = .next (receptionBegun phase s) := by
  have hfree : (nativeOn s phase.toNat && s.plc.onAir.isNone && s.plc.reception.isNone) = true := by simp [hn, ha, hr]
  change execPreambleDetect phase s = _
  simp only [execPreambleDetect, whenCapturing_on hc, hfree, if_true]
  rfl

theorem exec_preambleDetect_unheard {phase : BitVec 2} (hc : capturing s = true)
    (h : s.plc.onAir.isSome = true ∨ s.plc.reception.isSome = true) : exec (.preambleDetect phase) s = .next s := by
  have hbusy : (nativeOn s phase.toNat && s.plc.onAir.isNone && s.plc.reception.isNone) = false := by
    rcases h with h | h <;> simp only [Option.isNone_eq_false_iff.mpr h, Bool.and_false, Bool.false_and]
  change execPreambleDetect phase s = _
  simp only [execPreambleDetect, whenCapturing_on hc, hbusy, Bool.false_eq_true, if_false, kept_self]

/-! ### The input of a native PPDU (R124, R130) -/

section Ppdu
variable {p : PpduIn}

theorem ppduUse_robust (h : ppduRobust p = true) : ppduUse p s = .current := by
  simp only [ppduUse, h, Bool.true_or, if_true]

theorem ppduOk_robust (h : ppduRobust p = true) (ht : p.fc.ppduType ≠ 1) (hc : p.cwFailed = 0) :
    ppduOk p (ppduUse p s) p.cwFailed = true := by
  rw [ppduUse_robust h, ppduOk, hc, bne_iff_ne.mpr ht]
  rfl

theorem ppduBody_head (p : PpduIn) (use : MapUse) (cwF : Byte) (blanked erased : Nat) (s : State) :
    (ppduBody p use cwF blanked erased s).head? = some (BitVec.ofNat 8 p.fc.ppduType.toNat) := rfl

theorem ppduBody_ends {use : MapUse} {cwF : Byte} (blanked erased : Nat) (s : State) (h : ppduOk p use cwF = true) :
    ∃ b, ppduBody p use cwF blanked erased s = b ++ p.psdu := by
  simp only [ppduBody, plcDescriptor, h, if_true]
  exact ⟨_, rfl⟩

/-- The unit once a PPDU's symbols are blanked and the PPDU is counted. -/
def ppduCounted (p : PpduIn) (s : State) : State := countPpdu p (ppduUse p s) p.cwFailed (blankPpdu p s).2.2

/-- The bytes of a PPDU's input. -/
def ppduBytes (p : PpduIn) (s : State) : Bytes :=
  ppduBody p (ppduUse p s) p.cwFailed (blankPpdu p s).1 (blankPpdu p s).2.1 (ppduCounted p s)

/-- A PPDU as an input of the log. -/
def ppduInput (p : PpduIn) (s : State) : LogEntry := ⟨BitVec.ofNat 9 p.phase.toNat, 1, s.time.ns, ppduBytes p s, none⟩

theorem ppduCounted_phases (p : PpduIn) (s : State) : OnlyPhases s (ppduCounted p s) :=
  (blankPpdu_phases p s).trans (countPpdu_phases _ _ _ _)

/-- Without injection a PPDU is blanked, counted and delivered, and its acknowledgement is decided. -/
theorem receivePpdu_plain (h : faultOn s p.phase.toNat true = false) :
    ∃ ok, receivePpdu p s = ackPpdu p ok (deliverInput p.phase.toNat (ppduInput p s) (ppduCounted p s)) := by
  obtain ⟨_, _, _, hblank⟩ := blankPpdu_phases p s
  have hfault : faultOn (blankPpdu p s).2.2 p.phase.toNat true = false := by rw [hblank]; exact h
  obtain ⟨_, _, _, hcount⟩ := ppduCounted_phases p s
  have htime : (ppduCounted p s).time = s.time := by rw [hcount]
  rw [ppduInput, ← htime]
  simp only [receivePpdu, injectFault_plain _ hfault]
  exact ⟨_, rfl⟩

theorem receivePpdu_reception (h : faultOn s p.phase.toNat true = false) : (receivePpdu p s).plc.reception = s.plc.reception := by
  obtain ⟨ok, hreceive⟩ := receivePpdu_plain h
  obtain ⟨_, _, _, hcount⟩ := ppduCounted_phases p s
  rw [hreceive, (ackPpdu_frame _ _ _).2, deliverInput_plc, hcount]

theorem receivePpdu_cap (hr : s.twin.role = .single) (hs : Settled s) (h : faultOn s p.phase.toNat true = false)
    (hh : (faultLink s p.phase.toNat).held = none) (ht : s.cap.log.takes (ppduInput p s) = true) :
    (receivePpdu p s).cap = (logged (ppduInput p s) s).cap := by
  obtain ⟨ok, hreceive⟩ := receivePpdu_plain h
  obtain ⟨a, b, c, hcount⟩ := ppduCounted_phases p s
  rw [hreceive, (ackPpdu_frame _ _ _).1, hcount]
  exact congrArg (·.cap) (deliverInput_logged (s := { s with plc.l1 := a, plc.l2 := b, plc.l3 := c }) hr hs hh ht)

/-! ### Native PPDUs (R124, R127, R134) -/

/-- A PPDU whose frame control fails is counted. -/
def fcFailureCounted (p : PpduIn) (s : State) : State :=
  modPhase p.phase.toNat (fun x => { x with fcFailed := x.fcFailed.inc, tickFcFail := x.tickFcFail + 1 }) (receptionEnded s)

variable (hc : capturing s = true) (hn : nativeOn s p.phase.toNat = true) (ha : s.plc.onAir = none)
include hc hn ha

theorem exec_ppduReceive_heard : exec (.ppduReceive p) s =
    .next (kept s (if !p.fcOk then fcFailureCounted p s else receivePpdu p (receptionEnded s))) := by
  have hheard : (!nativeOn s p.phase.toNat || s.plc.onAir.isSome) = false := by simp [hn, ha]
  change execPpduReceive p s = _
  simp only [execPpduReceive, whenCapturing_on hc, hheard, Bool.false_eq_true, if_false]
  rfl

theorem exec_ppduReceive_failed (hf : p.fcOk = false) : exec (.ppduReceive p) s = .next (fcFailureCounted p s) := by
  rw [exec_ppduReceive_heard hc hn ha, if_pos (by simp [hf])]
  rfl

theorem exec_ppduReceive_decoded (hf : p.fcOk = true) :
    exec (.ppduReceive p) s = .next (kept s (receivePpdu p (receptionEnded s))) := by
  rw [exec_ppduReceive_heard hc hn ha, if_neg (by simp [hf])]

end Ppdu

/-! ### IEEE 1901.2 PPDUs (R127 to R129) -/

section Ieee
variable {p : Ieee1901In}

/-- The bytes of an IEEE 1901.2 PPDU's input: a descriptor with MODE 3, and the PSDU where it decoded. -/
def ieeeBytes (p : Ieee1901In) : Bytes :=
  plcDescriptor 3 (bit p.ok) (2 ^ (p.phase.toNat - 1) + 16 * p.phase.toNat) 0 ⟨0, 0, 0, 0xFFF, 0, 0, 0, 0⟩ 0
    (BitVec.ofNat 8 (bit (!p.ok))) p.arrival 0 0 none [127, 127, 127] p.meanSnr [] (if p.ok then p.psdu else [])

/-- An IEEE 1901.2 PPDU as an input of the log. -/
def ieeeInput (p : Ieee1901In) (s : State) : LogEntry := ⟨BitVec.ofNat 9 p.phase.toNat, 1, s.time.ns, ieeeBytes p, none⟩

/-- An IEEE 1901.2 PPDU counts as decoded or as failed. -/
def ieeeCounted (p : Ieee1901In) (s : State) : State :=
  modPhase p.phase.toNat
    (fun x => { x with rxOk := if p.ok then x.rxOk.inc else x.rxOk, rxFailed := if p.ok then x.rxFailed else x.rxFailed.inc }) s

theorem exec_ieee1901PpduReceive_plain (hc : capturing s = true) (hn : ieeeOn s p.phase.toNat = true)
    (ha : s.plc.onAir = none) (h : faultOn s p.phase.toNat true = false) :
    exec (.ieee1901PpduReceive p) s = .next (kept s (deliverInput p.phase.toNat (ieeeInput p s) (ieeeCounted p s))) := by
  have hheard : (!ieeeOn s p.phase.toNat || s.plc.onAir.isSome) = false := by simp [hn, ha]
  change execIeee1901PpduReceive p s = _
  simp only [execIeee1901PpduReceive, whenCapturing_on hc, hheard, injectFault_plain _ h, Bool.not_false, Bool.and_true,
    Bool.false_eq_true, if_false]
  rfl

theorem exec_ieee1901PpduReceive_logged (hs : Taking s) (hn : ieeeOn s p.phase.toNat = true) (ha : s.plc.onAir = none)
    (h : faultOn s p.phase.toNat true = false) (hh : (faultLink s p.phase.toNat).held = none)
    (ht : s.cap.log.takes (ieeeInput p s) = true) :
    exec (.ieee1901PpduReceive p) s = .next (logged (ieeeInput p s) (ieeeCounted p s)) := by
  obtain ⟨hc, hr, hsettled⟩ := hs
  rw [exec_ieee1901PpduReceive_plain hc hn ha h, deliverInput_logged (s := ieeeCounted p s) hr hsettled hh ht]
  rfl

end Ieee

end Sys2Proof.Machine
end

section
/-!
SUPPORT. What the unit receives on the powerline: preambles, native PPDUs and IEEE 1901.2 PPDUs.
-/
namespace Sys2Proof.Machine

open Sys2Proof

/-- Settles O19: a preamble where the line is free or not, a native PPDU by its frame control, and an IEEE 1901.2 PPDU. -/
theorem powerlineReception : Obligations.PowerlineReception := by
  refine ⟨fun phase s hc hn => ⟨exec_preambleDetect_starts hc hn, exec_preambleDetect_unheard hc⟩,
    fun p s hc hn ha hf => exec_ppduReceive_failed hc hn ha hf, ?decoded,
    fun p s hs hn ha h hh => exec_ieee1901PpduReceive_logged hs hn ha h hh⟩
  case decoded =>
    rintro p s ⟨hc, hr, hs⟩ hn ha hf h hh
    exact ⟨_, ppduBytes p (receptionEnded s), exec_ppduReceive_decoded hc hn ha hf,
      receivePpdu_reception (s := receptionEnded s) h, ppduBody_head _ _ _ _ _ _,
      fun hrobust htype hcw => ppduBody_ends _ _ _ (ppduOk_robust hrobust htype hcw),
      receivePpdu_cap (s := receptionEnded s) hr hs h hh⟩

end Sys2Proof.Machine
end

section
/-!
SUPPORT. Local link entries: what a write leaves, and what the entry reads back.
-/
namespace Sys2Proof.Machine

open Sys2Proof

variable {src : Src} {i : Nat} {s : State}

/-! ### Writes of an entry (R611) -/

@[simp] theorem linkEntry_putLink_same (src : Src) (i : Nat) (e : LinkEntry) (s : State) :
    linkEntry (putLink src i e s) i = e := by
  unfold putLink
  split
  · assumption
  · exact tgetD_tput_same _ _ _ _

@[simp] theorem putLink_radio (src : Src) (i : Nat) (e : LinkEntry) (s : State) : (putLink src i e s).radio = s.radio := by
  unfold putLink; split <;> rfl

@[simp] theorem putLink_events (src : Src) (i : Nat) (e : LinkEntry) (s : State) :
    (putLink src i e s).work.events = s.work.events := by
  unfold putLink; split <;> rfl

/-! ### The radio part of an entry (R195) -/

/-- A change of the radio part is a write of the entry, or nothing where the entry is no valid radio entry. -/
theorem modRadio_eq (src : Src) (i : Nat) (f : RadioPart → RadioPart) (s : State) :
    modRadio src i f s = s ∨ ∃ e, modRadio src i f s = putLink src i e s := by
  simp only [modRadio]
  split
  · split
    · exact .inr ⟨_, rfl⟩
    · exact .inl rfl
  · exact .inl rfl

@[simp] theorem modRadio_radio (src : Src) (i : Nat) (f : RadioPart → RadioPart) (s : State) :
    (modRadio src i f s).radio = s.radio := by
  obtain h | ⟨e, h⟩ := modRadio_eq src i f s <;> simp [h]

@[simp] theorem modRadio_events (src : Src) (i : Nat) (f : RadioPart → RadioPart) (s : State) :
    (modRadio src i f s).work.events = s.work.events := by
  obtain h | ⟨e, h⟩ := modRadio_eq src i f s <;> simp [h]

theorem radio?_eq_some_iff {e : LinkEntry} {r : RadioPart} : e.radio? = some r ↔ e.body = .radio r ∧ e.peer.valid = true := by
  unfold LinkEntry.radio?
  cases e.body <;> simp [and_comm]

theorem modRadio_radio?_same {r : RadioPart} (f : RadioPart → RadioPart) (h : (linkEntry s i).radio? = some r) :
    (linkEntry (modRadio src i f s) i).radio? = some (f r) := by
  obtain ⟨hb, hv⟩ := radio?_eq_some_iff.mp h
  have hput : modRadio src i f s = putLink src i { linkEntry s i with body := .radio (f r) } s := by
    simp [modRadio, hb, hv]
  rw [hput, linkEntry_putLink_same]
  exact radio?_eq_some_iff.mpr ⟨rfl, hv⟩

end Sys2Proof.Machine
end

section
/-!
SUPPORT. Joins and IEEE 1901.2 frames in processing: where each of them leads.
-/
namespace Sys2Proof.Machine

open Sys2Proof

variable {s : State}

/-! ### The transmit queue (R152) -/

/-- A frame other than a MAP_UPDATE enters a queue that has room, with a number of its own. -/
theorem mem_plcEnqueue {src : Src} {f : PlcTx} (hf : f.ftype ≠ 4) (hq : s.plc.queue.length < 256) :
    { f with queueId := s.plc.nextQid, queued := s.work.log.tick } ∈ (plcEnqueue src f s).plc.queue := by
  simp only [plcEnqueue, hf, if_false, Nat.not_le.mpr hq]
  split <;> simp

/-! ### A JOIN_REQUEST (R149, R151, R157) -/

section Join
variable {r : PlcRx} {eui : BitVec 64} {cls caps : BitVec 8}

theorem exec_joinRequest_ignored (hp : Processing s) (h : r.payloadOk = false ∨ r.dest ≠ 0xFFE) :
    exec (.joinRequest r eui cls caps) s = .next s := by
  have hguard : (!r.payloadOk || r.dest != 0xFFE) = true := by
    rcases h with h | h
    · rw [h, Bool.not_false, Bool.true_or]
    · rw [bne_iff_ne.mpr h, Bool.or_true]
  change execJoinRequest r eui cls caps s = _
  rw [execJoinRequest, whenProcessing_on hp, if_pos hguard, kept_self]

variable (hp : Processing s) (hok : r.payloadOk = true) (hd : r.dest = 0xFFE)
include hp hok hd

theorem exec_joinRequest_barred (hb : joinBarred s eui = true) : exec (.joinRequest r eui cls caps) s =
    .next (kept s (joinRefuse (Src.onInput (euiEngine s eui) r.org) r eui 2 s)) := by
  change execJoinRequest r eui cls caps s = _
  simp only [execJoinRequest, whenProcessing_on hp, hok, hd, hb, bne_self_eq_false, Bool.not_true, Bool.or_self,
    Bool.false_eq_true, if_false, if_true]

theorem exec_joinRequest_learned {slot : Nat} {y : State} (hb : joinBarred s eui = false)
    (hl : learn (Src.onInput (euiEngine s eui) r.org) eui r.org.port s.work.log.tick (some cls) s = (some slot, y)) :
    exec (.joinRequest r eui cls caps) s = .next (kept s (joinSlot (Src.onInput (euiEngine s eui) r.org) r eui caps slot
      (modEndpoint (Src.onInput (euiEngine s eui) r.org) slot (fun x => { x with lastDsn := r.dsn }) y))) := by
  change execJoinRequest r eui cls caps s = _
  simp only [execJoinRequest, whenProcessing_on hp, hok, hd, hb, hl, bne_self_eq_false, Bool.not_true, Bool.or_self,
    Bool.false_eq_true, if_false]

end Join

section Granted
variable {src : Src} {r : PlcRx} {eui : BitVec 64} {caps : BitVec 8} {slot i : Nat}

theorem joinSlot_fresh (hg : grantLink s slot false s.work.log.tick = .fresh i) :
    joinSlot src r eui caps slot s = finishJoin src r eui slot i false (joinLink src r caps slot i s) := by
  rw [joinSlot, hg]

/-- A join that came unrouted is answered, and its peer sounded. -/
theorem finishJoin_unrouted (reused : Bool) (hr : r.route = none) : finishJoin src r eui slot i reused s =
    beginSounding src i (joinAccept src r eui 0 i (updateQuality src i r
      (raise src 0x1010 [i, slot, bit reused] { s with plc.joins := s.plc.joins.inc }))) := by
  rw [finishJoin, hr]

/-- The peer of an unrouted join is direct. -/
theorem linkEntry_joinLink_unrouted (hr : r.route = none) : linkEntry (joinLink src r caps slot i s) i =
    ⟨⟨BitVec.ofNat 20 slot, true, false, true, caps.getLsbD 0, false⟩, .plc PlcPart.initial⟩ := by
  rw [joinLink, linkEntry_putLink_same, hr, Option.isNone_none]

end Granted

/-! ### IEEE 1901.2 frames (R163) -/

section Frame
variable {org : Org} {phase : BitVec 2} {eui : BitVec 64} {seq : Byte} {retry secured : Bool} {frag : Option Fragment}
  {u : Upstream}

theorem exec_ieee1901MacFrame_mesh (hp : Processing s) :
    exec (.ieee1901MacFrame org phase eui seq retry secured .meshFrame frag u) s =
      .next { s with plc.meshDropped := s.plc.meshDropped.inc } := by
  change execIeee1901MacFrame org phase eui seq retry secured .meshFrame frag u s = _
  rw [execIeee1901MacFrame, whenProcessing_on hp]
  rfl

theorem exec_ieee1901MacFrame_beacon (hp : Processing s) :
    exec (.ieee1901MacFrame org phase eui seq retry secured .beaconRequest frag u) s = .next (kept s (ieeeBeacon org seq s)) := by
  change execIeee1901MacFrame org phase eui seq retry secured .beaconRequest frag u s = _
  rw [execIeee1901MacFrame, whenProcessing_on hp]

theorem ieeeBeacon_queued (hq : s.plc.queue.length < 256) : ∃ f ∈ (ieeeBeacon org seq s).plc.queue,
    f.ftype = 1 ∧ f.link = 0xFFF ∧ f.payload = beaconPayload s (s.work.log.tick.toNat + 2) :=
  ⟨_, mem_plcEnqueue (show 1 ≠ 4 by decide) hq, rfl, rfl, rfl⟩

theorem exec_ieee1901MacFrame_data (hp : Processing s) :
    exec (.ieee1901MacFrame org phase eui seq retry secured .data frag u) s =
      .next (kept s (ieeeFrame org phase eui seq retry secured .data frag u s)) := by
  change execIeee1901MacFrame org phase eui seq retry secured .data frag u s = _
  rw [execIeee1901MacFrame, whenProcessing_on hp]

variable {kind : MacKind}

/-- The last data sequence number of an EUI-64's endpoint, where it has one. -/
abbrev lastDsnOf (s : State) (eui : BitVec 64) : Option Byte := (lookup s eui).map fun k => (endpoint s k).lastDsn

theorem ieeeFrame_duplicate (hr : retry = true) (hd : lastDsnOf s eui = some seq) :
    ieeeFrame org phase eui seq retry secured kind frag u s = { s with plc.duplicates := s.plc.duplicates.inc } := by
  have hguard : (retry && lastDsnOf s eui == some seq) = true := by simp [hr, hd]
  exact if_pos hguard

theorem ieeeFrame_accepted {slot : Nat} {y : State} (hnew : ¬(retry = true ∧ lastDsnOf s eui = some seq))
    (hi : ingestFrame { u with org := org, eui := eui, dsn := seq, retry := retry, secured := secured } (lastDsnOf s eui) s
      = (some slot, y)) :
    ieeeFrame org phase eui seq retry secured kind frag u s =
      ieeeAccepted (Src.onInput (euiEngine s eui) org) phase eui seq kind frag slot y := by
  have hguard : ¬(retry && lastDsnOf s eui == some seq) = true := by
    rwa [Bool.and_eq_true, beq_iff_eq]
  simp only [ieeeFrame, hi, if_neg hguard]

/-- An accepted frame has its sequence number in its endpoint, and its fragment among the reassemblies. -/
def ieeeNoted (src : Src) (eui : BitVec 64) (seq : Byte) (frag : Option Fragment) (slot : Nat) (s : State) : State :=
  let x := modEndpoint src slot (fun e => { e with lastDsn := seq }) s
  { x with plc.frags := (takeFragment x.work.log.tick eui frag x.plc.frags).2 }

/-- A data frame notes its phase as the home of the link it has or gets, and does no more with it. -/
theorem ieeeAccepted_data {src : Src} {slot i : Nat} {w : State}
    (hl : ieeeLink src slot (ieeeNoted src eui seq frag slot s) = (some i, w)) :
    ieeeAccepted src phase eui seq .data frag slot s = modPlc src i (fun p => { p with home := phase }) w := by
  change (match ieeeLink src slot (ieeeNoted src eui seq frag slot s) with
    | (none, s) => s
    | (some i, s) => ieeeKind src .data i (modPlc src i (fun p => { p with home := phase }) s)) = _
  rw [hl]
  rfl

end Frame

end Sys2Proof.Machine
end

section
/-!
SUPPORT. Joins on the powerline, and the frames of IEEE 1901.2 peers.
-/
namespace Sys2Proof.Machine

open Sys2Proof

/-- Settles O22: a join refused or granted a fresh link, and an IEEE 1901.2 frame by its kind. -/
theorem joinsAndIeee1901 : Obligations.JoinsAndIeee1901 := by
  refine ⟨fun r eui cls caps s hp => ⟨exec_joinRequest_ignored hp, exec_joinRequest_barred hp, ?granted⟩,
    fun org phase eui seq retry secured frag u s hp =>
      ⟨exec_ieee1901MacFrame_mesh hp, fun hq => ⟨_, exec_ieee1901MacFrame_beacon hp, ieeeBeacon_queued hq⟩,
        fun hr hd => ?duplicate, fun slot i y w hnew hi hl => ?accepted⟩⟩
  case granted =>
    intro slot i y hok hd hb hl z hg hr w
    refine ⟨?_, linkEntry_joinLink_unrouted hr⟩
    rw [exec_joinRequest_learned hp hok hd hb hl, joinSlot_fresh hg, finishJoin_unrouted false hr]
    rfl
  case duplicate =>
    rw [exec_ieee1901MacFrame_data hp, ieeeFrame_duplicate hr hd]
    rfl
  case accepted =>
    rw [exec_ieee1901MacFrame_data hp, ieeeFrame_accepted hnew hi, ieeeAccepted_data hl]

end Sys2Proof.Machine
end

section
/-!
SUPPORT. Radio neighbours in processing: windows and searches that end, transmit reports, withdrawals and reassemblies.
-/
namespace Sys2Proof.Machine

open Sys2Proof

variable {s : State} {src : Src}

/-! ### Windows and searches (R198, R202) -/

/-- Frames have failed: counted and raised, and nothing else of the radio or of what is sealed is different. -/
structure OnlyFailed (s t : State) : Prop where
  cov    : t.cov = s.cov
  radio  : t.radio = { s.radio with failed := t.radio.failed }
  events : s.work.events ⊆ t.work.events

theorem OnlyFailed.radioFail {t : State} (h : OnlyFailed s t) (i : Nat) (dsn : Byte) (cause : Nat) :
    OnlyFailed s (radioFail src i dsn cause t) :=
  ⟨h.cov, congrArg (fun x : Radio => { x with failed := t.radio.failed.inc }) h.radio,
    List.Subset.trans h.events (List.subset_cons_self _ _)⟩

/-- What waits for a link leaves its mailbox and the queue behind it. -/
def mailboxEmptied (i : Nat) (s : State) : State :=
  { s with radio.mailboxes := s.radio.mailboxes.filter (·.link != i),
           radio.sleepQueue := s.radio.sleepQueue.filter (·.link != i) }

theorem failMailbox_failed (src : Src) (i : Nat) (s : State) : OnlyFailed (mailboxEmptied i s) (failMailbox src i s) :=
  foldl_inv (fun t : State => OnlyFailed (mailboxEmptied i s) t) _ (fun _ m h => h.radioFail i m.dsn 1) _ _
    ⟨rfl, rfl, fun _ h => h⟩

/-- A search has ended: its sleeper is LOST. -/
def sleeperLost (src : Src) (x : Nat × Nat × Nat) (s : State) : State :=
  raise src 0x2004 [x.1, x.2.1]
    (modRadio src x.1 (fun r => { r with lost := true, search := false }) { s with radio.searches := s.radio.searches.erase x })

theorem closeSearch_failed (src : Src) (x : Nat × Nat × Nat) (s : State) :
    OnlyFailed (mailboxEmptied x.1 (sleeperLost src x s)) (closeSearch src x s) := failMailbox_failed _ _ _

theorem closeSearch_radio (src : Src) (x : Nat × Nat × Nat) (s : State) : (closeSearch src x s).radio =
    { s.radio with
      searches := s.radio.searches.erase x, mailboxes := s.radio.mailboxes.filter (·.link != x.1),
      sleepQueue := s.radio.sleepQueue.filter (·.link != x.1), failed := (closeSearch src x s).radio.failed } := by
  have hlost : (sleeperLost src x s).radio = { s.radio with searches := s.radio.searches.erase x } := modRadio_radio _ _ _ _
  rw [(closeSearch_failed src x s).radio, mailboxEmptied, hlost]

theorem closeSearch_event (src : Src) (x : Nat × Nat × Nat) (s : State) :
    ⟨src, 0x2004, [x.1, x.2.1]⟩ ∈ (closeSearch src x s).work.events :=
  (closeSearch_failed src x s).events (List.mem_cons_self ..)

theorem closeSearch_radio? (src : Src) {x : Nat × Nat × Nat} {r : RadioPart} (h : (linkEntry s x.1).radio? = some r) :
    (linkEntry (closeSearch src x s) x.1).radio? = some { r with lost := true, search := false } := by
  rw [linkEntry, (closeSearch_failed src x s).cov]
  exact modRadio_radio?_same (s := { s with radio.searches := s.radio.searches.erase x }) _ h

section Sleeper
variable {org : Org} {link : BitVec 12} {wake : BitVec 32}

theorem exec_sleeperWindowClose_ended {w : ArmWindow} (hp : Processing s)
    (hw : s.radio.arms.find? (fun w => w.link == link.toNat && w.wake == wake.toNat && endedBy s w.closeNs) = some w) :
    exec (.sleeperWindowClose org link wake) s = .next (kept s (closeWindow (Src.frame org) w s)) := by
  change execSleeperWindowClose org link wake s = _
  rw [execSleeperWindowClose, whenProcessing_on hp, hw]

theorem exec_sleeperWindowClose_waits (hp : Processing s) (h : ∀ w ∈ s.radio.arms, endedBy s w.closeNs = false) :
    exec (.sleeperWindowClose org link wake) s = .next s := by
  have hnone : s.radio.arms.find? (fun w => w.link == link.toNat && w.wake == wake.toNat && endedBy s w.closeNs) = none :=
    List.find?_eq_none.mpr fun w hw => by simp [h w hw]
  change execSleeperWindowClose org link wake s = _
  rw [execSleeperWindowClose, whenProcessing_on hp, hnone, kept_self]

theorem exec_sleeperSearchClose_ended {x : Nat × Nat × Nat} (hp : Processing s)
    (hx : s.radio.searches.find? (fun x => x.1 == link.toNat && x.2.1 == wake.toNat && endedBy s x.2.2) = some x) :
    exec (.sleeperSearchClose org link wake) s = .next (kept s (closeSearch (Src.frame org) x s)) := by
  change execSleeperSearchClose org link wake s = _
  rw [execSleeperSearchClose, whenProcessing_on hp, hx]

theorem exec_sleeperSearchClose_waits (hp : Processing s) (h : ∀ x ∈ s.radio.searches, endedBy s x.2.2 = false) :
    exec (.sleeperSearchClose org link wake) s = .next s := by
  have hnone : s.radio.searches.find? (fun x => x.1 == link.toNat && x.2.1 == wake.toNat && endedBy s x.2.2) = none :=
    List.find?_eq_none.mpr fun x hx => by simp [h x hx]
  change execSleeperSearchClose org link wake s = _
  rw [execSleeperSearchClose, whenProcessing_on hp, hnone, kept_self]

end Sleeper

/-! ### Attempts (R187, R197) -/

section Attempt
variable {f : RadioTx}

/-- A frame leaves the transmit queue. -/
def dequeued (f : RadioTx) (s : State) : State := { s with radio.queue := s.radio.queue.erase f }

/-- A transmit report counts as an attempt. -/
def attemptCounted (s : State) : State := { s with radio.attempts := s.radio.attempts.inc }

theorem radioAttemptFailed_retries (ha : f.attempt < 4) (hq : radioQueued (dequeued f s) < 256) :
    radioAttemptFailed src f s = { dequeued f s with
      radio.queue := (dequeued f s).radio.queue ++ [requeued { f with attempt := f.attempt + 1 } s],
      radio.nextQid := s.radio.nextQid + 1 } := by
  have henqueue : radioAttemptFailed src f s = radioEnqueue src { f with attempt := f.attempt + 1 } (dequeued f s) := if_pos ha
  rw [henqueue, radioEnqueue, if_neg (Nat.not_le.mpr hq)]
  rfl

theorem radioAttemptFailed_fails (ha : 4 ≤ f.attempt) :
    (radioAttemptFailed src f s).radio = { (dequeued f s).radio with failed := s.radio.failed.inc }
    ∧ (radioAttemptFailed src f s).work.events = ⟨src, 0x2002, [f.link, f.dsn.toNat, 0]⟩ :: s.work.events := by
  simp [radioAttemptFailed, Nat.not_lt.mpr ha, radioFail, dequeued]

variable {t : RadioTxReport} (hp : Processing s) (hl : t.launched = false) (hm : t.mailbox = false)
  (hf : s.radio.queue.find? (fun f => f.queueId == t.queueId && f.phase == .onAir) = some f)
include hp hl hm hf

theorem exec_radioTransmitReport_acked (hw : t.withdrawn = false) (ha : t.acked = true) :
    exec (.radioTransmitReport t) s = .next (kept s (modRadio (Src.frame t.org) t.link.toNat (fun r => { r with fails := 0 })
      { dequeued f (attemptCounted s) with radio.delivered := s.radio.delivered.inc })) := by
  change execRadioTransmitReport t s = _
  simp only [execRadioTransmitReport, whenProcessing_on hp, hl, hm, hf, hw, ha, Bool.not_true, Bool.or_self,
    Bool.false_eq_true, if_false]
  rfl

theorem exec_radioTransmitReport_failed (h : t.withdrawn = true ∨ t.acked = false) :
    exec (.radioTransmitReport t) s = .next (kept s (radioAttemptFailed (Src.frame t.org) f (attemptCounted s))) := by
  have hguard : (t.withdrawn || !t.acked) = true := by simpa using h
  change execRadioTransmitReport t s = _
  simp only [execRadioTransmitReport, whenProcessing_on hp, hl, hm, hf, hguard, Bool.false_eq_true, if_false, if_true]
  rfl

end Attempt

/-! ### Withdrawals and reassemblies (R163, R180, R197) -/

theorem exec_radioQueueAgeWithdraw_queued {org : Org} {q : BitVec 16} {f : RadioTx} (hp : Processing s)
    (hf : s.radio.queue.find? (fun f => f.queueId == q && f.phase != .onAir) = some f) :
    exec (.radioQueueAgeWithdraw org q) s = .next (if f.queued.toNat + 256 < s.work.log.tick.toNat then
      kept s (radioAttemptFailed (Src.frame org) f s) else s) := by
  change execRadioQueueAgeWithdraw org q s = _
  simp only [execRadioQueueAgeWithdraw, whenProcessing_on hp, hf, apply_ite (kept s), kept_self]

theorem exec_radioFragTimeout_due {org : Org} {eui : BitVec 64} {f : BitVec 64 × Fragment × BitVec 48} (hp : Processing s)
    (hf : s.radio.frags.find? (fun f => f.1 == eui && decide (f.2.2.toNat + 60 * ticksPerS s ≤ s.work.log.tick.toNat)) = some f) :
    exec (.radioFragTimeout org eui) s = .next (raise (Src.frame org) 0x2008 [euiLow eui, eui.toNat / 2 ^ 32]
      { s with radio.frags := s.radio.frags.erase f, radio.fragTimeouts := s.radio.fragTimeouts.inc }) := by
  change execRadioFragTimeout org eui s = _
  rw [execRadioFragTimeout, whenProcessing_on hp, hf]
  rfl

end Sys2Proof.Machine
end

section
/-!
SUPPORT. The windows, searches, reports and reassemblies of radio neighbours.
-/
namespace Sys2Proof.Machine

open Sys2Proof

/-- Settles O26: a window or search that ended or goes on, a report by its outcome, a withdrawal, and a reassembly that is due. -/
theorem radioSleepersAndQueue : Obligations.RadioSleepersAndQueue := by
  refine ⟨fun org link wake s w hp hw => exec_sleeperWindowClose_ended hp hw,
    fun org link wake s hp hw hx => ⟨exec_sleeperWindowClose_waits hp hw, exec_sleeperSearchClose_waits hp hx⟩,
    fun org link wake s x hp hx => ⟨_, exec_sleeperSearchClose_ended hp hx, ?search⟩,
    fun t s f hp hl hm hf => ⟨exec_radioTransmitReport_acked hp hl hm hf, fun h ha hq => ?retries, fun h ha => ?fails⟩,
    fun org q s f hp hf => exec_radioQueueAgeWithdraw_queued hp hf,
    fun org eui s f hp hf => exec_radioFragTimeout_due hp hf⟩
  case search =>
    have hradio := closeSearch_radio (Src.frame org) x s
    exact ⟨congrArg Radio.searches hradio, congrArg Radio.mailboxes hradio, congrArg Radio.sleepQueue hradio,
      closeSearch_event _ x s, fun r => closeSearch_radio? _⟩
  case retries =>
    rw [exec_radioTransmitReport_failed hp hl hm hf h, radioAttemptFailed_retries (s := attemptCounted s) ha hq]
    rfl
  case fails =>
    exact ⟨_, exec_radioTransmitReport_failed hp hl hm hf h, radioAttemptFailed_fails ha⟩

end Sys2Proof.Machine
end

section
/-!
SUPPORT. Datagrams towards endpoints and children: where each one's longest match sends it.
-/
namespace Sys2Proof.Machine

open Sys2Proof

variable {s : State} {src : Src} {dest : BitVec 128} {p : Bytes}

theorem exec_datagram {org : Org} {c : Instr} (hp : Processing s)
    (hc : c ∈ [Instr.headEndDatagram org dest p, .down org dest p]) :
    exec c s = .next (kept s (routeDatagram (Src.c0 org) dest p s)) := by
  simp only [List.mem_cons, List.not_mem_nil, or_false] at hc
  rcases hc with rfl | rfl
  · change execHeadEndDatagram org dest p s = _
    rw [execHeadEndDatagram, whenProcessing_on hp]
  · change execDown org dest p s = _
    rw [execDown, whenProcessing_on hp]

/-- A datagram that no route sends on (R229). -/
def noRouteCounted (s : State) : State := { s with tstat.noRoute := s.tstat.noRoute.inc }

/-- The route that resolves an address (R235). -/
abbrev matchOf (s : State) (dest : BitVec 128) : Option Route := longestMatch (allRoutes s) (dest.toNat / 2 ^ 64)

/-! ### No route, a discarding one, and a route to a child (R229) -/

theorem routeDatagram_unmatched (h : matchOf s dest = none) : routeDatagram src dest p s = noRouteCounted s := by
  simp only [routeDatagram, h]
  rfl

section Matched
variable {r : Route} (h : matchOf s dest = some r)
include h

theorem routeDatagram_discard (ha : r.action = .discard) : routeDatagram src dest p s = noRouteCounted s := by
  simp only [routeDatagram, h, ha]
  rfl

theorem routeDatagram_toChild {a : BitVec 128} {n : Nat} (ha : r.action = .toChild a) (hn : childOfAddr s a = some n) :
    routeDatagram src dest p s = sendDown n p s := by
  simp only [routeDatagram, h, ha, hn]

theorem routeDatagram_noChild {a : BitVec 128} (ha : r.action = .toChild a) (hn : childOfAddr s a = none) :
    routeDatagram src dest p s = noRouteCounted s := by
  simp only [routeDatagram, h, ha, hn]
  rfl

/-! ### A local route (R229, R231) -/

section Known
variable {slot : Nat} (ha : r.action = .toLocal) (hl : lookup s (euiOfAddress dest) = some slot)
include ha hl

theorem routeDatagram_parityError (hpar : (endpoint s slot).parityOk = false) : routeDatagram src dest p s =
    raise src 0x300C [slot] { s with tstat.parityErrors := s.tstat.parityErrors.inc } := by
  simp only [routeDatagram, h, ha, hl, hpar, Bool.not_false, if_true]
  rfl

theorem routeDatagram_barred (hpar : (endpoint s slot).parityOk = true) (hb : (endpoint s slot).state = .barred) :
    routeDatagram src dest p s = s := by
  simp only [routeDatagram, h, ha, hl, hpar, hb, Bool.not_true, Bool.false_eq_true, if_false, if_true]

theorem routeDatagram_endpoint (hpar : (endpoint s slot).parityOk = true) (hb : (endpoint s slot).state ≠ .barred) :
    routeDatagram src dest p s = sendDatagram src slot p s := by
  simp only [routeDatagram, h, ha, hl, hpar, hb, Bool.not_true, Bool.false_eq_true, if_false]

end Known

section Unknown
variable (ha : r.action = .toLocal) (hl : lookup s (euiOfAddress dest) = none)
include ha hl

theorem routeDatagram_unknown (hx : ∀ e ∈ s.cov.tables.spills, e.2.eui ≠ euiOfAddress dest) :
    routeDatagram src dest p s = noRouteCounted s := by
  have hany : s.cov.tables.spills.any (fun e => e.2.eui == euiOfAddress dest) = false :=
    List.any_eq_false.mpr fun e he => by simpa using hx e he
  simp only [routeDatagram, h, ha, hl, hany, Bool.false_eq_true, if_false]
  rfl

theorem routeDatagram_spilled (hx : ∃ e ∈ s.cov.tables.spills, e.2.eui = euiOfAddress dest) :
    routeDatagram src dest p s = spillway src (euiOfAddress dest) p s := by
  have hany : s.cov.tables.spills.any (fun e => e.2.eui == euiOfAddress dest) = true := by simpa using hx
  simp only [routeDatagram, h, ha, hl, hany, if_true]

end Unknown
end Matched

/-! ### The Spillway (R231) -/

/-- The floods a log may send. -/
abbrev floodLimit (s : State) : Nat := cfg s 0x0303 0 6 2 64

theorem spillway_limited {x : BitVec 64} (h : floodLimit s ≤ s.tstat.floods) :
    spillway src x p s = { s with tstat.spillDropped := s.tstat.spillDropped.inc } := if_pos h

theorem sendDown_line (n : Nat) (p : Bytes) (s : State) : OnlyLine s (sendDown n p s) := ethernetOut_line _ _ _

/-- A copy to every child leaves the counters to the flood itself. -/
theorem spillway_tstat {x : BitVec 64} (h : s.tstat.floods < floodLimit s) : (spillway src x p s).tstat =
    { s.tstat with floods := s.tstat.floods + 1, spillFloods := s.tstat.spillFloods.inc } := by
  have hsent : OnlyLine s ((s.cov.tables.children.filter fun c => c.2.state != .free).foldl (fun t c => sendDown c.1 p t) s) :=
    foldl_inv (OnlyLine s) _ (fun t c ht => ht.trans (sendDown_line c.1 p t)) _ _ (OnlyLine.refl s)
  rw [spillway, if_neg (Nat.not_le.mpr h)]
  simp only [raise_tstat, congrArg State.tstat hsent]

end Sys2Proof.Machine
end

section
/-!
SUPPORT. Datagrams of a head-end port and of a DOWN message.
-/
namespace Sys2Proof.Machine

open Sys2Proof

/-- Settles O28: each datagram by the action of its longest match, and on a local route by its endpoint or the Spillway. -/
theorem datagramsAreRouted : Obligations.DatagramsAreRouted := by
  intro org dest p s hp c hc
  rw [exec_datagram hp hc]
  refine ⟨fun h => ?none, fun r h => ⟨fun ha => ?discard, fun a ha => ⟨fun hn => ?noChild, fun n hn => ?child⟩,
    fun ha => ⟨fun slot hl => ⟨fun hpar => ?parity, fun hpar hb => ?barred, fun hpar hb => ?endpoint⟩,
      fun hl hx => ?unknown, fun hl hx => ⟨fun hlim => ?limited, fun hlim => ?flood⟩⟩⟩⟩
  case none => rw [routeDatagram_unmatched h]; rfl
  case discard => rw [routeDatagram_discard h ha]; rfl
  case noChild => rw [routeDatagram_noChild h ha hn]; rfl
  case child => rw [routeDatagram_toChild h ha hn]
  case parity => rw [routeDatagram_parityError h ha hl hpar]; rfl
  case barred => rw [routeDatagram_barred h ha hl hpar hb, kept_self]
  case endpoint => rw [routeDatagram_endpoint h ha hl hpar hb]
  case unknown => rw [routeDatagram_unknown h ha hl hx]; rfl
  case limited => rw [routeDatagram_spilled h ha hl hx, spillway_limited hlim]; rfl
  case flood =>
    refine ⟨_, rfl, ?_⟩
    rw [routeDatagram_spilled h ha hl hx, kept_tstat, spillway_tstat hlim]
    exact ⟨rfl, rfl⟩

end Sys2Proof.Machine
end

section
/-!
SUPPORT. A BATCH of a child at its parent: where it comes from, what is wrong with it, and what of it is queued.
-/
namespace Sys2Proof.Machine

open Sys2Proof

variable {s v : State} {src : Src} {b : BatchIn} {n : Nat}

theorem exec_batch (hp : Processing s) : exec (.batch b) s = .next (kept s (takeBatch b s)) := by
  change execBatch b s = _
  rw [execBatch, whenProcessing_on hp]

theorem takeBatch_ignored (h : takesBatches s b.ethPort = false) : takeBatch b s = s := by
  simp only [takeBatch, h, Bool.not_false, if_true]

/-! ### The child entry (R227) -/

/-- A child that has no entry and gets none. -/
def childRefused (src : Src) (b : BatchIn) (s : State) : State :=
  raise src 0x300A [b.ethPort.toNat, b.addr.toNat % 2 ^ 32] { s with tstat.childRefused := s.tstat.childRefused.inc }

theorem batchChild_refused (h : childOfAddr s b.addr = none) (hf : cfg s 0x0303 0 0xA 1 0 = 1 ∨ freeChild s = none) :
    batchChild src b s = (none, childRefused src b s) := by
  have hfree : (if cfg s 0x0303 0 0xA 1 0 = 1 then none else freeChild s) = none := by
    rcases hf with hf | hf
    · exact if_pos hf
    · rw [hf, ite_self]
  simp only [batchChild, h, hfree]
  rfl

section Taken
variable (ht : takesBatches s b.ethPort = true)
include ht

theorem takeBatch_refused (hc : batchChild (Src.frame b.org) b s = (none, v)) : takeBatch b s = batchAck b 0 4 v := by
  simp only [takeBatch, ht, hc, Bool.not_true, Bool.false_eq_true, if_false]

variable (hc : batchChild (Src.frame b.org) b s = (some n, v))
include hc

/-! ### The version and the layout (R274 to R276) -/

theorem takeBatch_version (h1 : b.version ≠ 1) (h2 : b.version ≠ 2) :
    takeBatch b s = batchAck b n 2 (raise (Src.frame b.org) 0x4008 [n, b.version, 2] v) := by
  simp only [takeBatch, ht, hc, Bool.not_true, Bool.false_eq_true, if_false]
  exact if_pos ⟨h1, h2⟩

variable (hv : b.version = 1 ∨ b.version = 2)
include hv

theorem takeBatch_accepted : takeBatch b s =
    if batchSound b = true then batchTake (Src.frame b.org) b n (batchLedger (Src.frame b.org) b n v)
    else batchAck b n 3 { v with ingest.tribMalformed := v.ingest.tribMalformed.inc } := by
  have hknown : ¬(b.version ≠ 1 ∧ b.version ≠ 2) := fun h => hv.elim h.1 h.2
  simp only [takeBatch, ht, hc, if_neg hknown, Bool.not_true, Bool.false_eq_true, if_false]
  cases batchSound b <;> rfl

theorem takeBatch_unsound (hs : batchSound b = false) :
    takeBatch b s = batchAck b n 3 { v with ingest.tribMalformed := v.ingest.tribMalformed.inc } := by
  rw [takeBatch_accepted ht hc hv, if_neg (by simp [hs])]

theorem takeBatch_sound (hs : batchSound b = true) :
    takeBatch b s = batchTake (Src.frame b.org) b n (batchLedger (Src.frame b.org) b n v) := by
  rw [takeBatch_accepted ht hc hv, if_pos hs]

end Taken

/-! ### The entries (R253, R276 to R278) -/

/-- The entries of a batch that are new to a child's ledger record. -/
abbrev batchFresh (b : BatchIn) (n : Nat) (s : State) : List BatchEntry := batchNew b (batchHigh n s)

/-- The readings the queue holds once a batch is in it. -/
abbrev batchNeeds (b : BatchIn) (n : Nat) (s : State) : Nat :=
  s.ingest.tribQ.length + (batchFresh b n s).length + bit (b.trailer.isSome && 2 ≤ b.version)

theorem batchTake_busy (h : queueLimit 4 < batchNeeds b n s) : batchTake src b n s =
    batchAck b n 1 (raise src 0x400A [n, (batchFresh b n s).length] { s with ingest.tribBusy := s.ingest.tribBusy.inc }) :=
  if_pos h

/-- A batch that is taken is counted, and so are the entries that it repeats. -/
def batchCounted (b : BatchIn) (n : Nat) (s : State) : State :=
  { s with ingest.tribDuplicates := s.ingest.tribDuplicates.add (b.entries.length - (batchFresh b n s).length),
           ingest.batches := s.ingest.batches.inc }

/-- TRIB_GAP where the first new entry does not follow the highest SEQUENCE. -/
def gapNoted (src : Src) (n : Nat) (high : Option Nat) (fresh : List BatchEntry) (s : State) : State :=
  match high, fresh with
  | some h, e :: _ => if h + 1 < e.sequence.toNat then raise src 0x4007 [n, h + 1, e.sequence.toNat] s else s
  | _, _ => s

theorem gapNoted_gap {h : Nat} {e : BatchEntry} {rest : List BatchEntry} (hgap : h + 1 < e.sequence.toNat) :
    gapNoted src n (some h) (e :: rest) s = raise src 0x4007 [n, h + 1, e.sequence.toNat] s := if_pos hgap

theorem gapNoted_follows {high : Option Nat} {fresh : List BatchEntry}
    (h : ∀ k e rest, high = some k → fresh = e :: rest → e.sequence.toNat ≤ k + 1) : gapNoted src n high fresh s = s := by
  match high, fresh with
  | none, _ => rfl
  | some _, [] => rfl
  | some k, e :: rest => exact if_neg (Nat.not_lt.mpr (h k e rest rfl rfl))

/-- The new entries of a batch and its trailer are queued and the batch acknowledged. -/
def batchQueued (src : Src) (b : BatchIn) (n : Nat) (fresh : List BatchEntry) (s : State) : State :=
  batchAck b n 0 (batchTrailer src b n (fresh.foldl (fun s e => batchEntry src b n e s) s))

theorem batchTake_fits (h : batchNeeds b n s ≤ queueLimit 4) : batchTake src b n s =
    batchQueued src b n (batchFresh b n s) (gapNoted src n (batchHigh n s) (batchFresh b n s) (batchCounted b n s)) :=
  if_neg (Nat.not_lt.mpr h)

theorem batchTake_gap {h : Nat} {e : BatchEntry} {rest : List BatchEntry} (hn : batchNeeds b n s ≤ queueLimit 4)
    (hh : batchHigh n s = some h) (hf : batchFresh b n s = e :: rest) (hgap : h + 1 < e.sequence.toNat) : batchTake src b n s =
    batchQueued src b n (batchFresh b n s) (raise src 0x4007 [n, h + 1, e.sequence.toNat] (batchCounted b n s)) := by
  have hnoted : gapNoted src n (batchHigh n s) (batchFresh b n s) (batchCounted b n s) =
      raise src 0x4007 [n, h + 1, e.sequence.toNat] (batchCounted b n s) := by
    rw [hh, hf, gapNoted_gap hgap]
  rw [batchTake_fits hn, hnoted]

theorem batchTake_follows (hn : batchNeeds b n s ≤ queueLimit 4)
    (hf : ∀ h e rest, batchHigh n s = some h → batchFresh b n s = e :: rest → e.sequence.toNat ≤ h + 1) :
    batchTake src b n s = batchQueued src b n (batchFresh b n s) (batchCounted b n s) := by
  rw [batchTake_fits hn, gapNoted_follows hf]

end Sys2Proof.Machine
end

section
/-!
SUPPORT. A child and its parent's ACK: the window, the next batch, the resend and the BUSY pause.
-/
namespace Sys2Proof.Machine

open Sys2Proof

variable {s : State}

/-! ### An ACK of the parent (R279, R280) -/

section Ack
variable {version status : Nat} {mark : BitVec 32} {ledger : BitVec 64}

theorem exec_tributaryAck_refused (hc : capturing s = true) : exec (.tributaryAck 0 status mark ledger) s =
    .next (noteEvent 0x4008 [0, 0, 2] { s with ingest.trib := { s.ingest.trib with stopped := true, version := 0 } }) := by
  change execTributaryAck 0 status mark ledger s = _
  rw [execTributaryAck, whenCapturing_on hc]
  rfl

/-- The window of a child whose version its parent accepts, with the pause of a BUSY answer. -/
def ackHeld (version status : Nat) (s : State) : TribChild :=
  { s.ingest.trib with
    version := min version 2, stopped := false,
    pauseTo := if status = 1 then some (s.cap.tick + 16) else s.ingest.trib.pauseTo }

/-- The watermark of an ACK, where it is one of the unit's own ledger. -/
def ownMark (mark : BitVec 32) (ledger : BitVec 64) (s : State) : Option (BitVec 32) :=
  if mark = 0xFFFFFFFF ∨ some ledger ≠ s.store.ledgerId then none else some mark

/-- The window `t` after an ACK with watermark `mark`: sending goes on behind it. -/
def ackAdvanced (mark : BitVec 32) (ledger : BitVec 64) (s : State) (t : TribChild) : TribChild :=
  let own := ownMark mark ledger s
  if own = none ∨ t.watermark = own then t
  else { t with watermark := own, lastTick := s.cap.tick, sent := if t.sent.toNat ≤ mark.toNat then mark + 1 else t.sent }

theorem exec_tributaryAck_accepted (hc : capturing s = true) (hv : 1 ≤ version) :
    exec (.tributaryAck version status mark ledger) s =
      .next { s with ingest.trib := ackAdvanced mark ledger s (ackHeld version status s) } := by
  change execTributaryAck version status mark ledger s = _
  rw [execTributaryAck, whenCapturing_on hc]
  simp only [if_neg (Nat.not_lt.mpr hv)]
  by_cases hbusy : status = 1
  · simp only [if_pos hbusy, ackHeld]
    rfl
  · simp only [if_neg hbusy, ackHeld]
    rfl

variable {t : TribChild}

theorem ackAdvanced_stays (h : mark = 0xFFFFFFFF ∨ some ledger ≠ s.store.ledgerId ∨ t.watermark = some mark) :
    ackAdvanced mark ledger s t = t := by
  refine if_pos ?_
  by_cases hother : mark = 0xFFFFFFFF ∨ some ledger ≠ s.store.ledgerId
  · exact .inl (if_pos hother)
  · exact .inr (((or_assoc.mpr h).resolve_left hother).trans (if_neg hother).symm)

theorem ackAdvanced_moves (hm : mark ≠ 0xFFFFFFFF) (hl : some ledger = s.store.ledgerId) (hw : t.watermark ≠ some mark) :
    ackAdvanced mark ledger s t = { t with
      watermark := some mark, lastTick := s.cap.tick, sent := if t.sent.toNat ≤ mark.toNat then mark + 1 else t.sent } := by
  have hown : ownMark mark ledger s = some mark := if_neg fun h => h.elim hm fun h => h hl
  rw [ackAdvanced, hown]
  exact if_neg (not_or.mpr ⟨Option.some_ne_none mark, hw⟩)

end Ack

/-! ### Sending, the resend and the pause (R275, R279) -/

theorem exec_tributarySend (h : sendsUp s = true) (hp : s.ingest.trib.pauseTo = none) :
    exec .tributarySend s = .next (kept s (sendBatch s)) := by
  change execTributarySend s = _
  simp only [execTributarySend, h, hp, Option.isNone_none, Bool.and_self, if_true, done_eq]

theorem exec_tributarySend_idle (h : s.ingest.trib.pauseTo.isSome = true ∨ nextBatch s = []) :
    exec .tributarySend s = .next s := by
  have hidle : (if sendsUp s && s.ingest.trib.pauseTo.isNone then sendBatch s else s) = s := by
    rcases h with h | h
    · rw [Option.isNone_eq_false_iff.mpr h, Bool.and_false, if_neg Bool.false_ne_true]
    · rw [sendBatch, h]
      exact ite_self s
  change execTributarySend s = _
  rw [execTributarySend, hidle]
  rfl

/-- The window once a batch of `k` records has left. -/
def batchSent (k : Nat) (s : State) : State :=
  { s with ingest.trib := { s.ingest.trib with sent := BitVec.ofNat 32 (batchStart s + k),
                                               batchSeq := s.ingest.trib.batchSeq + 1 } }

theorem sendBatch_plain {r : StoredRecord} {rs : List StoredRecord} (hb : nextBatch s = r :: rs)
    (hf : faultOn s (0x10 + headPort s) false = false) :
    sendBatch s = emit (.tributary none (batchBytes s r (r :: rs))) (batchSent (rs.length + 1) s) := by
  have hplain : faultOn (batchSent (rs.length + 1) s) (0x10 + headPort s) false = false :=
    (faultOn_link s _ _ _ rfl rfl).trans hf
  rw [sendBatch, hb]
  exact ethernetOut_plain _ _ _ hplain

/-- The SEQUENCE behind the watermark. -/
def resendFrom (s : State) : BitVec 32 := match s.ingest.trib.watermark with | some w => w + 1 | none => 0

theorem exec_tributaryResend (hc : capturing s = true) : exec .tributaryResend s = .next (
    if (resendFrom s).toNat < s.ingest.trib.sent.toNat ∧ s.ingest.trib.lastTick.toNat + 256 ≤ s.cap.tick.toNat then
      { s with ingest.trib := { s.ingest.trib with sent := resendFrom s, lastTick := s.cap.tick } }
    else s) := by
  change execTributaryResend s = _
  rw [execTributaryResend, whenCapturing_on hc]
  rw [apply_ite (kept s)]
  rfl

theorem exec_tributaryBusyPauseEnd {t : BitVec 48} (hc : capturing s = true) (ht : s.ingest.trib.pauseTo = some t) :
    exec .tributaryBusyPauseEnd s =
      .next (if t.toNat ≤ s.cap.tick.toNat then { s with ingest.trib.pauseTo := none } else s) := by
  change execTributaryBusyPauseEnd s = _
  simp only [execTributaryBusyPauseEnd, whenCapturing_on hc, ht]
  split <;> rfl

end Sys2Proof.Machine
end

section
/-!
SUPPORT. What a Tributary parent does with a batch, and what a child does with the answer.
-/
namespace Sys2Proof.Machine

open Sys2Proof

/-- Settles O30: a batch by the first test it fails, an ACK by its version and watermark, and the child's sending, resend and
pause. -/
theorem tributaryExchange : Obligations.TributaryExchange := by
  refine ⟨fun b s hp => ?batch, fun status mark ledger s hc => ?ack, fun s => ?send, fun s hc => ?timers⟩
  case batch =>
    rw [exec_batch hp]
    refine ⟨fun ht => ?ignored, fun ht hn hf => ?refused, fun n v ht hc => ⟨fun h1 h2 => ?version, fun hv =>
      ⟨fun hs => ?unsound, fun hs => ⟨fun hq => ?busy, fun hq => ⟨fun h e rest hh hf hgap => ?gap, fun hf => ?follows⟩⟩⟩⟩⟩
    case ignored => rw [takeBatch_ignored ht, kept_self]
    case refused => rw [takeBatch_refused ht (batchChild_refused hn hf)]; rfl
    case version => rw [takeBatch_version ht hc h1 h2]
    case unsound => rw [takeBatch_unsound ht hc hv hs]
    case busy => rw [takeBatch_sound ht hc hv hs, batchTake_busy hq]
    case gap => rw [takeBatch_sound ht hc hv hs, batchTake_gap hq hh hf hgap]; rfl
    case follows => rw [takeBatch_sound ht hc hv hs, batchTake_follows hq hf]; rfl
  case ack =>
    refine ⟨⟨_, exec_tributaryAck_refused hc, rfl, rfl⟩, fun v hv => ?_⟩
    rw [exec_tributaryAck_accepted hc hv]
    refine ⟨fun h => ?held, fun hm hl hw => ?advances⟩
    case held => rw [ackAdvanced_stays (t := ackHeld v status s) h]; rfl
    case advances => rw [ackAdvanced_moves (t := ackHeld v status s) hm hl hw]; rfl
  case send =>
    refine ⟨fun h => exec_tributarySend_idle (.inl h), fun r rs hu hp hb hf => ?_, fun h => exec_tributarySend_idle (.inr h)⟩
    rw [exec_tributarySend hu hp, sendBatch_plain hb hf]
    rfl
  case timers =>
    rw [exec_tributaryResend hc]
    refine ⟨fun hlow hage => ?resends, fun hage => ?young, fun t ht => ⟨fun hend => ?ends, fun hend => ?paused⟩⟩
    case resends => rw [if_pos ⟨hlow, hage⟩]; rfl
    case young => rw [if_neg fun h => absurd h.2 (Nat.not_le.mpr hage)]
    case ends => rw [exec_tributaryBusyPauseEnd hc ht, if_pos hend]
    case paused => rw [exec_tributaryBusyPauseEnd hc ht, if_neg (Nat.not_le.mpr hend)]

end Sys2Proof.Machine
end

section
/-!
SUPPORT. The tree of R272 and the climb of R273: a leaf's siblings lead a verifier to the root.
-/
namespace Sys2Proof.Machine

open Sys2Proof

/-! ### One level of the tree (R272) -/

/-- The hash of two neighbours stands at half their place. -/
theorem treeLevel_getElem?_of_pair {l : List Bytes} {k : Nat} {a b : Bytes} (ha : l[2 * k]? = some a)
    (hb : l[2 * k + 1]? = some b) : (treeLevel l)[k]? = some (sha256 ([1] ++ a ++ b)) := by
  induction k generalizing l with
  | zero =>
    match l with
    | [] => simp at ha
    | [_] => simp at hb
    | _ :: _ :: _ => cases ha; cases hb; rfl
  | succ k ih =>
    match l with
    | [] => simp at ha
    | [_] => simp at hb
    | _ :: _ :: t => exact ih (l := t) ha hb

theorem treeLevel_length_of_even {n : Nat} {l : List Bytes} (hl : l.length = 2 * n) : (treeLevel l).length = n := by
  induction n generalizing l with
  | zero => rw [List.length_eq_zero_iff.mp hl]; rfl
  | succ n ih =>
    match l with
    | [] => exact absurd hl (by simp)
    | [_] => exact absurd hl (by rw [List.length_singleton]; omega)
    | _ :: _ :: t =>
      have ht : t.length = 2 * n := by
        simp only [List.length_cons] at hl
        omega
      exact congrArg (· + 1) (ih ht)

/-- What the verifier hashes at one level is the node that stands over the leaf. -/
theorem treeLevel_getElem?_parent {n i : Nat} {l : List Bytes} {h : Bytes} (hl : l.length = 2 * n) (hi : l[i]? = some h) :
    let c := l.getD (if i % 2 = 1 then i - 1 else i + 1) (zeros 32)
    (treeLevel l)[i / 2]? = some (sha256 (if i % 2 = 1 then [1] ++ c ++ h else [1] ++ h ++ c)) := by
  obtain ⟨hlt, -⟩ := List.getElem?_eq_some_iff.mp hi
  have sibling (j : Nat) (hj : j < l.length) : l[j]? = some (l.getD j (zeros 32)) := by
    rw [List.getD_eq_getElem?_getD, List.getElem?_eq_getElem hj, Option.getD_some]
  intro c
  obtain ⟨k, rfl | rfl⟩ : ∃ k, i = 2 * k ∨ i = 2 * k + 1 := ⟨i / 2, by omega⟩
  · have hc : c = l.getD (2 * k + 1) (zeros 32) := by simp [c]
    simp only [Nat.mul_mod_right, Nat.zero_ne_one, if_false, Nat.mul_div_cancel_left k Nat.two_pos, hc]
    exact treeLevel_getElem?_of_pair hi (sibling _ (by omega))
  · have hodd : (2 * k + 1) % 2 = 1 := by omega
    have hhalf : (2 * k + 1) / 2 = k := by omega
    have hc : c = l.getD (2 * k) (zeros 32) := by simp [c]
    simp only [hodd, hhalf, if_true, hc]
    exact treeLevel_getElem?_of_pair (sibling _ (by omega)) hi

/-! ### From a leaf to the root (R273) -/

theorem length_siblings (d : Nat) (l : List Bytes) (i : Nat) : (siblings d l i).length = d := by
  induction d generalizing l i with
  | zero => rfl
  | succ d ih => exact congrArg (· + 1) (ih _ _)

/-- A full tree of `d` levels: each level of the climb ends one level up. -/
theorem climb_siblings {d i : Nat} {l : List Bytes} {h : Bytes} (hl : l.length = 2 ^ d) (hi : l[i]? = some h) :
    climb (siblings d l i) i h = (treeUp d l).headD (zeros 32) := by
  induction d generalizing l i h with
  | zero =>
    obtain ⟨a, rfl⟩ := List.length_eq_one_iff.mp hl
    obtain ⟨_, rfl⟩ : i = 0 ∧ a = h := by simpa [List.getElem?_singleton] using hi
    rfl
  | succ d ih =>
    have hl2 : l.length = 2 * 2 ^ d := hl.trans Nat.pow_succ'
    exact ih (treeLevel_length_of_even hl2) (treeLevel_getElem?_parent hl2 hi)

/-! ### The padded leaves (R272) -/

theorem le_two_pow_depthOf (n : Nat) : n ≤ 2 ^ depthOf n := by
  unfold depthOf
  split
  · simpa
  · have := Nat.lt_log2_self (n := n - 1)
    omega

theorem two_pow_depthOf_lt {n : Nat} (hn : 0 < n) : 2 ^ depthOf n < 2 * n := by
  unfold depthOf
  split
  · omega
  · have := Nat.log2_self_le (n := n - 1) (by omega)
    omega

theorem length_paddedLeaves (l : List Bytes) : (paddedLeaves l).length = 2 ^ depthOf l.length := by
  simp only [paddedLeaves, List.length_append, List.length_replicate]
  exact Nat.add_sub_cancel' (le_two_pow_depthOf _)

theorem paddedLeaves_getElem? {l : List Bytes} {i : Nat} {h : Bytes} (hi : l[i]? = some h) : (paddedLeaves l)[i]? = some h := by
  rw [paddedLeaves, List.getElem?_append_left (List.getElem?_eq_some_iff.mp hi).1, hi]

theorem climb_to_merkleRoot {leaves : List Bytes} {i : Nat} {h : Bytes} (hi : leaves[i]? = some h) :
    climb (siblings (depthOf leaves.length) (paddedLeaves leaves) i) i h = merkleRoot leaves := by
  have hne : leaves.isEmpty = false := by cases leaves <;> simp at hi ⊢
  rw [merkleRoot, hne]
  exact climb_siblings (length_paddedLeaves leaves) (paddedLeaves_getElem? hi)

/-! ### The leaves of a proof (R271 to R273) -/

/-- The leaf hashes of a seal: its records, then its event records (R271). -/
abbrev sealLeaves (recs : List Record) (x : SealSlot) : List Bytes := recs.map Record.leaf ++ x.events.map eventLeaf

/-- The siblings of a leaf of a seal. -/
abbrev leafSiblings (recs : List Record) (x : SealSlot) (i : Nat) : List Bytes :=
  siblings (depthOf (sealLeaves recs x).length) (paddedLeaves (sealLeaves recs x)) i

/-- A record's leaf is hashed with its payload's digest where one is present. -/
theorem leaf_eq_sha256 (r : Record) : r.leaf = sha256 ([0] ++ r.bytes ++ (r.payload.map sha256).getD []) := by
  unfold Record.leaf
  cases r.payload <;> simp

variable {s : State} {x : SealSlot} {recs : List Record} {i : Nat} {leaf : Bytes × Option Bytes × List Bytes}

theorem eq_of_proofLeaf_record (hr : sealRecords s x = some recs) (h : proofLeaf s 0 x i = some leaf) :
    ∃ r, recs[i]? = some r ∧ leaf = (r.bytes, r.payload.map sha256, leafSiblings recs x i) := by
  have h' : (recs[i]?.map fun r => (r.bytes, r.payload.map sha256, leafSiblings recs x i)) = some leaf := by
    rwa [proofLeaf, if_neg (by decide), hr] at h
  obtain ⟨r, hri, rfl⟩ := Option.map_eq_some_iff.mp h'
  exact ⟨r, hri, rfl⟩

theorem eq_of_proofLeaf_event (hr : sealRecords s x = some recs) (h : proofLeaf s 1 x i = some leaf) :
    recs.length ≤ i ∧ ∃ e, x.events[i - recs.length]? = some e ∧ leaf = (e, none, leafSiblings recs x i) := by
  have h' : (if i < recs.length then none else (x.events[i - recs.length]?).bind fun e =>
      if eventHeld s e then some (e, none, leafSiblings recs x i) else none) = some leaf := by
    rwa [proofLeaf, if_neg (by decide), hr] at h
  split at h'
  · cases h'
  · obtain ⟨e, he, hl⟩ := Option.bind_eq_some_iff.mp h'
    refine ⟨Nat.le_of_not_lt ‹_›, e, he, ?_⟩
    split at hl <;> cases hl
    rfl

theorem sealLeaves_record {r : Record} (hi : recs[i]? = some r) : (sealLeaves recs x)[i]? = some r.leaf := by
  rw [sealLeaves, List.getElem?_append_left (by simpa using (List.getElem?_eq_some_iff.mp hi).1), List.getElem?_map, hi]
  rfl

theorem sealLeaves_event {e : Bytes} (hle : recs.length ≤ i) (he : x.events[i - recs.length]? = some e) :
    (sealLeaves recs x)[i]? = some (eventLeaf e) := by
  rw [sealLeaves, List.getElem?_append_right (by simpa using hle), List.length_map, List.getElem?_map, he]
  rfl

end Sys2Proof.Machine
end

section
/-!
SUPPORT. What the proofs of PROOF_READ show.
-/
namespace Sys2Proof.Machine

open Sys2Proof

/-- Settles O56: the node over a leaf is what the verifier hashes there, so the climb ends at the root; and the leaf that
PROOF_READ takes stands at its position among the leaves of its seal. -/
theorem inclusionProofsVerify : Obligations.InclusionProofsVerify := by
  refine ⟨fun leaves i h hi => ?tree, fun s x recs i leaf hr => ⟨fun h => ?record, fun h => ?event⟩⟩
  case tree =>
    have hpos : 0 < leaves.length := Nat.zero_lt_of_lt (List.getElem?_eq_some_iff.mp hi).1
    exact ⟨climb_to_merkleRoot hi, length_siblings _ _ _, le_two_pow_depthOf _, two_pow_depthOf_lt hpos⟩
  case record =>
    obtain ⟨r, hi, rfl⟩ := eq_of_proofLeaf_record hr h
    rw [← leaf_eq_sha256]
    exact climb_to_merkleRoot (sealLeaves_record hi)
  case event =>
    obtain ⟨hle, e, he, rfl⟩ := eq_of_proofLeaf_event hr h
    exact climb_to_merkleRoot (sealLeaves_event hle he)

end Sys2Proof.Machine
end

section
/-!
SUPPORT. SEAL_READ, RECORD_READ, PAYLOAD_READ and PROOF_READ: what each one's reply holds, operand by operand.
-/
namespace Sys2Proof.Machine

open Sys2Proof

variable {m : Msg} {x : Session} {s : State} {b : Bytes} {ans : Option (BitVec 48)}

/-! ### SEAL_READ (R469) -/

theorem exec_sealRead_passes (h : Passes 0x10 0 m x s) :
    exec (.sealRead m) s = .next (kept s (answered 0x10 m (sealReadReply s.sys.answer m.body s) (tookUp m s))) :=
  exec_passes rfl rfl h rfl

/-- A COUNT that SEAL_READ refuses. -/
abbrev BadSealCount (b : Bytes) : Prop := ofLe (slice b 6 1) = 0 ∨ 64 < ofLe (slice b 6 1)

/-- The seals that a SEAL_READ asks for. -/
abbrev sealsAsked (ans : Option (BitVec 48)) (b : Bytes) (s : State) : List Seal :=
  ((sealsUpTo s ans).map (·.body)).filter fun y =>
    decide (ofLe (slice b 0 6) ≤ y.tick.toNat) && (!testBit (ofLe (slice b 7 1)) 0 || y.sig.isSome)

theorem sealReadReply_malformed (h : BadSealCount b) : sealReadReply ans b s = .malformed := if_pos h

theorem sealReadReply_notFound (h : ¬BadSealCount b) (hf : sealsAsked ans b s = []) : sealReadReply ans b s = .notFound := by
  refine (if_neg h).trans (if_pos ?_)
  change (List.take _ (sealsAsked ans b s)).isEmpty = true
  rw [hf, List.take_nil]
  rfl

theorem sealReadReply_ok (h : ¬BadSealCount b) (hf : sealsAsked ans b s ≠ []) :
    sealReadReply ans b s = .ok (le 2 (min (ofLe (slice b 6 1)) (sealsAsked ans b s).length) ++ zeros 2
      ++ ((sealsAsked ans b s).take (ofLe (slice b 6 1))).flatMap Seal.wide) := by
  have hpos : ofLe (slice b 6 1) ≠ 0 := fun h0 => h (.inl h0)
  refine (if_neg h).trans ((if_neg ?_).trans ?_)
  · rw [List.isEmpty_iff, List.take_eq_nil_iff]
    exact not_or_intro hpos hf
  · rw [List.length_take]

/-! ### RECORD_READ (R470) -/

/-- The entries read the store alone, which taking a message up leaves as it is. -/
theorem recordEntries_tookUp (m : Msg) (s : State) (n seq : Nat) :
    recordEntries (tookUp m s) ans n seq = recordEntries s ans n seq := by
  induction n generalizing seq with
  | zero => rfl
  | succ n ih =>
    simp only [recordEntries, ih]
    rfl

theorem exec_recordRead_passes (h : Passes 0x11 0 m x s) :
    exec (.recordRead m) s = .next (kept s (answered 0x11 m (recordReadReply s.sys.answer m.body s) (tookUp m s))) := by
  refine exec_passes rfl rfl h (congrArg (fun r => (some r, tookUp m s)) ?_)
  simp only [recordReadReply, recordEntries_tookUp]
  rfl

/-- A COUNT that RECORD_READ refuses. -/
abbrev BadRecordCount (b : Bytes) : Prop := ofLe (slice b 4 2) = 0 ∨ 320 < ofLe (slice b 4 2)

/-- The entries that a RECORD_READ asks for. -/
abbrev entriesAsked (ans : Option (BitVec 48)) (b : Bytes) (s : State) : List Bytes :=
  recordEntries s ans (ofLe (slice b 4 2)) (ofLe (slice b 0 4))

theorem recordReadReply_malformed (h : BadRecordCount b) : recordReadReply ans b s = .malformed := if_pos h

theorem recordReadReply_notFound (h : ¬BadRecordCount b) (he : entriesAsked ans b s = []) :
    recordReadReply ans b s = .notFound :=
  (if_neg h).trans (if_pos (List.isEmpty_iff.mpr he))

theorem recordReadReply_ok (h : ¬BadRecordCount b) (he : entriesAsked ans b s ≠ []) :
    recordReadReply ans b s = .ok (le 4 (ofLe (slice b 0 4)) ++ le 2 (entriesAsked ans b s).length ++ zeros 2
      ++ (entriesAsked ans b s).flatten) :=
  (if_neg h).trans (if_neg fun hempty => he (List.isEmpty_iff.mp hempty))

theorem recordEntries_missing {n seq : Nat} (h : recordAt s ans seq = none) : recordEntries s ans n seq = [] := by
  cases n with
  | zero => rfl
  | succ n => rw [recordEntries, h]

theorem recordEntries_held {n seq : Nat} {r : StoredRecord} {y : SealSlot} (h : recordAt s ans seq = some (r, y)) :
    recordEntries s ans (n + 1) seq = recordEntry r y :: recordEntries s ans n ((seq + 1) % 2 ^ 32) := by
  rw [recordEntries, h]

theorem length_recordEntries_le (n seq : Nat) : (recordEntries s ans n seq).length ≤ n := by
  induction n generalizing seq with
  | zero => exact Nat.le_refl 0
  | succ n ih =>
    cases h : recordAt s ans seq with
    | none => rw [recordEntries_missing h]; exact Nat.zero_le _
    | some p => rw [recordEntries_held h]; exact Nat.succ_le_succ (ih _)

/-- One SEQUENCE further on and then `i` more is `i + 1` further on. -/
theorem sequence_step (seq i : Nat) : ((seq + 1) % 2 ^ 32 + i) % 2 ^ 32 = (seq + (i + 1)) % 2 ^ 32 := by omega

/-- Fewer entries than asked for: the SEQUENCE behind the last one is no held leaf. -/
theorem recordEntries_stop {n seq : Nat} (hs : seq < 2 ^ 32) (hl : (recordEntries s ans n seq).length < n) :
    recordAt s ans ((seq + (recordEntries s ans n seq).length) % 2 ^ 32) = none := by
  induction n generalizing seq with
  | zero => exact absurd hl (Nat.not_lt_zero _)
  | succ n ih =>
    cases h : recordAt s ans seq with
    | none => rw [recordEntries_missing h, List.length_nil, Nat.add_zero, Nat.mod_eq_of_lt hs, h]
    | some p =>
      rw [recordEntries_held h, List.length_cons] at hl ⊢
      rw [← sequence_step]
      exact ih (Nat.mod_lt _ (by decide)) (Nat.lt_of_succ_lt_succ hl)

/-- Each entry is that of the held leaf at its SEQUENCE. -/
theorem recordEntries_getElem? {n seq i : Nat} (hs : seq < 2 ^ 32) (hi : i < (recordEntries s ans n seq).length) :
    ∃ r y, recordAt s ans ((seq + i) % 2 ^ 32) = some (r, y) ∧ (recordEntries s ans n seq)[i]? = some (recordEntry r y) := by
  induction n generalizing seq i with
  | zero => exact absurd hi (Nat.not_lt_zero _)
  | succ n ih =>
    cases h : recordAt s ans seq with
    | none =>
      rw [recordEntries_missing h] at hi
      exact absurd hi (Nat.not_lt_zero _)
    | some p =>
      rw [recordEntries_held h] at hi ⊢
      cases i with
      | zero => exact ⟨p.1, p.2, by rw [Nat.add_zero, Nat.mod_eq_of_lt hs, h], rfl⟩
      | succ i =>
        rw [← sequence_step]
        exact ih (Nat.mod_lt _ (by decide)) (Nat.lt_of_succ_lt_succ hi)

theorem ofLe_lt (b : Bytes) : ofLe b < 256 ^ b.length := by
  induction b with
  | nil => decide
  | cons a b ih =>
    have ha : a.toNat < 256 := a.isLt
    rw [ofLe, List.length_cons, Nat.pow_succ]
    omega

/-- A field of four bytes is a SEQUENCE. -/
theorem ofLe_slice_four_lt (b : Bytes) (off : Nat) : ofLe (slice b off 4) < 2 ^ 32 :=
  calc ofLe (slice b off 4) < 256 ^ (slice b off 4).length := ofLe_lt _
    _ ≤ 256 ^ 4 := Nat.pow_le_pow_right (by decide) (List.length_take_le 4 _)
    _ = 2 ^ 32 := by decide

/-! ### PAYLOAD_READ (R471) -/

theorem exec_payloadRead_passes (h : Passes 0x12 0 m x s) :
    exec (.payloadRead m) s = .next (kept s (answered 0x12 m (payloadReadReply s.sys.answer m.body s) (tookUp m s))) :=
  exec_passes rfl rfl h rfl

theorem payloadReadReply_ok {r : StoredRecord} {y : SealSlot} {p : Bytes} (h : recordAt s ans (ofLe (slice b 0 4)) = some (r, y))
    (hp : r.record.payload = some p) :
    payloadReadReply ans b s = .ok (le 4 (ofLe (slice b 0 4)) ++ le 2 p.length ++ zeros 2 ++ p) := by
  simp only [payloadReadReply, h, hp]

theorem payloadReadReply_notFound
    (h : ∀ r y, recordAt s ans (ofLe (slice b 0 4)) = some (r, y) → r.record.payload = none) :
    payloadReadReply ans b s = .notFound := by
  cases hr : recordAt s ans (ofLe (slice b 0 4)) with
  | none => simp only [payloadReadReply, hr]
  | some p => simp only [payloadReadReply, hr, h p.1 p.2 hr]

/-! ### PROOF_READ (R472, R273) -/

theorem exec_proofRead_passes (h : Passes 0x13 0 m x s) :
    exec (.proofRead m) s = .next (kept s (answered 0x13 m (proofReadReply s.sys.answer m.body s) (tookUp m s))) :=
  exec_passes rfl rfl h rfl

/-- The KIND of a PROOF_READ: a record, an event record, or a seal. -/
abbrev proofKind (b : Bytes) : Nat := ofLe (slice b 0 1)

/-- The tick of the seal that a proof is to end at; 0 for the first signed one. -/
abbrev proofTarget (b : Bytes) : Nat := ofLe (slice b 0x14 6)

/-- The place in the proof that the reply starts at. -/
abbrev proofOffset (b : Bytes) : Nat := ofLe (slice b 0x1C 4)

/-- The leaf's seal. -/
abbrev proofSeal (ans : Option (BitVec 48)) (b : Bytes) (s : State) : Option SealSlot :=
  if proofKind b = 0 then (recordAt s ans (ofLe (slice b 4 4))).map (·.2) else
    (sealsUpTo s ans).find? fun x => x.body.tick.toNat == ofLe (slice b 8 6)

/-- The leaf's position in its seal. -/
abbrev proofIndex (b : Bytes) (y : SealSlot) : Nat :=
  if proofKind b = 0 then leafIndex (ofLe (slice b 4 4)) y else if proofKind b = 1 then ofLe (slice b 0x10 4) else 0

/-- The seals from the leaf's on. -/
abbrev proofLater (ans : Option (BitVec 48)) (s : State) (y : SealSlot) : List Seal :=
  ((sealsUpTo s ans).map (·.body)).filter fun z => decide (y.body.tick.toNat ≤ z.tick.toNat)

/-- The signed seal that the proof ends at. -/
abbrev proofGoal (ans : Option (BitVec 48)) (b : Bytes) (s : State) (y : SealSlot) : Option Seal :=
  if proofTarget b = 0 then (proofLater ans s y).find? (·.sig.isSome)
  else (proofLater ans s y).find? fun z => z.tick.toNat == proofTarget b && z.sig.isSome

/-- The seal bodies between the leaf's seal and the proof's end. -/
abbrev proofBodies (ans : Option (BitVec 48)) (s : State) (y : SealSlot) (g : Seal) : List Seal :=
  (proofLater ans s y).filter fun z => decide (z.tick.toNat ≤ g.tick.toNat)

/-- The proof (R273). -/
abbrev proofOf (ans : Option (BitVec 48)) (b : Bytes) (s : State) (y : SealSlot) (g : Seal) (sg : Nat × Nat)
    (leaf : Bytes × Option Bytes × List Bytes) : Bytes :=
  proofBytes (proofKind b) leaf.2.2.length (proofIndex b y) leaf (proofBodies ans s y g) sg

/-- The part of a proof that one reply carries, behind its header (R472). -/
abbrev proofPart (b : Bytes) (y : SealSlot) (g : Seal) (proof : Bytes) : Bytes :=
  le 4 proof.length ++ le 4 (proofOffset b) ++ le 6 y.body.tick.toNat ++ zeros 2 ++ le 6 g.tick.toNat ++ zeros 2
    ++ slice proof (proofOffset b) 16000

theorem proofReadReply_reserved (h : 2 < proofKind b) : proofReadReply ans b s = .malformed := if_pos (.inl h)

/-- Neither the KIND of a request nor its target, against the tick of the leaf's seal, is refused. -/
theorem not_reserved_or_early {tick : Nat} (hk : proofKind b ≤ 2) (ht : proofTarget b = 0 ∨ tick ≤ proofTarget b) :
    ¬(2 < proofKind b ∨ (proofTarget b != 0 && decide (proofTarget b < tick)) = true) := by
  simp only [Bool.and_eq_true, bne_iff_ne, decide_eq_true_eq]
  omega

theorem proofReadReply_noSeal (hk : proofKind b ≤ 2) (hn : proofSeal ans b s = none)
    (ht : proofKind b = 0 ∨ proofTarget b = 0 ∨ ofLe (slice b 8 6) ≤ proofTarget b) :
    proofReadReply ans b s = .notFound := by
  have hgood : ¬(2 < proofKind b
      ∨ (proofKind b != 0 && proofTarget b != 0 && decide (proofTarget b < ofLe (slice b 8 6))) = true) := by
    simp only [Bool.and_eq_true, bne_iff_ne, decide_eq_true_eq]
    omega
  unfold proofReadReply
  simp only [hn]
  exact if_neg hgood

section Seal
variable {y : SealSlot} (hy : proofSeal ans b s = some y)
include hy

theorem proofReadReply_early (h0 : proofTarget b ≠ 0) (ht : proofTarget b < y.body.tick.toNat) :
    proofReadReply ans b s = .malformed := by
  unfold proofReadReply
  simp only [hy]
  exact if_pos (.inr (by simpa using ⟨h0, ht⟩))

variable (hk : proofKind b ≤ 2) (ht : proofTarget b = 0 ∨ y.body.tick.toNat ≤ proofTarget b)
include hk ht

theorem proofReadReply_noProof (hn : proofGoal ans b s y = none ∨ proofLeaf s (proofKind b) y (proofIndex b y) = none) :
    proofReadReply ans b s = .notFound := by
  unfold proofReadReply
  simp only [hy]
  refine (if_neg (not_reserved_or_early hk ht)).trans ?_
  rcases hn with hg | hl
  · simp only [hg, Option.bind_none]
  · simp only [hl]
    split
    case h_1 hsome => cases hsome
    case h_2 => rfl

variable {g : Seal} {sg : Nat × Nat} {leaf : Bytes × Option Bytes × List Bytes} (hg : proofGoal ans b s y = some g)
  (hsg : g.sig = some sg) (hl : proofLeaf s (proofKind b) y (proofIndex b y) = some leaf)
include hg hsg hl

theorem proofReadReply_proof : proofReadReply ans b s =
    if chained (proofBodies ans s y g) = false then .notFound
    else if 8192 < (proofBodies ans s y g).length then .conflict 1 0
    else if (proofOf ans b s y g sg leaf).length ≤ proofOffset b then .malformed
    else .ok (proofPart b y g (proofOf ans b s y g sg leaf)) := by
  unfold proofReadReply
  simp only [hy]
  refine (if_neg (not_reserved_or_early hk ht)).trans ?_
  simp only [hg, hsg, hl, Option.bind_some, Option.map_some, Bool.not_eq_true']

end Seal

end Sys2Proof.Machine
end

section
/-!
SUPPORT. What the four store queries answer.
-/
namespace Sys2Proof.Machine

open Sys2Proof

/-- Settles O47: each query that passes the checks of R465 is answered by its own reply, case by case of its operands and of
what the store holds. -/
theorem storeQueriesAreAnswered : Obligations.StoreQueriesAreAnswered := by
  refine ⟨?seals, ?records, ?payload, ?proof⟩
  case seals =>
    intro m x s h count found
    rw [exec_sealRead_passes h]
    have good (h1 : 1 ≤ count) (h64 : count ≤ 64) : ¬BadSealCount m.body := by
      change ¬(count = 0 ∨ 64 < count)
      omega
    refine ⟨fun hbad => ?_, fun h1 h64 hf => ?_, fun h1 h64 hf => ?_⟩
    · rw [sealReadReply_malformed hbad]; rfl
    · rw [sealReadReply_notFound (good h1 h64) hf]; rfl
    · rw [sealReadReply_ok (good h1 h64) hf]; rfl
  case records =>
    intro m x s h first count entries
    rw [exec_recordRead_passes h]
    have good (h1 : 1 ≤ count) (h320 : count ≤ 320) : ¬BadRecordCount m.body := by
      change ¬(count = 0 ∨ 320 < count)
      omega
    have hfirst : first < 2 ^ 32 := ofLe_slice_four_lt m.body 0
    refine ⟨fun hbad => ?_, fun h1 h320 he => ?_, fun h1 h320 he => ?_, length_recordEntries_le _ _, recordEntries_stop hfirst,
      fun i hi => recordEntries_getElem? hfirst hi⟩
    · rw [recordReadReply_malformed hbad]; rfl
    · rw [recordReadReply_notFound (good h1 h320) he]; rfl
    · rw [recordReadReply_ok (good h1 h320) he]; rfl
  case payload =>
    intro m x s h seq
    rw [exec_payloadRead_passes h]
    refine ⟨fun r y p hr hp => ?_, fun hnone => ?_⟩
    · rw [payloadReadReply_ok hr hp]; rfl
    · rw [payloadReadReply_notFound hnone]; rfl
  case proof =>
    intro m x s h kind target off found
    rw [exec_proofRead_passes h]
    refine ⟨fun hk => ?reserved, fun y hy h0 hlt => ?early, fun hk hn ht => ?noSeal, fun y hk hy ht => ?sealed⟩
    case reserved => rw [proofReadReply_reserved hk]; rfl
    case early => rw [proofReadReply_early hy h0 hlt]; rfl
    case noSeal => rw [proofReadReply_noSeal hk hn ht]; rfl
    case sealed =>
      intro i later goal
      refine ⟨fun hn => by rw [proofReadReply_noProof hy hk ht hn]; rfl, fun g sg leaf hg hsg hl => ?_⟩
      intro bodies proof
      rw [proofReadReply_proof hy hk ht hg hsg hl]
      refine ⟨fun hc => ?_, fun hc hlong => ?_, fun hc hshort hoff => ?_, fun hc hshort hoff => ?_⟩
      · rw [if_pos hc]; rfl
      · rw [if_neg (by rw [hc]; decide), if_pos hlong]; rfl
      · rw [if_neg (by rw [hc]; decide), if_neg (Nat.not_lt.mpr hshort), if_pos hoff]; rfl
      · rw [if_neg (by rw [hc]; decide), if_neg (Nat.not_lt.mpr hshort), if_neg (Nat.not_le.mpr hoff)]; rfl

end Sys2Proof.Machine
end

section
/-!
SUPPORT. Application data, collection reads, the serial poller and fetches: what each command does, case by case.
-/
namespace Sys2Proof.Machine

open Sys2Proof

variable {s : State}

/-! ### Application data (R247, R248, R253, R267) -/

/-- The application data of a frame are marked as taken. -/
def dataTaken (u : Upstream) (s : State) : State :=
  { s with work.handled := (0x2000 + u.org.port, u.org.pos) :: s.work.handled }

theorem takeOnce_fresh {u : Upstream} (h : s.work.handled.contains (0x2000 + u.org.port, u.org.pos) = false) :
    takeOnce u s = some (dataTaken u s) :=
  if_neg (by rw [h]; decide)

section Accepted
variable {u : Upstream} {v : State} {slot : Nat} {time : Option DateTime} {vs : List DlmsValue} {apdu : Bytes} {p : Plan}
  (hp : Processing s) (hi : ingestFrame u none s = (some slot, v))
  (hh : v.work.handled.contains (0x2000 + u.org.port, u.org.pos) = false)
include hp hi hh

theorem exec_dataNotification_push (hpl : planOf (dataTaken u v) slot = some p) (hf : testBit p.flags 1 = true) :
    exec (.dataNotification u time vs apdu) s = .next (kept s (takeValues slot p u time vs apdu (dataTaken u v))) := by
  change execDataNotification u time vs apdu s = _
  simp only [execDataNotification, whenProcessing_on hp, hi, takeOnce_fresh hh, hpl, hf, if_true]

theorem exec_dataNotification_noPlan (hpl : ∀ p, planOf (dataTaken u v) slot = some p → testBit p.flags 1 = false) :
    exec (.dataNotification u time vs apdu) s =
      .next (kept s { dataTaken u v with ingest.noPlan := (dataTaken u v).ingest.noPlan.inc }) := by
  change execDataNotification u time vs apdu s = _
  simp only [execDataNotification, whenProcessing_on hp, hi, takeOnce_fresh hh]
  cases hq : planOf (dataTaken u v) slot with
  | none => rfl
  | some p => simp only [hpl p hq, Bool.false_eq_true, if_false]

theorem exec_getResponse_refused : exec (.getResponse u true vs apdu) s =
    .next (kept s { readAnswered slot (dataTaken u v) with ingest.assocRefused := (dataTaken u v).ingest.assocRefused.inc }) := by
  change execGetResponse u true vs apdu s = _
  simp only [execGetResponse, whenProcessing_on hp, hi, takeOnce_fresh hh, if_true]
  rfl

theorem exec_getResponse_values (hpl : planOf (dataTaken u v) slot = some p) :
    exec (.getResponse u false vs apdu) s =
      .next (kept s (takeValues slot p u none vs apdu (readAnswered slot (dataTaken u v)))) := by
  have hpl' : planOf (readAnswered slot (dataTaken u v)) slot = some p := hpl
  change execGetResponse u false vs apdu s = _
  simp only [execGetResponse, whenProcessing_on hp, hi, takeOnce_fresh hh, hpl', Bool.false_eq_true, if_false]

end Accepted

/-! ### Collection reads (R257, R267) -/

/-- The time of the log, in nanoseconds. -/
abbrev logNs (s : State) : Nat := (logUtc s.work.log).toNat * 1000000000 + s.work.log.start.ns.toNat

/-- A read of the slot falls due, or one that was deferred waits. -/
abbrev readCalled (slot : Nat) (p : Plan) (s : State) : Bool :=
  decide (0 < p.period) && readDue slot p.period (logNs s - nominalTickNs s) (logNs s) || s.ingest.deferred.contains slot

/-- The slots whose reads stay deferred once this one's is taken up. -/
abbrev stillDeferred (slot : Nat) (s : State) : List Nat := s.ingest.deferred.filter (· != slot)

/-- The read is outstanding from this log on. -/
def readOutstanding (slot : Nat) (s : State) : State :=
  { s with ingest.deferred := stillDeferred slot s,
           ingest.reads := s.ingest.reads.filter (fun r => r.1 != slot) ++ [(slot, s.work.log.tick)] }

section Read
variable {slot : BitVec 20} {p : Plan} (hp : Processing s) (hpl : planOf s slot.toNat = some p)
include hp hpl

theorem exec_collectionReadDue_uncalled
    (h : readCalled slot.toNat p s = false ∨ (endpoint s slot.toNat).state = .barred) :
    exec (.collectionReadDue slot) s = .next s := by
  have hguard : (!readCalled slot.toNat p s
      || !((endpoint s slot.toNat).state == .active || (endpoint s slot.toNat).state == .silent)) = true := by
    rcases h with h | h
    · rw [h]; rfl
    · rw [h]; exact Bool.or_true _
  change execCollectionReadDue slot s = _
  simp only [execCollectionReadDue, whenProcessing_on hp, hpl]
  rw [if_pos hguard, kept_self]

variable (hc : readCalled slot.toNat p s = true)
  (he : (endpoint s slot.toNat).state = .active ∨ (endpoint s slot.toNat).state = .silent)
include hc he

/-- A read that is called for a slot that answers is deferred, has nothing to ask for, or is sent. -/
theorem exec_collectionReadDue_called :
    let b := bearerOf (endpoint s slot.toNat).port.toNat
    let ds := readDescriptors s.cov.sys.records p
    exec (.collectionReadDue slot) s = .next (kept s (
      if queueLimit b * 3 < (s.ingest.queue b).length * 4 then
        { s with ingest.deferred := stillDeferred slot.toNat s ++ [slot.toNat] }
      else if ds.isEmpty || b == 4 || b == 0 then { s with ingest.deferred := stillDeferred slot.toNat s }
      else sendApdu (Src.sweep (recordEngine slot.toNat)) slot.toNat p.security (readRequest ds)
        (readOutstanding slot.toNat s))) := by
  have hguard : ¬(!readCalled slot.toNat p s
      || !((endpoint s slot.toNat).state == .active || (endpoint s slot.toNat).state == .silent)) = true := by
    rw [hc]
    rcases he with he | he <;> rw [he] <;> decide
  intro b ds
  change execCollectionReadDue slot s = _
  simp only [execCollectionReadDue, whenProcessing_on hp, hpl]
  rw [if_neg hguard]
  rfl

end Read

theorem exec_collectionReadTimeout_outstanding {slot : BitVec 20} {r : Nat × BitVec 48} (hp : Processing s)
    (hr : s.ingest.reads.find? (fun r => r.1 == slot.toNat) = some r) :
    exec (.collectionReadTimeout slot) s = .next (if r.2.toNat + 256 ≤ s.work.log.tick.toNat then
      { readAnswered slot.toNat s with ingest.readFailed := s.ingest.readFailed.inc } else s) := by
  change execCollectionReadTimeout slot s = _
  simp only [execCollectionReadTimeout, whenProcessing_on hp, hr, apply_ite (kept s)]
  rfl

/-! ### The serial poller (R249) -/

section Serial
variable {p : SerialPoll} {rest : List SerialPoll} (hc : capturing s = true) (hf : faultOn s 6 false = false)
  (hq : s.ingest.serialA = p :: rest)
include hc hf hq

theorem exec_serialReplyTimeout_repeats (h : p.repeats < 2) : exec (.serialReplyTimeout false) s = .next { s with
    ingest.serialA := { p with repeats := p.repeats + 1 } :: rest, out := s.out ++ [.serial false p.request] } := by
  change execSerialReplyTimeout false s = _
  simp only [execSerialReplyTimeout, whenCapturing_on hc, hq, h, Bool.false_eq_true, if_false, if_true,
    serialOut_plain false _ s hf]
  rfl

/-- The first request's read has failed, and it has left the queue. -/
def pollFailed (p : SerialPoll) (rest : List SerialPoll) (s : State) : State :=
  { s with ingest.serialA := rest, ingest.readFailed := s.ingest.readFailed.inc,
           ingest.reads := s.ingest.reads.filter (fun r => r.1 != p.slot) }

theorem exec_serialReplyTimeout_fails (h : 2 ≤ p.repeats) : exec (.serialReplyTimeout false) s = .next
    { pollFailed p rest s with out := s.out ++ (rest.take 1).map fun n => .serial false n.request } := by
  have hplain : faultOn (pollFailed p rest s) 6 false = false := (faultOn_link s _ _ _ rfl rfl).trans hf
  change execSerialReplyTimeout false s = _
  simp only [execSerialReplyTimeout, whenCapturing_on hc, hq, Nat.not_lt.mpr h, Bool.false_eq_true, if_false]
  cases rest with
  | nil =>
    simp only [List.take_nil, List.map_nil, List.append_nil]
    rfl
  | cons n rest =>
    change done s (serialOut false n.request (pollFailed p (n :: rest) s)) = _
    rw [serialOut_plain false _ _ hplain]
    rfl

end Serial

/-! ### Fetches (R255, R339) -/

/-- The fetch of a pair has completed. -/
def pairFetched (pair : Nat) (s : State) : State :=
  { s with ingest.fetches := s.ingest.fetches.filter (· != pair), ingest.fetched := s.ingest.fetched ++ [pair] }

/-- A grain that cannot be read is counted, and every history of its slot is absent from then on. -/
def historiesLost (slot : Nat) (s : State) : State :=
  { s with store.uncorrectable := s.store.uncorrectable.inc,
           cov.ledger.histories := s.cov.ledger.histories.filter fun h => h.1 / 4096 != slot }

section Fetch
variable {slot : BitVec 20} {code : BitVec 12} (hr : running s = true)
include hr

theorem exec_historyFetch_unasked {ok : Bool} (h : s.ingest.fetches.contains (pairOf slot.toNat code.toNat) = false) :
    exec (.historyFetch slot code ok) s = .next s := by
  change execHistoryFetch slot code ok s = _
  simp only [execHistoryFetch, whenRunning_on hr, h, Bool.not_false, if_true, kept_self]

variable (h : s.ingest.fetches.contains (pairOf slot.toNat code.toNat) = true)
include h

theorem exec_historyFetch_readable :
    exec (.historyFetch slot code true) s = .next (pairFetched (pairOf slot.toNat code.toNat) s) := by
  change execHistoryFetch slot code true s = _
  simp only [execHistoryFetch, whenRunning_on hr, h, Bool.not_true, Bool.false_eq_true, if_false, if_true]
  rfl

theorem exec_historyFetch_unreadable :
    let lga := 0x10000 + slot.toNat
    exec (.historyFetch slot code false) s = .next (kept s (raiseU 0x6005 [tgetD s.store.map lga 0xFFFFFFFF, 2, lga]
      (historiesLost slot.toNat (pairFetched (pairOf slot.toNat code.toNat) s)))) := by
  intro lga
  change execHistoryFetch slot code false s = _
  simp only [execHistoryFetch, whenRunning_on hr, h, Bool.not_true, Bool.false_eq_true, if_false]
  rfl

end Fetch

end Sys2Proof.Machine
end

section
/-!
SUPPORT. What notifications, responses, reads, polls and fetches do.
-/
namespace Sys2Proof.Machine

open Sys2Proof

/-- Settles O29: application data by their plan, a read by its bearer's queue and its age, a serial request by its repeats, and
a fetch by its grain. -/
theorem apdusAndReads : Obligations.ApdusAndReads := by
  refine ⟨fun u time vs apdu s v slot hp hi hh => ?data, fun slot s p hp hpl => ?due,
    fun slot s r hp hr => exec_collectionReadTimeout_outstanding hp hr,
    fun s p rest hc hf hq => ⟨exec_serialReplyTimeout_repeats hc hf hq, exec_serialReplyTimeout_fails hc hf hq⟩,
    fun slot code s hr => ?fetch⟩
  case data =>
    intro w
    exact ⟨fun p hpl hf => exec_dataNotification_push hp hi hh hpl hf, fun hpl => exec_dataNotification_noPlan hp hi hh hpl,
      exec_getResponse_refused hp hi hh, fun p hpl => exec_getResponse_values hp hi hh hpl⟩
  case due =>
    intro e q limit now due others
    refine ⟨fun hc he => ⟨fun hq => ?deferred, fun hq hds hb => ?sent⟩,
      fun hc => exec_collectionReadDue_uncalled hp hpl (.inl hc), fun he => exec_collectionReadDue_uncalled hp hpl (.inr he)⟩
    case deferred =>
      rw [exec_collectionReadDue_called hp hpl hc he, if_pos hq]
      rfl
    case sent =>
      have hbearer : bearerOf e.port.toNat ≠ 4 ∧ bearerOf e.port.toNat ≠ 0 := by
        simp only [List.mem_cons, List.not_mem_nil, or_false] at hb
        omega
      have hsends : ¬((readDescriptors s.cov.sys.records p).isEmpty || bearerOf e.port.toNat == 4
          || bearerOf e.port.toNat == 0) = true := by
        simp [hds, hbearer.1, hbearer.2]
      rw [exec_collectionReadDue_called hp hpl hc he, if_neg (Nat.not_lt.mpr hq), if_neg hsends]
      rfl
  case fetch =>
    intro pair t
    refine ⟨fun h => ⟨exec_historyFetch_readable hr h, ?unreadable⟩, fun h ok => exec_historyFetch_unasked hr h⟩
    exact ⟨_, exec_historyFetch_unreadable hr h, raiseU_ingest _ _ _, raiseU_store _ _ _, by rw [kept_cov, raiseU_cov]; rfl⟩

end Sys2Proof.Machine
end

section
/-!
SUPPORT. The evaluation of a balance period: what it writes, how its tests come out, and the events it raises.
-/
namespace Sys2Proof.Machine

open Sys2Proof

variable {s : State}

/-! ### A list of events -/

section Raises
variable {α : Type} (src : Src) (code : Nat) (ps : α → List Nat) (l : List α)

theorem foldl_raise_cov (s : State) : (l.foldl (fun s x => raise src code (ps x) s) s).cov = s.cov := by
  induction l generalizing s with
  | nil => rfl
  | cons x l ih => exact ih _

/-- The latest event stands first. -/
theorem foldl_raise_events (s : State) : (l.foldl (fun s x => raise src code (ps x) s) s).work.events =
    (l.map fun x => ⟨src, code, ps x⟩).reverse ++ s.work.events := by
  induction l generalizing s with
  | nil => rfl
  | cons x l ih =>
    rw [List.foldl_cons, ih, raise_events, List.map_cons, List.reverse_cons, List.append_assoc]
    rfl

end Raises

/-! ### The result and the period of a feeder (R307) -/

section Written
variable (f : Nat) (b : Balance) (src : Src) (pos : Nat) (s : State)

@[simp] theorem putBalance_tables : (putBalance f b s).cov.tables = s.cov.tables := by unfold putBalance; split <;> rfl
@[simp] theorem putBalance_ledger : (putBalance f b s).cov.ledger = s.cov.ledger := by unfold putBalance; split <;> rfl
@[simp] theorem putBalance_covKeys : (putBalance f b s).cov.keys = s.cov.keys := by unfold putBalance; split <;> rfl
@[simp] theorem putBalance_energy : (putBalance f b s).cov.metro.energy = s.cov.metro.energy := by
  unfold putBalance; split <;> rfl
@[simp] theorem putBalance_periods : (putBalance f b s).cov.metro.periods = s.cov.metro.periods := by
  unfold putBalance; split <;> rfl
@[simp] theorem putBalance_events : (putBalance f b s).work.events = s.work.events := by unfold putBalance; split <;> rfl

/-- A result that is written is read back, also where it was there already. -/
@[simp] theorem tgetD_putBalance_same : tgetD (putBalance f b s).cov.metro.balances f Balance.blank = b := by
  unfold putBalance
  split
  case isTrue h => exact h
  case isFalse => exact tgetD_tput_same _ f b _

variable (p : Option Period)

@[simp] theorem putPeriod_tables : (putPeriod src f pos p s).cov.tables = s.cov.tables := by
  cases p <;> (unfold putPeriod; simp only []; split <;> rfl)
@[simp] theorem putPeriod_ledger : (putPeriod src f pos p s).cov.ledger = s.cov.ledger := by
  cases p <;> (unfold putPeriod; simp only []; split <;> rfl)
@[simp] theorem putPeriod_covKeys : (putPeriod src f pos p s).cov.keys = s.cov.keys := by
  cases p <;> (unfold putPeriod; simp only []; split <;> rfl)
@[simp] theorem putPeriod_energy : (putPeriod src f pos p s).cov.metro.energy = s.cov.metro.energy := by
  cases p <;> (unfold putPeriod; simp only []; split <;> rfl)
@[simp] theorem putPeriod_balances : (putPeriod src f pos p s).cov.metro.balances = s.cov.metro.balances := by
  cases p <;> (unfold putPeriod; simp only []; split <;> rfl)
@[simp] theorem putPeriod_events : (putPeriod src f pos p s).work.events = s.work.events := by
  cases p <;> (unfold putPeriod; simp only []; split <;> rfl)

theorem putPeriod_none_periods {h : Period} (hh : tget s.cov.metro.periods (f * 256 + pos) = some h) :
    (putPeriod src f pos none s).cov.metro.periods = tdel s.cov.metro.periods (f * 256 + pos) := by
  unfold putPeriod
  rw [if_neg (by rw [hh]; exact Option.some_ne_none h)]
  rfl

end Written

/-! ### The tests of a result (R305) -/

/-- The meters or the time cover too little of the period. -/
abbrev CoverLow (c : FeederCfg) (b : Balance) : Prop := b.covMeters < c.minCov ∨ b.covTime < c.minCov

/-- The residual is above the feeder's share of the energy. -/
abbrev OverShare (c : FeederCfg) (b : Balance) : Prop := (c.threshPm : Int) * b.feederMwh.natAbs < 1000 * b.residual.natAbs

/-- More energy has left the feeder than its meters and its losses account for. -/
abbrev FindsLoss (c : FeederCfg) (b : Balance) : Prop := OverShare c b ∧ 1000 * (c.threshWh : Int) < b.residual

/-- The meters and the losses account for more energy than has left the feeder. -/
abbrev FindsOver (c : FeederCfg) (b : Balance) : Prop := OverShare c b ∧ b.residual < -(1000 * (c.threshWh : Int))

section Tests
variable {f : Nat} {c : FeederCfg} {p : Period}

theorem balanceOf_flags : (balanceOf s f c p).flags = BitVec.ofNat 16 (1
    + 2 * bit (!decide (CoverLow c (balanceOf s f c p)) && decide (FindsLoss c (balanceOf s f c p)))
    + 4 * bit (!decide (CoverLow c (balanceOf s f c p)) && decide (FindsOver c (balanceOf s f c p)))
    + 8 * bit (decide (CoverLow c (balanceOf s f c p)))) := by
  simp only [Bool.decide_and, Bool.decide_or, ← Bool.and_assoc]
  rfl

theorem not_findsOver_of_findsLoss {b : Balance} (h : FindsLoss c b) : ¬FindsOver c b := by
  intro ho
  have hloss := h.2
  have hover := ho.2
  omega

theorem balanceOf_flags_incomplete (h : CoverLow c (balanceOf s f c p)) : (balanceOf s f c p).flags = 9 := by
  rw [balanceOf_flags, decide_eq_true h]
  rfl

variable (hc : ¬CoverLow c (balanceOf s f c p))
include hc

theorem balanceOf_flags_loss (h : FindsLoss c (balanceOf s f c p)) : (balanceOf s f c p).flags = 3 := by
  rw [balanceOf_flags, decide_eq_false hc, decide_eq_true h, decide_eq_false (not_findsOver_of_findsLoss h)]
  rfl

theorem balanceOf_flags_over (h : FindsOver c (balanceOf s f c p)) : (balanceOf s f c p).flags = 5 := by
  rw [balanceOf_flags, decide_eq_false hc, decide_eq_true h, decide_eq_false fun hl => not_findsOver_of_findsLoss hl h]
  rfl

theorem balanceOf_flags_even (hl : ¬FindsLoss c (balanceOf s f c p)) (ho : ¬FindsOver c (balanceOf s f c p)) :
    (balanceOf s f c p).flags = 1 := by
  rw [balanceOf_flags, decide_eq_false hc, decide_eq_false hl, decide_eq_false ho]
  rfl

end Tests

/-! ### The evaluation (R304, R305) -/

/-- The result of feeder `f` for its period that ends at `e`. -/
def resultAt (s : State) (f e : Nat) : Balance :=
  balanceOf s f (feeder s f) ((heldPeriod s f (feeder s f).period e).getD (Period.fresh e))

/-- The result stands and its period is no longer held open (R307). -/
def resultWritten (f e : Nat) (s : State) : State :=
  putPeriod metroSrc f (e / (feeder s f).period % 8) none (putBalance f (resultAt s f e) s)

/-- FEEDER_BALANCE is raised. -/
def balanceRaised (f e : Nat) (b : Balance) (s : State) : State :=
  raise metroSrc 0x5010 [f + 256 * b.flags.toNat, e, whParam b.residual, whParam b.feederMwh] s

/-- The event of the test is raised, and behind a loss one for each suspect. -/
def testRaised (f e threshWh : Nat) (b : Balance) (s : State) : State :=
  if b.flags.getLsbD 3 then raise metroSrc 0x5014 [f, e, b.covMeters, b.covTime] s
  else if b.flags.getLsbD 1 then
    b.suspects.foldl (fun s x => raise metroSrc 0x5012 [f + 256 * x.2, x.1, e] s)
      (raise metroSrc 0x5011 [f + 256 * b.suspects.length, e, whParam b.residual, threshWh] s)
  else if b.flags.getLsbD 2 then raise metroSrc 0x5013 [f, e, whParam b.residual, whParam b.feederMwh] s
  else s

section TestRaised
variable {f e threshWh : Nat} {b : Balance}

theorem testRaised_cov (s : State) : (testRaised f e threshWh b s).cov = s.cov := by
  simp only [testRaised, apply_ite State.cov, foldl_raise_cov, raise_cov, ite_self]

theorem testRaised_events_incomplete (h : b.flags = 9) : (testRaised f e threshWh b s).work.events =
    ⟨metroSrc, 0x5014, [f, e, b.covMeters, b.covTime]⟩ :: s.work.events := by
  unfold testRaised
  rw [h]
  rfl

theorem testRaised_events_loss (h : b.flags = 3) : (testRaised f e threshWh b s).work.events =
    (b.suspects.map fun x => ⟨metroSrc, 0x5012, [f + 256 * x.2, x.1, e]⟩).reverse
      ++ ⟨metroSrc, 0x5011, [f + 256 * b.suspects.length, e, whParam b.residual, threshWh]⟩ :: s.work.events := by
  unfold testRaised
  rw [h]
  exact foldl_raise_events _ _ _ _ _

theorem testRaised_events_over (h : b.flags = 5) : (testRaised f e threshWh b s).work.events =
    ⟨metroSrc, 0x5013, [f, e, whParam b.residual, whParam b.feederMwh]⟩ :: s.work.events := by
  unfold testRaised
  rw [h]
  rfl

theorem testRaised_events_even (h : b.flags = 1) : (testRaised f e threshWh b s).work.events = s.work.events := by
  unfold testRaised
  rw [h]
  rfl

end TestRaised

theorem evaluate_eq (f e : Nat) (s : State) : evaluate f e s = testRaised f e (feeder s f).threshWh (resultAt s f e)
    (balanceRaised f e (resultAt s f e) (resultWritten f e s)) := rfl

/-- The events leave the covered state as the writes made it. -/
theorem evaluate_cov (f e : Nat) (s : State) : (evaluate f e s).cov = (resultWritten f e s).cov := by
  rw [evaluate_eq, testRaised_cov, balanceRaised, raise_cov]

theorem balanceRaised_events (f e : Nat) (b : Balance) (s : State) : (balanceRaised f e b (resultWritten f e s)).work.events =
    ⟨metroSrc, 0x5010, [f + 256 * b.flags.toNat, e, whParam b.residual, whParam b.feederMwh]⟩ :: s.work.events := by
  rw [balanceRaised, raise_events, resultWritten, putPeriod_events, putBalance_events]

section Due
variable {f : Nat} (hp : Processing s)
include hp

theorem exec_balanceEvaluation_none (h : dueEnds (meterOnce s) f = []) :
    exec (.balanceEvaluation f) s = .next (kept s (meterOnce s)) := by
  change execBalanceEvaluation f s = _
  simp only [execBalanceEvaluation, whenProcessing_on hp, h]

theorem exec_balanceEvaluation_due {e : Nat} {rest : List Nat} (h : dueEnds (meterOnce s) f = e :: rest) :
    exec (.balanceEvaluation f) s = .next (kept s (evaluate f e (meterOnce s))) := by
  change execBalanceEvaluation f s = _
  simp only [execBalanceEvaluation, whenProcessing_on hp, h]

end Due

end Sys2Proof.Machine
end

section
/-!
SUPPORT. What the evaluation of a balance period does.
-/
namespace Sys2Proof.Machine

open Sys2Proof

/-- Settles O36: the earliest due period is evaluated over the state that the meter records have entered, and the flags of
its result decide the events. -/
theorem balancesAreEvaluated : Obligations.BalancesAreEvaluated := by
  intro f s hp m
  refine ⟨exec_balanceEvaluation_none hp, fun e rest he => ?_⟩
  intro c p fe me loss res
  refine ⟨kept s (evaluate f e m), resultAt m f e, exec_balanceEvaluation_due hp he, ?result,
    ⟨rfl, rfl, rfl, rfl, rfl, rfl, rfl, rfl⟩, ?tests, fun h hh => ?cleared, ?tables, ?ledger, ?keys, ?energy⟩
  case tests =>
    rw [kept_work, evaluate_eq]
    refine ⟨fun hbad => ?incomplete, fun hgood hshare hres => ?loss, fun hgood hshare hres => ?exceeded,
      fun hgood hsmall => ?even⟩
    case incomplete =>
      have hf : (resultAt m f e).flags = 9 := balanceOf_flags_incomplete hbad
      exact ⟨hf, by rw [testRaised_events_incomplete hf, balanceRaised_events]; rfl⟩
    case loss =>
      have hf : (resultAt m f e).flags = 3 := balanceOf_flags_loss hgood ⟨hshare, hres⟩
      exact ⟨hf, by rw [testRaised_events_loss hf, balanceRaised_events]; rfl⟩
    case exceeded =>
      have hf : (resultAt m f e).flags = 5 := balanceOf_flags_over hgood ⟨hshare, hres⟩
      exact ⟨hf, by rw [testRaised_events_over hf, balanceRaised_events]; rfl⟩
    case even =>
      have hloss : ¬FindsLoss c (resultAt m f e) := fun ⟨hshare, hres⟩ =>
        hsmall.elim (Int.not_le.mpr hshare) fun h => Int.not_le.mpr hres h.1
      have hover : ¬FindsOver c (resultAt m f e) := fun ⟨hshare, hres⟩ =>
        hsmall.elim (Int.not_le.mpr hshare) fun h => Int.not_le.mpr hres h.2
      have hf : (resultAt m f e).flags = 1 := balanceOf_flags_even hgood hloss hover
      exact ⟨hf, by rw [testRaised_events_even hf, balanceRaised_events]; rfl⟩
  all_goals rw [kept_cov, evaluate_cov, resultWritten]
  case result => rw [putPeriod_balances, tgetD_putBalance_same]
  case cleared =>
    have held : tget (putBalance f (resultAt m f e) m).cov.metro.periods (f * 256 + e / c.period % 8) = some h := by
      rw [putBalance_periods]
      exact hh
    rw [putPeriod_none_periods _ _ _ _ held, putBalance_periods]
  case tables => rw [putPeriod_tables, putBalance_tables]
  case ledger => rw [putPeriod_ledger, putBalance_ledger]
  case keys => rw [putPeriod_covKeys, putBalance_covKeys]
  case energy => rw [putPeriod_energy, putBalance_energy]

end Sys2Proof.Machine
end

section
/-!
SUPPORT. What every maintenance command of the store leaves alone.
-/
namespace Sys2Proof.Machine

open Sys2Proof

variable {s t u : State} {st : Store} {f : State → State}

/-- The store, the recorder, the seals and snapshots that wait for durability and the vault's mirror may differ; of the store
every seal and record is the same. -/
structure KeepsHeld (s t : State) : Prop where
  frame   : t = { s with store := t.store, recorder := t.recorder, seals := t.seals, snaps := t.snaps, keys.mirrorB := t.keys.mirrorB }
  stored  : t.store.seals = s.store.seals
  records : t.store.records = s.store.records

/-- In addition the same seal is durable, and what waits for one still waits. -/
structure KeepsDurable (s t : State) : Prop extends KeepsHeld s t where
  durable : t.store.durable = s.store.durable
  seals   : t.seals = s.seals
  snaps   : t.snaps = s.snaps

theorem KeepsHeld.trans (h : KeepsHeld s t) (k : KeepsHeld t u) : KeepsHeld s u where
  frame := by
    conv =>
      lhs
      rw [k.frame, h.frame]
  stored := k.stored.trans h.stored
  records := k.records.trans h.records

theorem KeepsDurable.trans (h : KeepsDurable s t) (k : KeepsDurable t u) : KeepsDurable s u where
  toKeepsHeld := h.toKeepsHeld.trans k.toKeepsHeld
  durable := k.durable.trans h.durable
  seals := k.seals.trans h.seals
  snaps := k.snaps.trans h.snaps

theorem KeepsDurable.refl (s : State) : KeepsDurable s s := ⟨⟨rfl, rfl, rfl⟩, rfl, rfl, rfl⟩

/-- A store that holds the same takes the place of the old one. -/
theorem Store.SameHeld.keeps (h : s.store.SameHeld st) : KeepsDurable s { s with store := st } :=
  ⟨⟨rfl, h.seals, h.records⟩, h.durable, rfl, rfl⟩

theorem raiseU_keeps (code : Nat) (ps : List Nat) (s : State) : KeepsDurable s (raiseU code ps s) := by
  rw [raiseU_recorder]
  exact ⟨⟨rfl, rfl, rfl⟩, rfl, rfl, rfl⟩

theorem retire_keeps (n cause : Nat) (s : State) : KeepsDurable s (retire n cause s) := by
  obtain ⟨hheld, hframe⟩ := retire_held n cause s
  rw [hframe]
  exact ⟨⟨rfl, hheld.seals, hheld.records⟩, hheld.durable, rfl, rfl⟩

theorem lowSpace_keeps (s : State) : KeepsDurable s (lowSpace s) := by
  obtain ⟨hheld, hframe⟩ := lowSpace_held s
  rw [hframe]
  exact ⟨⟨rfl, hheld.seals, hheld.records⟩, hheld.durable, rfl, rfl⟩

/-- A block is retired once the store has been brought up to it. -/
theorem Store.SameHeld.retire_keeps (h : s.store.SameHeld st) (n cause : Nat) :
    KeepsDurable s (retire n cause { s with store := st }) :=
  h.keeps.trans (Machine.retire_keeps n cause _)

theorem KeepsDurable.ite {c : Prop} [Decidable c] (h : KeepsDurable s t) (k : KeepsDurable s u) :
    KeepsDurable s (if c then t else u) := by
  split
  · exact h
  · exact k

theorem KeepsHeld.kept_eq (h : KeepsHeld s t) : kept s t = t := by
  rw [h.frame]
  rfl

/-- A command of the store answers with its effect and the low-space check behind it, or with the state as it was. -/
theorem whenStore_inv (h : whenStore s f = .next t) : t = s ∨ t = kept s (lowSpace (f s)) := by
  rw [whenStore, done_eq] at h
  cases h
  by_cases hon : storeOn s = true
  · exact .inr (by rw [if_pos hon])
  · exact .inl (by rw [if_neg hon, kept_self])

theorem KeepsHeld.whenStore (hf : KeepsHeld s (f s)) (h : whenStore s f = .next t) : KeepsHeld s t := by
  rcases whenStore_inv h with rfl | rfl
  · exact (KeepsDurable.refl t).toKeepsHeld
  · have hlow := hf.trans (lowSpace_keeps (f s)).toKeepsHeld
    rwa [hlow.kept_eq]

theorem KeepsDurable.whenStore (hf : KeepsDurable s (f s)) (h : whenStore s f = .next t) : KeepsDurable s t := by
  rcases whenStore_inv h with rfl | rfl
  · exact .refl t
  · have hlow := hf.trans (lowSpace_keeps (f s))
    rwa [hlow.kept_eq]

/-! ### Packages, checkpoints and write-backs (R337 to R340) -/

theorem packageBody_keeps (s : State) : KeepsDurable s (packageBody s) := by
  unfold packageBody
  split
  · exact .refl s
  · split
    · exact .refl s
    · rename_i st hst
      have hheld := program_held _ _ _ _ _ _ hst
      exact ⟨⟨rfl, hheld.seals, hheld.records⟩, hheld.durable, rfl, rfl⟩

theorem packageHeader_keeps (s : State) : KeepsHeld s (packageHeader s) := by
  unfold packageHeader
  split
  · split
    · exact (KeepsDurable.refl s).toKeepsHeld
    · split
      · exact (KeepsDurable.refl s).toKeepsHeld
      · rename_i st hst
        have hheld := program_held _ _ _ _ _ _ hst
        exact ⟨rfl, hheld.seals, hheld.records⟩
  · exact (KeepsDurable.refl s).toKeepsHeld

theorem writeHistory_keeps (slot tick : Nat) (s : State) : KeepsDurable s (writeHistory slot tick s) := by
  obtain ⟨hheld, hframe⟩ := writeHistory_held slot tick s
  rw [hframe]
  exact hheld.keeps

theorem durableWritten_keeps (d : BitVec 48) (s : State) : KeepsDurable s (durableWritten d s) := by
  refine foldl_inv (KeepsDurable s) _ (fun v w hv => ?_) _ _ (.refl s)
  split
  · exact hv.trans (writeHistory_keeps _ _ _)
  · exact hv

theorem exec_tickPackageWrite_keeps (h : exec .tickPackageWrite s = .next t) : KeepsDurable s t := by
  change execTickPackageWrite s = _ at h
  exact (packageBody_keeps s).whenStore h

theorem exec_sealDurable_keeps (h : exec .sealDurable s = .next t) : KeepsHeld s t := by
  change execSealDurable s = _ at h
  exact (packageHeader_keeps s).whenStore h

theorem exec_checkpointBegin_keeps (h : exec .checkpointBegin s = .next t) : KeepsDurable s t := by
  change execCheckpointBegin s = _ at h
  refine KeepsDurable.whenStore ?_ h
  split
  · exact .refl s
  · dsimp only
    refine .ite (.trans (Store.SameHeld.keeps ?late) (raiseU_keeps _ _ _)) (Store.SameHeld.keeps ?begun)
    case late => exact ⟨rfl, rfl, rfl, rfl⟩
    case begun => exact ⟨rfl, rfl, rfl, rfl⟩

theorem exec_checkpointComplete_keeps (h : exec .checkpointComplete s = .next t) : KeepsDurable s t := by
  change execCheckpointComplete s = _ at h
  refine KeepsDurable.whenStore ?_ h
  split
  · rename_i c d _ _
    dsimp only
    split
    · exact .refl s
    · have hwritten := durableWritten_keeps d s
      split
      · rename_i st hst
        exact hwritten.trans ((finish_held _ _ _ _ _ _ hst).1.trans (eraseReleased_held st)).keeps
      · exact hwritten
  · exact .refl s

theorem exec_historyWriteback_keeps {slot : BitVec 20} (h : exec (.historyWriteback slot) s = .next t) : KeepsDurable s t := by
  change execHistoryWriteback slot s = _ at h
  refine KeepsDurable.whenStore ?_ h
  split
  · split
    · exact writeHistory_keeps _ _ s
    · exact .refl s
  · exact .refl s

/-! ### Collection, refresh, merges and failures (R346, R347, R354, R357) -/

/-- An open block is closed before its live grains are moved. -/
theorem closeIf_held {c : Prop} [Decidable c] (st : Store) (n : Nat) (now : Nat × Nat) :
    st.SameHeld (if c then st.close n now else st) := by
  split
  · exact close_held st n now
  · exact .refl st

theorem exec_garbageCollection_keeps (h : exec .garbageCollection s = .next t) : KeepsDurable s t := by
  change execGarbageCollection s = _ at h
  refine KeepsDurable.whenStore ?_ h
  split
  · exact .refl s
  · split
    · rename_i st hst
      obtain ⟨n, -, hmove⟩ := Option.bind_eq_some_iff.mp hst
      exact (moveBlock_held _ _ _ _ _ hmove).keeps
    · exact .refl s

theorem exec_blockRefresh_keeps {n : Nat} (h : exec (.blockRefresh n) s = .next t) : KeepsDurable s t := by
  change execBlockRefresh n s = _ at h
  refine KeepsDurable.whenStore ?_ h
  dsimp only
  split
  · exact .refl s
  · split
    · rename_i st hst
      exact ((closeIf_held _ _ _).trans (moveBlock_held _ _ _ _ _ hst)).keeps
    · exact .refl s

theorem exec_coarseLogMerge_keeps (h : exec .coarseLogMerge s = .next t) : KeepsDurable s t := by
  change execCoarseLogMerge s = _ at h
  refine KeepsDurable.whenStore ?_ h
  refine .ite ?_ (.refl s)
  split
  · rename_i st hst
    exact (mergeOldest_held _ _ hst).keeps
  · exact .refl s

theorem exec_blockEraseFailed_keeps {n : Nat} (h : exec (.blockEraseFailed n) s = .next t) : KeepsDurable s t := by
  change execBlockEraseFailed n s = _ at h
  refine KeepsDurable.whenStore ?_ h
  refine .ite (.refl s) (Store.SameHeld.retire_keeps ?_ n 1)
  exact ⟨rfl, rfl, rfl, rfl⟩

/-- A failed program is counted. -/
abbrev failCounted (st : Store) : Store := { st with programFails := st.programFails.inc }

theorem exec_grainProgramFailed_keeps {n : Nat} (h : exec (.grainProgramFailed n) s = .next t) : KeepsDurable s t := by
  change execGrainProgramFailed n s = _ at h
  refine KeepsDurable.whenStore ?_ h
  have hfailed : s.store.SameHeld (failCounted s.store) := ⟨rfl, rfl, rfl, rfl⟩
  have hrecorder := Store.SameHeld.retire_keeps (s := s)
    (st := { failCounted s.store with recorderBlocks := s.store.recorderBlocks.filter (· != n) }) ⟨rfl, rfl, rfl, rfl⟩ n 0
  have hvault := Store.SameHeld.retire_keeps (s := s)
    (st := { failCounted s.store with vaultBlocks := s.store.vaultBlocks.filter (· != n) }) ⟨rfl, rfl, rfl, rfl⟩ n 0
  refine .ite (.refl s) (.ite (.ite ?noSpare hrecorder) (.ite (.ite ?noMirror hvault) (.ite hfailed.keeps ?data)))
  case noSpare => exact hrecorder.trans ⟨⟨rfl, rfl, rfl⟩, rfl, rfl, rfl⟩
  case noMirror => exact hvault.trans ⟨⟨rfl, rfl, rfl⟩, rfl, rfl, rfl⟩
  case data =>
    dsimp only
    split
    · rename_i st hst
      exact ((hfailed.trans (closeIf_held (failCounted s.store) n _)).trans (moveBlock_held _ _ _ _ _ hst)).retire_keeps n 0
    · exact hfailed.keeps

end Sys2Proof.Machine
end

section
/-!
SUPPORT. The maintenance commands of the store keep every seal and every record.
-/
namespace Sys2Proof.Machine

open Sys2Proof

/-- Settles O31: command by command, no seal and no record is taken, and only a package's header moves the
durable seal. -/
theorem storeKeepsSealsAndRecords : Obligations.StoreKeepsSealsAndRecords := by
  intro s t slot n c hc h
  have hkeeps : KeepsHeld s t ∧ (c ≠ .sealDurable → KeepsDurable s t) := by
    have both (k : KeepsDurable s t) : KeepsHeld s t ∧ (c ≠ .sealDurable → KeepsDurable s t) := ⟨k.toKeepsHeld, fun _ => k⟩
    simp only [List.mem_cons, List.not_mem_nil, or_false] at hc
    rcases hc with rfl | rfl | rfl | rfl | rfl | rfl | rfl | rfl | rfl | rfl
    · exact both (exec_tickPackageWrite_keeps h)
    · exact ⟨exec_sealDurable_keeps h, fun hne => absurd rfl hne⟩
    · exact both (exec_checkpointBegin_keeps h)
    · exact both (exec_checkpointComplete_keeps h)
    · exact both (exec_historyWriteback_keeps h)
    · exact both (exec_grainProgramFailed_keeps h)
    · exact both (exec_blockEraseFailed_keeps h)
    · exact both (exec_blockRefresh_keeps h)
    · exact both (exec_garbageCollection_keeps h)
    · exact both (exec_coarseLogMerge_keeps h)
  obtain ⟨⟨hframe, hstored, hrecords⟩, hdurable⟩ := hkeeps
  refine ⟨hframe, hstored, hrecords, fun hne => ?_⟩
  obtain ⟨-, hd, hseals, hsnaps⟩ := hdurable hne
  exact ⟨hd, hseals, hsnaps⟩

end Sys2Proof.Machine
end

section
/-!
SUPPORT. What expiry takes from the store, and one command each of its upkeep.
-/
namespace Sys2Proof.Machine

open Sys2Proof

variable {s : State} {st : Store} {n : Nat}

theorem block_setBlock_same (st : Store) (n : Nat) (b : Block) : (st.setBlock n b).block n = b :=
  tgetD_tput_same st.blocks n b Block.fresh

theorem block_erase_same (st : Store) (n : Nat) : (st.erase n).block n = { Block.fresh with erases := (st.block n).erases + 1 } :=
  block_setBlock_same st n _

theorem retire_block (n cause : Nat) (s : State) :
    ((retire n cause s).store.block n).state = .retired ∧ ((retire n cause s).store.block n).grains = [] := by
  have hblock (j : Store) (b : Block) (k : Nat) : ({ j.setBlock n b with retired := k } : Store).block n = b :=
    block_setBlock_same j n b
  rw [retire, raiseU_store]
  dsimp only
  rw [hblock]
  exact ⟨rfl, rfl⟩

/-- Where the low-space event is not due, a command without an effect leaves the state as it was. -/
theorem whenStore_idle {f : State → State} (hlow : lowDue s = false) (hf : f s = s) : whenStore s f = .next s := by
  have hs : lowSpace s = s := by simp only [lowSpace, hlow, Bool.false_eq_true, if_false]
  rw [whenStore, hf, hs, ite_self, done_eq, kept_self]

/-! ### Expiry (R344, R345) -/

/-- The map places a logical grain in a block. -/
def LiesIn (st : Store) (n lga : Nat) : Prop := ∃ m ∈ st.map, m.1 = lga ∧ blockOfPga m.2 = n

/-- The map entries that the expiry of a block removes. -/
abbrev deadEntries (st : Store) (n : Nat) : Tab Nat := st.map.filter fun m => blockOfPga m.2 == n

theorem deadEntries_any_iff {lga : Nat} : (deadEntries st n).any (fun m => m.1 == lga) = true ↔ LiesIn st n lga := by
  simp only [deadEntries, LiesIn, List.any_filter, List.any_eq_true, Bool.and_eq_true, beq_iff_eq]
  exact exists_congr fun m => and_congr_right fun _ => and_comm

/-- A record whose payload alone lay in the block stays without it. -/
def stripped (st : Store) (n : Nat) (r : StoredRecord) : StoredRecord :=
  if (r.payLga.map fun l => (deadEntries st n).any fun m => m.1 == l).getD false then
    { r with payLga := none, record.payload := none }
  else r

@[simp] theorem stripped_lga (st : Store) (n : Nat) (r : StoredRecord) : (stripped st n r).lga = r.lga := by
  unfold stripped
  split <;> rfl

theorem stripped_of_payLga_none {r : StoredRecord} (h : r.payLga = none) : stripped st n r = r := by
  simp only [stripped, h, Option.map_none, Option.getD_none, Bool.false_eq_true, if_false]

section Expire
variable {now : Nat × Nat} {st' : Store} (h : st.expire n now = some st')
include h

theorem expire_records : st'.records =
    (st.records.filter fun r => !(deadEntries st n).any fun m => m.1 == r.2.lga).map fun r => (r.1, stripped st n r.2) := by
  obtain ⟨j, hj, rfl⟩ := Option.map_eq_some_iff.mp h
  rw [← (journalize_held _ _ _ _ hj).records]
  rfl

theorem expire_keeps_record {q : Nat} {r : StoredRecord} (hr : (q, r) ∈ st.records) (hlies : ¬LiesIn st n r.lga)
    (hpay : r.payLga = none) : (q, r) ∈ st'.records := by
  rw [expire_records h, List.mem_map]
  refine ⟨(q, r), List.mem_filter.mpr ⟨hr, ?_⟩, by rw [stripped_of_payLga_none hpay]⟩
  rwa [Bool.not_eq_true', ← Bool.not_eq_true, deadEntries_any_iff]

theorem expire_drops_records {q : Nat} {r : StoredRecord} (hr : (q, r) ∈ st'.records) : ¬LiesIn st n r.lga := by
  rw [expire_records h, List.mem_map] at hr
  obtain ⟨⟨p, r'⟩, hmem, heq⟩ := hr
  obtain ⟨-, rfl⟩ := Prod.mk.inj heq
  rw [stripped_lga]
  have hlies := (List.mem_filter.mp hmem).2
  rwa [Bool.not_eq_true', ← Bool.not_eq_true, deadEntries_any_iff] at hlies

theorem expire_frees_block : (st'.block n).grains = [] ∧ (st'.block n).state = .free := by
  obtain ⟨j, -, rfl⟩ := Option.map_eq_some_iff.mp h
  rw [block_erase_same]
  exact ⟨rfl, rfl⟩

end Expire

/-- A state whose store is that of an expiry, but for the early expiries and the latest low-space event. -/
def HoldsExpired (st : Store) (t : State) : Prop :=
  t.store = { st with lastLow := t.store.lastLow, earlyExpiries := t.store.earlyExpiries }

theorem HoldsExpired.records {t : State} (h : HoldsExpired st t) : t.store.records = st.records := by rw [h]

theorem HoldsExpired.block {t : State} (h : HoldsExpired st t) (n : Nat) : t.store.block n = st.block n := by
  rw [h]
  rfl

section Upkeep
variable (hon : storeOn s = true)
include hon

theorem exec_blockExpiry_expires {b : Nat × Block}
    (hb : earliest (s.store.classBlocks.filter fun b => expired (storeNow s) (ticksPerS s) b.2) = some b)
    (hst : s.store.expire b.1 (storeNow s) = some st) : ∃ t, exec .blockExpiry s = .next t ∧ HoldsExpired st t := by
  obtain ⟨t, ht, hstore⟩ : ∃ t, execBlockExpiry s = .next t ∧ t.store = { st with lastLow := t.store.lastLow } := by
    refine whenStore_store (u := { s with store := st }) hon ?_
    simp only [hb, hst]
  exact ⟨t, ht, by rw [HoldsExpired, hstore]⟩

theorem exec_earlyExpiry_expires {b : Nat × Block} (hb : earliest s.store.classBlocks = some b)
    (hnone : ∀ x ∈ s.store.classBlocks, expired (storeNow s) (ticksPerS s) x.2 = false)
    (hfree : s.store.free < s.store.reserve (cfg s 0x0601 0 4 2 70)) (hst : s.store.expire b.1 (storeNow s) = some st) :
    ∃ t, exec .earlyExpiry s = .next t ∧ HoldsExpired st t ∧ t.store.earlyExpiries = st.earlyExpiries.inc := by
  obtain ⟨t, ht, hstore⟩ : ∃ t, execEarlyExpiry s = .next t
      ∧ t.store = { (raiseU 0x6006 [blockPga b.1, b.2.expiryDay, (storeNow s).1]
        { s with store := { st with earlyExpiries := st.earlyExpiries.inc } }).store with lastLow := t.store.lastLow } := by
    refine whenStore_store hon ?_
    have hany : (s.store.classBlocks.any fun b => expired (storeNow s) (ticksPerS s) b.2) = false :=
      List.any_eq_false.mpr fun x hx => by rw [hnone x hx]; exact Bool.false_ne_true
    simp only [Nat.not_le.mpr hfree, decide_false, hany, Bool.or_self, Bool.false_eq_true, if_false, hb, hst]
  rw [raiseU_store] at hstore
  exact ⟨t, ht, by rw [HoldsExpired, hstore], by rw [hstore]⟩

/-! ### Collection, refresh and merges (R346, R347, R357) -/

theorem exec_garbageCollection_moves (hmode : s.store.mode = .fine) (hn : s.store.victim = some n)
    (hst : s.store.moveBlock n false (storeNow s) = some st) :
    ∃ t, exec .garbageCollection s = .next t ∧ t.store = { st with lastLow := t.store.lastLow } := by
  change ∃ t, execGarbageCollection s = .next t ∧ _
  refine whenStore_store (u := { s with store := st }) hon ?_
  simp only [hmode, bne_self_eq_false, Bool.false_eq_true, if_false, hn, Option.bind_some, hst]

theorem exec_blockRefresh_moves (hmode : s.store.mode = .fine) (hclosed : (s.store.block n).state = .closed)
    (hstream : (s.store.block n).stream < 0x12) (hst : s.store.moveBlock n true (storeNow s) = some st) :
    ∃ t, exec (.blockRefresh n) s = .next t ∧ t.store = { st with lastLow := t.store.lastLow } := by
  change ∃ t, execBlockRefresh n s = .next t ∧ _
  refine whenStore_store (u := { s with store := st }) hon ?_
  simp [hmode, hclosed, Nat.not_le.mpr hstream, hst]

theorem exec_coarseLogMerge_merges {b : Nat} (hmode : s.store.mode = .coarseTest) (hlogs : s.store.logBlocks.length = 8)
    (hlast : s.store.logBlocks.getLast? = some b) (hfull : s.store.perBlock ≤ (s.store.block b).grains.length)
    (hst : s.store.mergeOldest = some st) :
    ∃ t, exec .coarseLogMerge s = .next t ∧ t.store = { st with lastLow := t.store.lastLow } := by
  change ∃ t, execCoarseLogMerge s = .next t ∧ _
  refine whenStore_store (u := { s with store := st }) hon ?_
  simp only [hmode, hlogs, hlast, hfull, beq_self_eq_true, decide_true, Bool.and_self, if_true, hst]

/-! ### Failed blocks (R354) -/

/-- A command whose effect is to retire a block leaves it retired and empty. -/
theorem whenStore_retires {f : State → State} {u : State} {cause : Nat} (hf : f s = retire n cause u) :
    ∃ t, whenStore s f = .next t ∧ (t.store.block n).state = .retired ∧ (t.store.block n).grains = [] := by
  obtain ⟨t, ht, hstore⟩ := whenStore_store hon hf
  have hblock : t.store.block n = (retire n cause u).store.block n := by
    rw [hstore]
    rfl
  exact ⟨t, ht, hblock ▸ retire_block n cause u⟩

theorem exec_blockEraseFailed_retires (hlun : n % 8192 < s.store.perLun) (hin : n / 8192 ∈ s.store.lunSet)
    (hstate : (s.store.block n).state = .free ∨ (s.store.block n).state = .released) :
    ∃ t, exec (.blockEraseFailed n) s = .next t ∧ (t.store.block n).state = .retired ∧ (t.store.block n).grains = [] := by
  change ∃ t, execBlockEraseFailed n s = .next t ∧ _
  refine whenStore_retires (cause := 1) (u := { s with store.eraseFails := s.store.eraseFails.inc }) hon ?_
  rcases hstate with hstate | hstate <;> simp [hlun, hin, hstate]

theorem exec_grainProgramFailed_retires (hclosed : (s.store.block n).state = .closed)
    (hstream : (s.store.block n).stream < 0x12)
    (hst : (failCounted s.store).moveBlock n true (storeNow s) = some st) :
    ∃ t, exec (.grainProgramFailed n) s = .next t ∧ (t.store.block n).state = .retired ∧ (t.store.block n).grains = [] := by
  change ∃ t, execGrainProgramFailed n s = .next t ∧ _
  refine whenStore_retires (cause := 0) (u := { s with store := st }) hon ?_
  have h12 : (s.store.block n).stream ≠ 0x12 := by omega
  have h13 : (s.store.block n).stream ≠ 0x13 := by omega
  have h14 : (s.store.block n).stream ≠ 0x14 := by omega
  have hst' : (failCounted s.store).moveBlock n true (storeNow { s with store := failCounted s.store }) = some st := hst
  simp [hclosed, h12, h13, h14, hst']

end Upkeep

/-! ### What does nothing -/

section Idle
variable (hlow : lowDue s = false)
include hlow

theorem exec_blockExpiry_idle (hnone : ∀ x ∈ s.store.classBlocks, expired (storeNow s) (ticksPerS s) x.2 = false) :
    exec .blockExpiry s = .next s := by
  change execBlockExpiry s = _
  refine whenStore_idle hlow ?_
  have hfilter : (s.store.classBlocks.filter fun b => expired (storeNow s) (ticksPerS s) b.2) = [] :=
    List.filter_eq_nil_iff.mpr fun x hx => by rw [hnone x hx]; exact Bool.false_ne_true
  simp only [hfilter, earliest, List.foldl_nil]

theorem exec_earlyExpiry_idle (hfree : s.store.reserve (cfg s 0x0601 0 4 2 70) ≤ s.store.free) :
    exec .earlyExpiry s = .next s := by
  change execEarlyExpiry s = _
  refine whenStore_idle hlow ?_
  simp only [hfree, decide_true, Bool.true_or, if_true]

theorem exec_blockRefresh_fresh (hn : s.store.block n = Block.fresh) : exec (.blockRefresh n) s = .next s := by
  change execBlockRefresh n s = _
  refine whenStore_idle hlow ?_
  simp [hn, Block.fresh]

theorem exec_grainProgramFailed_fresh (hn : s.store.block n = Block.fresh) : exec (.grainProgramFailed n) s = .next s := by
  change execGrainProgramFailed n s = _
  refine whenStore_idle hlow ?_
  simp [hn, Block.fresh]

end Idle

end Sys2Proof.Machine
end

section
/-!
SUPPORT. Expiry, collection, refresh, merges and failed blocks of the store.
-/
namespace Sys2Proof.Machine

open Sys2Proof

/-- Settles O33: each command of the store's upkeep does its work where it is due, and nothing where it is not. -/
theorem storeUpkeep : Obligations.StoreUpkeep := by
  refine ⟨?expiry, ?idle, fun s n st hon hmode => ⟨exec_garbageCollection_moves hon hmode, exec_blockRefresh_moves hon hmode⟩,
    fun s b st hon => exec_coarseLogMerge_merges hon,
    fun s n hon => ⟨exec_blockEraseFailed_retires hon, fun st => exec_grainProgramFailed_retires hon⟩⟩
  case expiry =>
    intro s b st hon hst inBlock gone
    have hgone (t : State) (h : HoldsExpired st t) : gone t := by
      refine ⟨h, fun q r hr hin hpay => ?_, fun q r hr => ?_, ?_⟩
      · rw [h.records]
        exact expire_keeps_record hst hr hin hpay
      · rw [h.records] at hr
        exact expire_drops_records hst hr
      · rw [h.block]
        exact expire_frees_block hst
    refine ⟨fun hb => ?_, fun hb hnone hfree => ?_⟩
    · obtain ⟨t, ht, hstore⟩ := exec_blockExpiry_expires hon hb hst
      exact ⟨t, ht, hgone t hstore⟩
    · obtain ⟨t, ht, hstore, hcount⟩ := exec_earlyExpiry_expires hon hb hnone hfree hst
      exact ⟨t, ht, hgone t hstore, hcount⟩
  case idle =>
    intro s _ hlow
    exact ⟨exec_blockExpiry_idle hlow, exec_earlyExpiry_idle hlow,
      fun n hn => ⟨exec_blockRefresh_fresh hlow hn, exec_grainProgramFailed_fresh hlow hn⟩⟩

end Sys2Proof.Machine
end

section
/-!
SUPPORT. PTP messages of a port, triggers, serial launches and the replies to meter time messages.
-/
namespace Sys2Proof.Machine

open Sys2Proof

variable {s : State} {port : Nat}

/-! ### Announce messages heard (R370, R371) -/

section Announce
variable {a : AnnounceData} (hclock : clockOn s = true) (hptp : ptpProfile s ≠ 0) (hport : port < 4)
include hclock hptp hport

theorem exec_announce_malformed :
    exec (.announce port a false) s = .next { s with time.ptpDropped := s.time.ptpDropped.inc } := by
  change execAnnounce port a false s = _
  simp only [execAnnounce, whenClock_on hclock, hptp, Nat.not_le.mpr hport, or_self, if_false, Bool.not_false, if_true]
  rfl

theorem exec_announce_ignored (h : a.sender = ownEui s ∨ 255 ≤ a.steps) : exec (.announce port a true) s = .next s := by
  change execAnnounce port a true s = _
  simp only [execAnnounce, whenClock_on hclock, hptp, Nat.not_le.mpr hport, or_self, if_false, Bool.not_true,
    Bool.false_eq_true, h, if_true, kept_self]

/-- An Announce that the port does not ignore takes the place of its best, or is passed over for it. -/
theorem exec_announce_heard (hother : a.sender ≠ ownEui s) (hsteps : a.steps < 255) (take : Bool)
    (htake : (ptpPort s port).best.all (fun b => b.sender == a.sender || betterData a b) = take) :
    exec (.announce port a true) s = .next (if take then kept s (decidePorts (fun _ => false)
      { s with time.ports := s.time.ports.set port { ptpPort s port with best := some a } }) else s) := by
  change execAnnounce port a true s = _
  subst htake
  simp only [execAnnounce, whenClock_on hclock, hptp, Nat.not_le.mpr hport, hother, Nat.not_le.mpr hsteps, or_self, if_false,
    Bool.not_true, Bool.false_eq_true]
  cases hbest : (ptpPort s port).best with
  | none => simp only [Option.all_none, if_true]
  | some b =>
    simp only [Option.all_some]
    split
    · rfl
    · exact congrArg _ (kept_self s)

theorem exec_announce_taken (hother : a.sender ≠ ownEui s) (hsteps : a.steps < 255)
    (h : (ptpPort s port).best = none
      ∨ ∃ b, (ptpPort s port).best = some b ∧ (b.sender = a.sender ∨ betterData a b = true)) :
    exec (.announce port a true) s = .next (kept s (decidePorts (fun _ => false)
      { s with time.ports := s.time.ports.set port { ptpPort s port with best := some a } })) := by
  refine exec_announce_heard hclock hptp hport hother hsteps true ?_
  rcases h with hbest | ⟨b, hbest, hsame | hbetter⟩
  · simp only [hbest, Option.all_none]
  · simp only [hbest, Option.all_some, hsame, beq_self_eq_true, Bool.true_or]
  · simp only [hbest, Option.all_some, hbetter, Bool.or_true]

theorem exec_announce_passed {b : AnnounceData} (hother : a.sender ≠ ownEui s) (hsteps : a.steps < 255)
    (hbest : (ptpPort s port).best = some b) (hsender : b.sender ≠ a.sender) (hworse : betterData a b = false) :
    exec (.announce port a true) s = .next s := by
  refine exec_announce_heard hclock hptp hport hother hsteps false ?_
  simp only [hbest, Option.all_some, beq_false_of_ne hsender, hworse, Bool.or_self]

theorem exec_announceTimeout_forgets {b : AnnounceData} (hbest : (ptpPort s port).best = some b) :
    exec (.announceTimeout port) s = .next (kept s (decidePorts (fun n => n == port)
      { s with time.announceTimeouts := s.time.announceTimeouts.inc,
               time.ports := s.time.ports.set port { ptpPort s port with best := none } })) := by
  change execAnnounceTimeout port s = _
  simp only [execAnnounceTimeout, whenClock_on hclock, hptp, Nat.not_le.mpr hport, or_self, if_false, hbest,
    Option.isSome_some, if_true]
  rfl

end Announce

/-! ### Messages sent and answered (R371 to R373) -/

theorem kept_emit (e : Emission) (s : State) : kept s (emit e s) = emit e s := rfl

/-- Without injection a message and its follow-up leave one behind the other. -/
theorem ethernetOut_twice_plain (e f : Emission) (h : faultOn s (0x10 + port) false = false) :
    ethernetOut port f (ethernetOut port e s) = emit f (emit e s) := by
  rw [ethernetOut_plain port e s h]
  exact ethernetOut_plain port f _ ((faultOn_link s (emit e s) _ _ rfl rfl).trans h)

section Messages
variable {t : FullStamp} (hclock : clockOn s = true)
include hclock

theorem exec_ptpMasterSend_silent (sync : Bool) (h : sendsAsMaster s port = false) :
    exec (.ptpMasterSend port sync t) s = .next s := by
  change execPtpMasterSend port sync t s = _
  simp only [execPtpMasterSend, whenClock_on hclock, h, Bool.not_false, if_true, kept_self]

theorem exec_delayReq_silent (x : BitVec 64) (h : sendsAsMaster s port = false) :
    exec (.delayReq port t x) s = .next s := by
  change execDelayReq port t x s = _
  simp only [execDelayReq, whenClock_on hclock, h, Bool.false_and, Bool.false_eq_true, if_false, kept_self]

variable (hplain : faultOn s (0x10 + port) false = false)
include hplain

section Master
variable (hmaster : sendsAsMaster s port = true)
include hmaster

theorem exec_ptpMasterSend_oneStep (h : oneStep s port = true) : exec (.ptpMasterSend port true t) s =
    .next (emit (.ethernet port 0 ([0] ++ ptpStamp (fullNs t + latency s port false))) s) := by
  change execPtpMasterSend port true t s = _
  simp only [execPtpMasterSend, whenClock_on hclock, hmaster, h, Bool.not_true, Bool.false_eq_true, if_false, if_true,
    ethernetOut_plain port _ s hplain, kept_emit]

theorem exec_ptpMasterSend_twoStep (h : oneStep s port = false) : exec (.ptpMasterSend port true t) s =
    .next (emit (.ethernet port 8 (ptpStamp (fullNs t + latency s port false))) (emit (.ethernet port 0 [2]) s)) := by
  change execPtpMasterSend port true t s = _
  simp only [execPtpMasterSend, whenClock_on hclock, hmaster, h, Bool.not_true, Bool.false_eq_true, if_false, if_true,
    ethernetOut_twice_plain _ _ hplain]
  rfl

theorem exec_ptpMasterSend_ownData (h : s.time.servo.synced = false) : exec (.ptpMasterSend port false t) s =
    .next (emit (.ethernet port 11 (announceBytes (ownData s) s)) s) := by
  change execPtpMasterSend port false t s = _
  simp only [execPtpMasterSend, whenClock_on hclock, hmaster, h, Bool.not_true, Bool.false_eq_true, if_false,
    ethernetOut_plain port _ s hplain, kept_emit]

theorem exec_ptpMasterSend_parentData {p : AnnounceData} (h : s.time.servo.synced = true) (hp : s.time.parent = some p) :
    exec (.ptpMasterSend port false t) s =
      .next (emit (.ethernet port 11 (announceBytes { p with steps := p.steps + 1 } s)) s) := by
  change execPtpMasterSend port false t s = _
  simp only [execPtpMasterSend, whenClock_on hclock, hmaster, h, hp, Bool.not_true, Bool.false_eq_true, if_false,
    ethernetOut_plain port _ s hplain, kept_emit]

theorem exec_delayReq_answered (x : BitVec 64) (h : ptpProfile s = 1) : exec (.delayReq port t x) s =
    .next (emit (.ethernet port 9 (ptpStamp (fullNs t + latency s port true) ++ euiBytes x)) s) := by
  change execDelayReq port t x s = _
  simp only [execDelayReq, whenClock_on hclock, hmaster, h, beq_self_eq_true, Bool.and_self, if_true,
    ethernetOut_plain port _ s hplain, kept_emit]

end Master

section Pdelay
variable {a : FullStamp} (hprofile : ptpProfile s = 2) (hport : port < 4)
  (hanswers : ¬(maySlave s port = false ∧ mayMaster s port = false))
include hprofile hport hanswers

theorem exec_pdelayReq_oneStep (h : oneStep s port = true) : exec (.pdelayReq port a t) s =
    .next (emit (.ethernet port 3 (zeros 10
      ++ be 8 (fullNs t + latency s port false - (fullNs a + latency s port true)).toNat)) s) := by
  change execPdelayReq port a t s = _
  simp only [execPdelayReq, whenClock_on hclock, hprofile, Nat.not_le.mpr hport, hanswers, h, ne_eq, not_true_eq_false,
    or_self, if_false, if_true, ethernetOut_plain port _ s hplain, kept_emit]

theorem exec_pdelayReq_twoStep (h : oneStep s port = false) : exec (.pdelayReq port a t) s =
    .next (emit (.ethernet port 10 (ptpStamp (fullNs t + latency s port false)))
      (emit (.ethernet port 3 (ptpStamp (fullNs a + latency s port true))) s)) := by
  change execPdelayReq port a t s = _
  simp only [execPdelayReq, whenClock_on hclock, hprofile, Nat.not_le.mpr hport, hanswers, h, ne_eq, not_true_eq_false,
    or_self, Bool.false_eq_true, if_false, ethernetOut_twice_plain _ _ hplain]
  rfl

end Pdelay

/-- A Delay_Req of the slave port opens an exchange (R370, R374). -/
theorem exec_delayReqSend_opens (hprofile : ptpProfile s = 1) (hport : port < 4) (hslave : s.time.slave = some port) :
    exec (.delayReqSend port t) s = .next (emit (.ethernet port 1 (be 8 ((fullNs t + latency s port false) / 65536).toNat))
      { s with time.exchange := some port }) := by
  have hopen : faultOn { s with time.exchange := some port } (0x10 + port) false = false :=
    (faultOn_link s _ _ _ rfl rfl).trans hplain
  have hsends : ¬(ptpProfile s = 0 ∨ 4 ≤ port ∨ (ptpProfile s = 1 ∧ s.time.slave ≠ some port)) := by
    simp only [hprofile, Nat.not_le.mpr hport, hslave, Nat.one_ne_zero, ne_eq, not_true_eq_false, and_false, or_self,
      not_false_eq_true]
  change execDelayReqSend port t s = _
  simp only [execDelayReqSend, whenClock_on hclock, if_neg hsends, if_pos hprofile, if_pos hslave,
    ethernetOut_plain port _ _ hopen]
  rfl

end Messages

/-! ### Triggers (R384) -/

section Trigger
variable {n : Nat} {boundary : Bool} (hclock : clockOn s = true)
include hclock

theorem exec_triggerPulse_pulses (hn : n < 4) (h : ptp s (0x20 + 2 * n) 2 0 % 4 = if boundary then 2 else 1) :
    exec (.triggerPulse n boundary) s = .next { s with
      time.triggers := s.time.triggers.set n ((if boundary then nowNs s else (s.time.sec.toNat + 1) * 1000000000)
        + ptp s (0x20 + 2 * n) 2 0 / 16 * 1000),
      out := s.out ++ [.trigger n (!testBit (ptp s (0x20 + 2 * n) 2 0) 2)] } := by
  change execTriggerPulse n boundary s = _
  simp only [execTriggerPulse, whenClock_on hclock, Nat.not_le.mpr hn, h, ne_eq, not_true_eq_false, or_self, if_false]
  rfl

theorem exec_triggerPulse_otherMode (h : ptp s (0x20 + 2 * n) 2 0 % 4 ≠ if boundary then 2 else 1) :
    exec (.triggerPulse n boundary) s = .next s := by
  change execTriggerPulse n boundary s = _
  simp only [execTriggerPulse, whenClock_on hclock, ne_eq, h, not_false_eq_true, or_true, if_true, kept_self]

end Trigger

/-! ### Serial launches (R380, R381) -/

section Launch
variable {at_ : Stamp} {l : SerialLaunchEntry} {rest : List SerialLaunchEntry} (hc : capturing s = true)
  (hq : s.time.serialA = l :: rest)
include hc hq

theorem exec_serialLaunch_sends (hat : l.atNs = stampNs at_) (hidle : s.ingest.serialA = [])
    (hplain : faultOn s 6 false = false) :
    exec (.serialLaunch false at_) s = .next { s with time.serialA := rest, out := s.out ++ [.serial false l.payload] } := by
  have hgone : faultOn { s with time.serialA := rest } 6 false = false := (faultOn_link s _ _ _ rfl rfl).trans hplain
  change execSerialLaunch false at_ s = _
  simp only [execSerialLaunch, whenCapturing_on hc, hq, hidle, hat, Nat.le_refl, Nat.lt_irrefl, decide_true, decide_false,
    List.find?_cons_of_pos, List.erase_cons_head, List.isEmpty_nil, Bool.not_true, Bool.or_self, Bool.false_eq_true,
    if_false, serialOut_plain false _ _ hgone]
  rfl

theorem exec_serialLaunch_late (h : l.atNs < stampNs at_ ∨ (l.atNs = stampNs at_ ∧ s.ingest.serialA ≠ [])) :
    exec (.serialLaunch false at_) s = .next { s with time.serialA := rest, time.serLate := s.time.serLate.inc } := by
  have hdue : l.atNs ≤ stampNs at_ := h.elim Nat.le_of_lt fun h => Nat.le_of_eq h.1
  have hdrop : (!s.ingest.serialA.isEmpty || decide (l.atNs < stampNs at_)) = true := by
    rcases h with hlate | ⟨-, hbusy⟩
    · simp only [hlate, decide_true, Bool.or_true]
    · simp only [List.isEmpty_eq_false_iff.mpr hbusy, Bool.not_false, Bool.true_or]
  change execSerialLaunch false at_ s = _
  simp only [execSerialLaunch, whenCapturing_on hc, hq, hdue, decide_true, List.find?_cons_of_pos, List.erase_cons_head,
    Bool.false_eq_true, if_false, hdrop, if_true]
  rfl

end Launch

/-! ### Meter time messages (R387) -/

section TimeMessage
variable {org : Org} {slot : BitVec 20} {m : TimeMsg} (hproc : Processing s)
include hproc

theorem exec_timeSetResponse_ends {result : Byte} (hm : s.time.msgs.find? (fun m => m.slot == slot.toNat) = some m) :
    exec (.timeSetResponse org slot result) s = .next (if result = 0 then
      { s with time.msgs := s.time.msgs.erase m, time.timeSets := s.time.timeSets.inc }
      else raise (Src.slot m.slot org) 0x7012 [m.slot, m.bearer, result.toNat]
        { s with time.msgs := s.time.msgs.erase m, time.timeSetRefused := s.time.timeSetRefused.inc }) := by
  change execTimeSetResponse org slot result s = _
  simp only [execTimeSetResponse, whenProcessing_on hproc, hm, timeSetDone]
  by_cases h : result = 0
  · subst h
    rfl
  · have hn : result.toNat ≠ 0 := fun hz => h (BitVec.eq_of_toNat_eq hz)
    simp only [h, hn, if_false]
    rfl

theorem exec_timeSetTimeout_refused
    (hm : s.time.msgs.find? (fun m => m.slot == slot.toNat && decide (m.tick.toNat + 256 ≤ s.work.log.tick.toNat)) = some m) :
    exec (.timeSetTimeout org slot) s = .next (raise (Src.slot m.slot org) 0x7012 [m.slot, m.bearer, 0xFF]
      { s with time.msgs := s.time.msgs.erase m, time.timeSetRefused := s.time.timeSetRefused.inc }) := by
  change execTimeSetTimeout org slot s = _
  simp only [execTimeSetTimeout, whenProcessing_on hproc, hm]
  rfl

theorem exec_timeSetTimeout_waits (h : ∀ m ∈ s.time.msgs, s.work.log.tick.toNat < m.tick.toNat + 256) :
    exec (.timeSetTimeout org slot) s = .next s := by
  have hnone : s.time.msgs.find? (fun m => m.slot == slot.toNat && decide (m.tick.toNat + 256 ≤ s.work.log.tick.toNat))
      = none := by
    refine List.find?_eq_none.mpr fun m hm => ?_
    simp only [Nat.not_le.mpr (h m hm), decide_false, Bool.and_false, Bool.false_eq_true, not_false_eq_true]
  change execTimeSetTimeout org slot s = _
  simp only [execTimeSetTimeout, whenProcessing_on hproc, hnone, kept_self]

end TimeMessage

end Sys2Proof.Machine
end

section
/-!
SUPPORT. What PTP messages, triggers, serial launches and the replies to meter time messages do.
-/
namespace Sys2Proof.Machine

open Sys2Proof

/-- Settles O35: each Announce by what its port heard before, each message by the role and the stepping of its port, a
trigger by its mode, a launch by its instant and its port, and a time message by its reply or its age. -/
theorem ptpMessagesAndTriggers : Obligations.PtpMessagesAndTriggers := by
  refine ⟨?heard, ?sent, ?trigger, ?launch, ?reply⟩
  case heard =>
    intro port a s hclock hptp hport
    exact ⟨exec_announce_malformed hclock hptp hport, exec_announce_ignored hclock hptp hport,
      fun hother hsteps => ⟨exec_announce_taken hclock hptp hport hother hsteps,
        fun b => exec_announce_passed hclock hptp hport hother hsteps⟩,
      fun b => exec_announceTimeout_forgets hclock hptp hport⟩
  case sent =>
    intro port t s hclock hplain
    refine ⟨fun hmaster => ?_, fun hno => ?_, fun hprofile hport hrole a => ?_, exec_delayReqSend_opens hclock hplain⟩
    · exact ⟨exec_ptpMasterSend_oneStep hclock hplain hmaster, exec_ptpMasterSend_twoStep hclock hplain hmaster,
        exec_ptpMasterSend_ownData hclock hplain hmaster, fun p => exec_ptpMasterSend_parentData hclock hplain hmaster,
        fun hprofile x => exec_delayReq_answered hclock hplain hmaster x hprofile⟩
    · exact ⟨exec_ptpMasterSend_silent hclock true hno, exec_ptpMasterSend_silent hclock false hno,
        fun x => exec_delayReq_silent hclock x hno⟩
    · have hanswers : ¬(maySlave s port = false ∧ mayMaster s port = false) :=
        fun ⟨hslave, hmaster⟩ => hrole.elim (Bool.eq_false_iff.mp hslave) (Bool.eq_false_iff.mp hmaster)
      exact ⟨exec_pdelayReq_oneStep hclock hplain hprofile hport hanswers,
        exec_pdelayReq_twoStep hclock hplain hprofile hport hanswers⟩
  case trigger => exact fun n boundary s hclock hn => ⟨exec_triggerPulse_pulses hclock hn, exec_triggerPulse_otherMode hclock⟩
  case launch => exact fun at_ s l rest hc hq => ⟨exec_serialLaunch_sends hc hq, exec_serialLaunch_late hc hq⟩
  case reply =>
    exact fun org slot result s m hproc => ⟨exec_timeSetResponse_ends hproc, exec_timeSetTimeout_refused hproc,
      exec_timeSetTimeout_waits hproc⟩

end Sys2Proof.Machine
end

section
/-!
SUPPORT. The life cycle: a field of the LIFECYCLE fuses counted bit by bit (R395).
-/
namespace Sys2Proof.Machine

open Sys2Proof

theorem testBit_toNat {w : Nat} (l : BitVec w) (i : Nat) : testBit l.toNat i = l.getLsbD i :=
  Nat.testBit_eq_decide_div_mod_eq.symm

theorem testBit_div (v a i : Nat) : testBit (v / 2 ^ a) i = testBit v (a + i) := by
  simp only [testBit, Nat.div_div_eq_div_mul, pow_add]

/-- A field counts as many bits as stand set in it. -/
theorem popCount_eq_length_filter (n v : Nat) : popCount n v = ((List.range n).filter (testBit v)).length := by
  induction n generalizing v with
  | zero => rfl
  | succ n ih =>
    have hshift : testBit (v / 2) = testBit v ∘ Nat.succ := by
      funext i
      rw [Function.comp_apply, Nat.succ_eq_one_add, ← testBit_div, Nat.pow_one]
    rw [popCount, ih, hshift, List.range_succ_eq_map, List.filter_cons, List.filter_map]
    rcases Nat.mod_two_eq_zero_or_one v with h | h
    · simp [testBit, h]
    · simp [testBit, h, Nat.add_comm]

/-- Bits [a+n-1:a] of a word counted as a field of its number. -/
theorem popCount_toNat_div {w : Nat} (l : BitVec w) (n a : Nat) :
    popCount n (l.toNat / 2 ^ a) = ((List.range n).filter fun i => l.getLsbD (a + i)).length := by
  have hbits : testBit (l.toNat / 2 ^ a) = fun i => l.getLsbD (a + i) :=
    funext fun i => (testBit_div _ a i).trans (testBit_toNat l (a + i))
  rw [popCount_eq_length_filter, hbits]

theorem entriesOf_toNat (l : BitVec 20) :
    entriesOf l.toNat = ((List.range 9).filter fun i => l.getLsbD (2 + i)).length := popCount_toNat_div l 9 2

theorem returnsOf_toNat (l : BitVec 20) :
    returnsOf l.toNat = ((List.range 8).filter fun i => l.getLsbD (11 + i)).length := popCount_toNat_div l 8 11

end Sys2Proof.Machine
end

section
/-!
SUPPORT. The life-cycle state of every value of the fuses.
-/
namespace Sys2Proof.Machine

open Sys2Proof

/-- Settles O6: the five rules read the bits of the fuses and the two counts. -/
theorem lifeCycleDecoding : Obligations.LifeCycleDecoding := by
  intro l entries returns
  simp only [decodeLife, beneath, testBit_toNat, entriesOf_toNat, returnsOf_toNat]
  rfl

end Sys2Proof.Machine
end

section
/-!
SUPPORT. The fuse burn that is due first, by its kind and its completion (R391, R400, R613).
-/
namespace Sys2Proof.Machine

open Sys2Proof

variable {s : State} {tick : BitVec 48} {b : Burn}

theorem mode_of_running (h : running s = true) : s.sys.mode = .running := eq_of_beq h

/-- The burn is no longer due. -/
def burnTaken (tick : BitVec 48) (b : Burn) (s : State) : State := { s with keys.burns := s.keys.burns.erase (tick, b) }

theorem exec_fuseBurn_due (hr : running s = true) (hf : s.keys.burns.find? (burnDue s) = some (tick, b)) (ok : Bool) :
    exec (.fuseBurn ok) s = doneFuse s (burnFront b ok (burnTaken tick b s) s) := by
  change execFuseBurn ok s = _
  simp only [execFuseBurn, hf, mode_of_running hr, beq_self_eq_true, Bool.true_or, if_true]
  rfl

theorem exec_fuseBurn_completed (hr : running s = true) (hf : s.keys.burns.find? (burnDue s) = some (tick, b)) :
    exec (.fuseBurn true) s = doneFuse s (burn b true (burnTaken tick b s)) := by
  rw [exec_fuseBurn_due hr hf]
  cases b <;> rfl

/-- A burn that does not complete stays due, but that of a root. -/
theorem exec_fuseBurn_failed (hr : running s = true) (hf : s.keys.burns.find? (burnDue s) = some (tick, b))
    (hroot : ∀ code secret digest, b ≠ .root code secret digest) : exec (.fuseBurn false) s = .next s := by
  rw [exec_fuseBurn_due hr hf]
  cases b with
  | root code secret digest => exact absurd rfl (hroot code secret digest)
  | lifecycle | revoke | tamper | quarantineEntry => rfl

theorem exec_fuseBurn_root {code : Nat} {secret digest : Bytes} (hr : running s = true)
    (hf : s.keys.burns.find? (burnDue s) = some (tick, b)) (hb : b = .root code secret digest) (ok : Bool) :
    exec (.fuseBurn ok) s = .next { burnTaken tick b s with
      keys.fuses := burnRoot s.keys.fuses code secret digest ok } := by
  subst hb
  exact exec_fuseBurn_due hr hf ok

theorem exec_fuseBurn_none (h : s.keys.burns.find? (burnDue s) = none) (ok : Bool) : exec (.fuseBurn ok) s = .next s := by
  change execFuseBurn ok s = _
  simp only [execFuseBurn, h]
  rfl

end Sys2Proof.Machine
end

section
/-!
SUPPORT. Tamper alarms: an alarm at each moment, and what zeroisation leaves (R416 to R419).
-/
namespace Sys2Proof.Machine

open Sys2Proof

variable {source : Nat} {s : State} {tick : BitVec 48}

/-! ### Events outside processing, and zeroisation (R419) -/

/-- An event outside processing does not depend on the keys block. -/
theorem raiseU_recorder_keys (code : Nat) (ps : List Nat) (k : Keys) (s : State) :
    (raiseU code ps { s with keys := k }).recorder = (raiseU code ps s).recorder := by
  unfold raiseU
  simp only []
  split <;> rfl

/-- An event of a unit whose keys block changes goes to the recorder alone. -/
theorem raiseU_keys_eq (code : Nat) (ps : List Nat) (k : Keys) (s : State) :
    raiseU code ps { s with keys := k } = { s with keys := k, recorder := (raiseU code ps s).recorder } := by
  rw [raiseU_recorder, raiseU_recorder_keys]

theorem raiseAlarm_eq (bits : BitVec 10) (moment : Nat) (s : State) :
    raiseAlarm bits moment s
      = { s with keys.alarms := s.keys.alarms.inc, recorder := (raiseU 0x8010 [bits.toNat, moment] s).recorder } :=
  raiseU_keys_eq _ _ _ _

/-- The keys block without a key value or a kept value. -/
def Keys.wiped (k : Keys) : Keys := { k with cells := [], kept := [], vaultDue := [], zeroiseDue := false }

/-- Zeroisation changes the keys block, the Beysyn block and the counter of random draws. -/
theorem zeroise_eq (s : State) :
    zeroise s = { s with keys := s.keys.wiped, bey := (zeroise s).bey, freeCtr := (zeroise s).freeCtr } := by
  unfold zeroise
  simp only []
  split <;> rfl

theorem zeroise_dtls (s : State) : (zeroise s).bey.dtls = s.bey.dtls.map fun p => (p.1, { p.2 with keyed := false }) := by
  unfold zeroise
  simp only []
  split <;> rfl

/-- No session key outlives zeroisation. -/
theorem zeroise_unkeyed : ∀ p ∈ (zeroise s).bey.dtls, p.2.keyed = false := by
  intro p hp
  rw [zeroise_dtls] at hp
  obtain ⟨_, -, rfl⟩ := List.mem_map.mp hp
  rfl

/-! ### The latch (R417) -/

theorem setLatch_eq (bits : BitVec 10) (s : State) :
    setLatch bits s = { s with keys.latch := some (s.keys.latch.getD ⟨bits, s.sys.vbat.seconds⟩) } := by
  cases h : s.keys.latch with
  | none => exact setLatch_free bits h
  | some l => rw [setLatch, h, Option.isSome_some, if_pos rfl, Option.getD_some, ← h]

/-- A powered unit without a latch takes one and calls for the burn of a quarantine entry. -/
def callEntry (bits : BitVec 10) (s : State) : State :=
  if s.keys.latch.isSome then s
  else { setLatch bits s with keys.burns := (s.cap.tick, .quarantineEntry bits) :: s.keys.burns }

theorem callEntry_eq (bits : BitVec 10) (s : State) :
    callEntry bits s = { s with
      keys.latch := some (s.keys.latch.getD ⟨bits, s.sys.vbat.seconds⟩)
      keys.burns := if s.keys.latch.isSome then s.keys.burns else (s.cap.tick, .quarantineEntry bits) :: s.keys.burns } := by
  rw [callEntry, setLatch_eq]
  cases h : s.keys.latch with
  | none => rfl
  | some l => rw [Option.isSome_some, if_pos rfl, if_pos rfl, Option.getD_some, ← h]

/-! ### An alarm by its moment (R416, R418) -/

/-- The unit is in none of the states that an alarm cannot change. -/
abbrev Calm (s : State) : Prop := hwLifeState s ≠ .quarantine ∧ hwLifeState s ≠ .scrap

/-- The unit is powered and out of last gasp. -/
abbrev Powered (s : State) : Prop := running s = true ∨ s.sys.mode = .pause ∨ s.sys.mode = .waiting

theorem not_calm_iff : ¬Calm s ↔ hwLifeState s = .quarantine ∨ hwLifeState s = .scrap := by
  rw [Calm, not_and_or, not_ne_iff, not_ne_iff]

/-- A unit that an alarm cannot change reports it. -/
theorem alarm_reported (he : tamperEnabled source s = true) (hm : Powered s ∨ s.sys.mode = .gaspDone) (hl : ¬Calm s) :
    alarm source s = raiseAlarm (BitVec.ofNat 10 (2 ^ source)) 3 s := by
  have hlife := not_calm_iff.mp hl
  rcases hm with (hm | hm | hm) | hm
  · simp only [alarm, he, mode_of_running hm, hlife, Bool.not_true, Bool.false_eq_true, if_true, if_false]
  all_goals simp only [alarm, he, hm, hlife, Bool.not_true, Bool.false_eq_true, if_true, if_false]

theorem alarm_powered (he : tamperEnabled source s = true) (hm : Powered s) (hl : Calm s) :
    alarm source s = callEntry (BitVec.ofNat 10 (2 ^ source)) (zeroise (raiseAlarm (BitVec.ofNat 10 (2 ^ source)) 0 s)) := by
  have hlife := not_calm_iff.not_right.mp hl
  rcases hm with hm | hm | hm
  · simp only [alarm, callEntry, he, mode_of_running hm, hlife, Bool.not_true, Bool.false_eq_true, if_false]
  all_goals simp only [alarm, callEntry, he, hm, hlife, Bool.not_true, Bool.false_eq_true, if_false]

theorem alarm_gasp (he : tamperEnabled source s = true) (hm : s.sys.mode = .gaspDone) (hl : Calm s) :
    alarm source s = setLatch (BitVec.ofNat 10 (2 ^ source)) (zeroise (raiseAlarm (BitVec.ofNat 10 (2 ^ source)) 2 s)) := by
  have hlife := not_calm_iff.not_right.mp hl
  simp only [alarm, he, hm, hlife, Bool.not_true, Bool.false_eq_true, if_false]

/-- With only VBAT present an alarm goes to the latch alone. -/
theorem alarm_unpowered (he : tamperEnabled source s = true) (hm : s.sys.mode = .dead ∨ s.sys.mode = .inReset) (hl : Calm s) :
    alarm source s = setLatch (BitVec.ofNat 10 (2 ^ source)) s := by
  have hlife := not_calm_iff.not_right.mp hl
  rcases hm with hm | hm <;> simp only [alarm, he, hm, hlife, Bool.not_true, Bool.false_eq_true, if_false]

theorem alarm_unpowered_ignored (hm : s.sys.mode = .dead ∨ s.sys.mode = .inReset) (hl : ¬Calm s) : alarm source s = s := by
  have hlife := not_calm_iff.mp hl
  rcases hm with hm | hm <;> simp only [alarm, hm, hlife, if_true, ite_self]

/-! ### What an alarm that zeroises leaves (R418, R419) -/

theorem zeroise_raiseAlarm_eq (bits : BitVec 10) (moment : Nat) (s : State) : zeroise (raiseAlarm bits moment s) =
    { s with
      keys := { s.keys.wiped with alarms := s.keys.alarms.inc }
      recorder := (raiseU 0x8010 [bits.toNat, moment] s).recorder
      bey := (zeroise (raiseAlarm bits moment s)).bey, freeCtr := (zeroise (raiseAlarm bits moment s)).freeCtr } := by
  rw [zeroise_eq, raiseAlarm_eq]
  rfl

/-- What an alarm that zeroises makes of `s`. -/
structure Zeroised (bits : BitVec 10) (s t : State) : Prop where
  active   : t.keys.active = s.keys.active
  alarms   : t.keys.alarms = s.keys.alarms.inc
  cov      : t.cov = s.cov
  store    : t.store = s.store
  recorder : t.recorder = (raiseU 0x8010 [bits.toNat, if s.sys.mode = .gaspDone then 2 else 0] s).recorder
  cells    : t.keys.cells = []
  kept     : t.keys.kept = []
  vaultDue : t.keys.vaultDue = []
  unkeyed  : ∀ p ∈ t.bey.dtls, p.2.keyed = false
  latched  : ∀ l, s.keys.latch = some l → t.keys.latch = some l ∧ t.keys.burns = s.keys.burns
  unlatched : s.keys.latch = none → t.keys.latch = some ⟨bits, s.sys.vbat.seconds⟩
    ∧ t.keys.burns = if s.sys.mode = .gaspDone then s.keys.burns else (s.cap.tick, .quarantineEntry bits) :: s.keys.burns

theorem Powered.not_gasp (h : Powered s) : s.sys.mode ≠ .gaspDone := by
  rcases h with h | h | h
  · simp only [mode_of_running h, ne_eq, reduceCtorEq, not_false_eq_true]
  all_goals simp only [h, ne_eq, reduceCtorEq, not_false_eq_true]

theorem alarm_zeroises (he : tamperEnabled source s = true) (hm : Powered s ∨ s.sys.mode = .gaspDone) (hl : Calm s) :
    Zeroised (BitVec.ofNat 10 (2 ^ source)) s (alarm source s) := by
  rcases hm with hm | hm
  · have hgasp := hm.not_gasp
    rw [alarm_powered he hm hl, callEntry_eq, zeroise_raiseAlarm_eq]
    refine ⟨rfl, rfl, rfl, rfl, by rw [if_neg hgasp], rfl, rfl, rfl, zeroise_unkeyed, fun l h => ?_, fun h => ?_⟩
    · simp only [Keys.wiped, h, Option.getD_some, Option.isSome_some, if_true, and_self]
    · simp only [Keys.wiped, h, hgasp, Option.getD_none, Option.isSome_none, Bool.false_eq_true, if_false, and_self]
  · rw [alarm_gasp he hm hl, setLatch_eq, zeroise_raiseAlarm_eq]
    refine ⟨rfl, rfl, rfl, rfl, by rw [if_pos hm], rfl, rfl, rfl, zeroise_unkeyed, fun l h => ?_, fun h => ?_⟩
    · simp only [Keys.wiped, h, Option.getD_some, and_self]
    · simp only [Keys.wiped, h, hm, Option.getD_none, if_true, and_self]

/-! ### TAMPER_ALARM (R416, R418) -/

/-- The source stands active. -/
def tripped (source : Nat) (s : State) : State :=
  { s with keys.active := s.keys.active ||| BitVec.ofNat 10 (2 ^ source) }

theorem exec_tamperAlarm_ends (hs : source < 10) : exec (.tamperAlarm source false) s
    = .next { s with keys.active := s.keys.active &&& ~~~BitVec.ofNat 10 (2 ^ source) } := by
  change execTamperAlarm source false s = _
  simp only [execTamperAlarm, Nat.not_le.mpr hs, if_false, Bool.not_false, if_true]
  rfl

theorem exec_tamperAlarm_again (hs : source < 10) (ha : s.keys.active.getLsbD source = true) :
    exec (.tamperAlarm source true) s = .next s := by
  change execTamperAlarm source true s = _
  simp only [execTamperAlarm, Nat.not_le.mpr hs, if_false, Bool.not_true, Bool.false_eq_true, ha, if_true]
  rfl

theorem exec_tamperAlarm_trips (hs : source < 10) (ha : s.keys.active.getLsbD source = false) :
    exec (.tamperAlarm source true) s = .next (kept s (alarm source (tripped source s))) := by
  change execTamperAlarm source true s = _
  simp only [execTamperAlarm, Nat.not_le.mpr hs, if_false, Bool.not_true, Bool.false_eq_true, ha]
  rfl

/-! ### The burn of a quarantine entry (R397, R400, R418) -/

theorem clearLatch_keys {k : Keys} {l : Latch} (h : k.latch = some l) : clearLatch { s with keys := k } = { s with
    keys := { k with latch := none }
    recorder := (raiseU 0x8011 [l.sources.toNat, l.seconds.toNat % 2 ^ 32] s).recorder } := by
  simp only [clearLatch, h, raiseU_keys_eq]

variable {latched : BitVec 10} {rest : List (BitVec 48 × Burn)}

/-- A quarantine entry is due at once. -/
theorem entry_due (h : s.keys.burns = (tick, .quarantineEntry latched) :: rest) :
    s.keys.burns.find? (burnDue s) = some (tick, .quarantineEntry latched) := by
  rw [h]
  rfl

theorem exec_fuseBurn_entry {l : Latch} (hr : running s = true)
    (hburns : s.keys.burns = (tick, .quarantineEntry latched) :: rest) (hl : s.keys.latch = some l) :
    exec (.fuseBurn true) s = .next { s with
      keys := { (burnEntry s).keys with burns := rest, latch := none }
      recorder := (raiseU 0x8011 [l.sources.toNat, l.seconds.toNat % 2 ^ 32] s).recorder } := by
  have htaken : burnTaken tick (.quarantineEntry latched) s = { s with keys.burns := rest } := by
    rw [burnTaken, hburns, List.erase_cons_head]
  rw [exec_fuseBurn_completed hr (entry_due hburns), htaken]
  exact congrArg (doneFuse s) (clearLatch_keys (s := s) (k := { (burnEntry s).keys with burns := rest }) hl)

end Sys2Proof.Machine
end

section
/-!
SUPPORT. Tamper alarms by the state of their source and of the unit, and the burn that they call for.
-/
namespace Sys2Proof.Machine

open Sys2Proof

/-- Settles O37: each alarm by its source and its moment, and the quarantine entry that heads the burns. -/
theorem tamperAlarms : Obligations.TamperAlarms := by
  refine ⟨?alarms, ?entry⟩
  case alarms =>
    intro source s hs bit_ set enabled calm
    refine ⟨exec_tamperAlarm_ends hs, exec_tamperAlarm_again hs, fun ha => ?_⟩
    rw [exec_tamperAlarm_trips hs ha]
    refine ⟨fun he => ?disabled, fun he => ⟨fun hm => ⟨_, rfl, ?reported⟩, fun hm => ?unpowered⟩⟩
    case disabled => rw [alarm_disabled (s := tripped source s) he]; rfl
    case reported =>
      have hm : Powered (tripped source s) ∨ (tripped source s).sys.mode = .gaspDone :=
        or_assoc.mpr (hm.imp_right or_assoc.mpr)
      by_cases hl : calm
      · obtain ⟨hactive, halarms, hcov, hstore, hrecorder, hcells, hkept, hvault, hkeys, hlatched, hunlatched⟩ :=
          alarm_zeroises (s := tripped source s) he hm hl
        refine ⟨hactive, halarms, rfl, hcov, hstore, ?_, absurd hl,
          fun _ => ⟨hcells, hkept, hvault, hkeys, hlatched, hunlatched⟩⟩
        rw [if_pos hl]
        exact hrecorder.trans (raiseU_recorder_keys _ _ _ s)
      · rw [alarm_reported (s := tripped source s) he hm hl, raiseAlarm_eq]
        refine ⟨rfl, rfl, rfl, rfl, rfl, ?_, fun _ => rfl, fun h => absurd h hl⟩
        rw [if_neg hl]
        exact raiseU_recorder_keys _ _ _ s
    case unpowered =>
      refine ⟨fun hl => ?_, fun hl hnone => ?_⟩
      · rw [alarm_unpowered_ignored (s := tripped source s) hm hl]
        rfl
      · rw [alarm_unpowered (s := tripped source s) he hm hl, setLatch_free (s := tripped source s) _ hnone]
        rfl
  case entry =>
    intro b tick rest l s hr hburns hlatch bit_
    exact ⟨_, exec_fuseBurn_entry hr hburns hlatch, rfl, exec_fuseBurn_failed hr (entry_due hburns) nofun⟩

end Sys2Proof.Machine
end

section
/-!
SUPPORT. Burns of LIFECYCLE bits, and vault writes (R400, R402, R413, R414).
-/
namespace Sys2Proof.Machine

open Sys2Proof

variable {s : State} {tick : BitVec 48}

/-! ### Burns of LIFECYCLE bits (R400, R402) -/

/-- LIFECYCLE bits stand burned, and with a return among them the vault erased. -/
def lifeBurned (bits : BitVec 20) (s : State) : State :=
  let s := if bits.toNat / 2 ^ 11 % 256 ≠ 0 then eraseVault s else s
  { s with keys.fuses.lifecycle := s.keys.fuses.lifecycle ||| bits }

variable {bits : BitVec 20}

theorem lifeBurned_fuses (bits : BitVec 20) (s : State) :
    (lifeBurned bits s).keys.fuses = { s.keys.fuses with lifecycle := s.keys.fuses.lifecycle ||| bits } := by
  unfold lifeBurned
  split <;> rfl

theorem lifeBurned_return (h : bits.toNat / 2 ^ 11 % 256 ≠ 0) : lifeBurned bits s
    = { eraseVault s with keys.fuses.lifecycle := s.keys.fuses.lifecycle ||| bits } := by
  rw [lifeBurned, if_pos h]
  rfl

theorem lifeBurned_noReturn (h : bits.toNat / 2 ^ 11 % 256 = 0) :
    lifeBurned bits s = { s with keys.fuses.lifecycle := s.keys.fuses.lifecycle ||| bits } := by
  rw [lifeBurned, if_neg (not_not_intro h)]

theorem exec_fuseBurn_lifecycle (hr : running s = true) (hf : s.keys.burns.find? (burnDue s) = some (tick, .lifecycle bits))
    (h : bits.getLsbD 19 = false) :
    exec (.fuseBurn true) s = doneFuse s (lifeBurned bits (burnTaken tick (.lifecycle bits) s)) := by
  rw [exec_fuseBurn_completed hr hf]
  simp only [burn, h, Bool.false_eq_true, if_false]
  rfl

theorem exec_fuseBurn_scrap (hr : running s = true) (hf : s.keys.burns.find? (burnDue s) = some (tick, .lifecycle bits))
    (h : bits.getLsbD 19 = true) : exec (.fuseBurn true) s
      = doneFuse s (halt (eraseVault (zeroise (lifeBurned bits (burnTaken tick (.lifecycle bits) s))))) := by
  rw [exec_fuseBurn_completed hr hf]
  simp only [burn, h, if_true]
  rfl

/-! ### Vault writes (R413, R414) -/

/-- The keys block of a vault write: nothing due up to seal `d`, and the copy in the mirror. -/
def vaultKeys (d : BitVec 48) (v : VaultCopy) (k : Keys) : Keys :=
  { k with
    vaultDue := k.vaultDue.filter fun b => decide (d.toNat < b.toNat)
    kept := k.kept.filter fun e => decide (d.toNat < e.1.toNat)
    highGen := v.gen
    mirrorA := if k.mirrorLastB then some v else k.mirrorA
    mirrorB := if k.mirrorLastB then k.mirrorB else some v
    mirrorLastB := !k.mirrorLastB }

/-- The keys block after a vault write that fails. -/
def vaultFailed (k : Keys) : Keys := { k with frozen := true, writeFails := k.writeFails.inc }

variable {d : BitVec 48} {c : Covered}

theorem writeVault_frozen (h : s.keys.frozen = true) (ok : Bool) :
    writeVault ok d c s = { s with keys := vaultKeys d (vaultOf s d c) s.keys } := by
  simp only [writeVault, mirrorVault, vaultKeys, h, if_true]

theorem writeVault_succeeds (h : s.keys.frozen = false) : writeVault true d c s = { s with
    keys := if s.keys.inUseB then { vaultKeys d (vaultOf s d c) s.keys with copyA := some (vaultOf s d c), inUseB := false }
      else { vaultKeys d (vaultOf s d c) s.keys with copyB := some (vaultOf s d c), inUseB := true } } := by
  cases hu : s.keys.inUseB <;>
    simp only [writeVault, mirrorVault, vaultKeys, h, hu, Bool.false_eq_true, if_true, if_false]

theorem writeVault_fails (h : s.keys.frozen = false) : writeVault false d c s = { s with
    keys := vaultFailed (if s.keys.inUseB then { vaultKeys d (vaultOf s d c) s.keys with copyA := none }
      else { vaultKeys d (vaultOf s d c) s.keys with copyB := none })
    recorder := (raiseU 0x8008 [if s.keys.inUseB then 0x810000 else 0x820000] s).recorder } := by
  cases hu : s.keys.inUseB <;>
    simp only [writeVault, mirrorVault, vaultKeys, vaultFailed, raiseU_keys_eq, h, hu, Bool.false_eq_true, if_true, if_false]

theorem exec_vaultWrite_due (hr : running s = true) (hd : s.store.durable = some d) (hc : stateAsOf s d = some c)
    {b : BitVec 48} (hb : b ∈ s.keys.vaultDue) (hdb : b.toNat ≤ d.toNat) (ht : b.toNat + 2 ≤ s.cap.tick.toNat) (ok : Bool) :
    exec (.vaultWrite ok) s = .next (kept s (writeVault ok d c s)) := by
  have hdue : (s.keys.vaultDue.any fun b => decide (b.toNat ≤ d.toNat) && decide (b.toNat + 2 ≤ s.cap.tick.toNat)) = true :=
    List.any_eq_true.mpr ⟨b, hb, by simp only [hdb, ht, decide_true, Bool.and_self]⟩
  change execVaultWrite ok s = _
  simp only [execVaultWrite, hd, hc, Option.bind_some, Option.map_some, mode_of_running hr, beq_self_eq_true, Bool.true_or,
    Bool.true_and, hdue, if_true]
  rfl

theorem exec_vaultWrite_early (h : ∀ b ∈ s.keys.vaultDue, s.cap.tick.toNat < b.toNat + 2) (ok : Bool) :
    exec (.vaultWrite ok) s = .next s := by
  have hdue (d : BitVec 48) :
      (s.keys.vaultDue.any fun b => decide (b.toNat ≤ d.toNat) && decide (b.toNat + 2 ≤ s.cap.tick.toNat)) = false := by
    refine List.any_eq_false.mpr fun b hb => ?_
    simp only [Nat.not_le.mpr (h b hb), decide_false, Bool.and_false, Bool.false_eq_true, not_false_eq_true]
  change execVaultWrite ok s = _
  simp only [execVaultWrite, hdue, Bool.and_false, Bool.false_eq_true, if_false]
  split <;> rfl

end Sys2Proof.Machine
end

section
/-!
SUPPORT. Burns and vault writes: what is due, its completion and its outcome.
-/
namespace Sys2Proof.Machine

open Sys2Proof

/-- Settles O38: each kind of burn with its completion, and a vault write by the copy in use and its outcome. -/
theorem burnsAndVaultWrites : Obligations.BurnsAndVaultWrites := by
  refine ⟨?burn, fun s ok h => exec_fuseBurn_none h ok, ?vault, fun s ok h => exec_vaultWrite_early h ok⟩
  case burn =>
    intro s tick b hr hf rest
    refine ⟨fun secret digest ok => ⟨fun hb => exec_fuseBurn_root hr hf hb ok, fun hb => exec_fuseBurn_root hr hf hb ok,
      fun hb => exec_fuseBurn_root hr hf hb ok⟩, ?revoke, ?tamper, ?lifecycle⟩
    case revoke =>
      rintro bits rfl
      exact ⟨exec_fuseBurn_completed hr hf, exec_fuseBurn_failed hr hf nofun⟩
    case tamper =>
      rintro bits rfl
      exact ⟨exec_fuseBurn_completed hr hf, exec_fuseBurn_failed hr hf nofun⟩
    case lifecycle =>
      rintro bits rfl
      refine ⟨exec_fuseBurn_failed hr hf nofun, fun h => ⟨_, exec_fuseBurn_lifecycle hr hf h, ?_⟩,
        fun h => ⟨_, exec_fuseBurn_scrap hr hf h, ?_⟩⟩
      · by_cases hret : bits.toNat / 2 ^ 11 % 256 = 0
        · rw [lifeBurned_noReturn hret]
          exact ⟨rfl, rfl, rfl, rfl, fun _ => ⟨rfl, rfl⟩, fun h => absurd hret h⟩
        · rw [lifeBurned_return hret]
          exact ⟨rfl, rfl, rfl, rfl, fun h => absurd h hret, fun _ => ⟨rfl, rfl, rfl, rfl⟩⟩
      · rw [zeroise_eq]
        exact ⟨lifeBurned_fuses bits _, rfl, rfl, rfl, rfl, rfl, rfl, rfl, rfl, rfl⟩
  case vault =>
    intro s d c b hr hd hc hb hdb ht v k
    have hwrite (ok : Bool) := exec_vaultWrite_due hr hd hc hb hdb ht ok
    simp only [hwrite]
    refine ⟨rfl, rfl, fun hfr ok => ?_, fun hfr => ⟨fun hu => ⟨?_, ?_⟩, fun hu => ⟨?_, ?_⟩⟩⟩
    · rw [writeVault_frozen hfr]
      rfl
    · rw [writeVault_succeeds hfr, if_pos hu]
      rfl
    · rw [writeVault_fails hfr, if_pos hu, if_pos hu]
      rfl
    · rw [writeVault_succeeds hfr, if_neg (Bool.eq_false_iff.mp hu)]
      rfl
    · rw [writeVault_fails hfr, if_neg (Bool.eq_false_iff.mp hu), if_neg (Bool.eq_false_iff.mp hu)]
      rfl

end Sys2Proof.Machine
end

section
/-!
SUPPORT. Burned fuses stay burned: bits, roots, and every command (R391, R400, R613).
-/
namespace Sys2Proof.Machine

open Sys2Proof

/-! ### Bits and bytes -/

theorem bitsStay_refl {w : Nat} (v : BitVec w) : bitsStay v v := BitVec.and_self

theorem bitsStay_or {w : Nat} (v n : BitVec w) : bitsStay v (v ||| n) := by
  refine BitVec.eq_of_getLsbD_eq fun i _ => ?_
  rw [BitVec.getLsbD_and, BitVec.getLsbD_or]
  cases v.getLsbD i <;> rfl

theorem getLsbD_of_bitsStay {w : Nat} {old new : BitVec w} (h : bitsStay old new) {i : Nat} (hi : old.getLsbD i = true) :
    new.getLsbD i = true := by
  have hold : (old &&& new).getLsbD i = true := (congrArg (·.getLsbD i) h).trans hi
  rw [BitVec.getLsbD_and] at hold
  exact (Bool.and_eq_true_iff.mp hold).2

/-- Bytes agree with themselves joined with any others. -/
theorem agrees_or (old new : Bytes) (h : old.length = new.length) : agrees old (List.zipWith (· ||| ·) old new) = true := by
  induction old generalizing new with
  | nil => rfl
  | cons a old ih =>
    cases new with
    | nil => cases h
    | cons b new =>
      have hbit : a &&& ~~~(a ||| b) = 0 := by
        rw [BitVec.not_or, ← BitVec.and_assoc, BitVec.and_not_self]
        exact BitVec.zero_and
      have hrest := ih new (Nat.succ.inj h)
      simp only [agrees, List.zipWith_cons_cons, List.all_cons, hbit, beq_self_eq_true, Bool.true_and] at hrest ⊢
      exact hrest

theorem agrees_self (b : Bytes) : agrees b b = true := by
  have h := agrees_or b b rfl
  rwa [List.zipWith_self, show (fun a : Byte => a ||| a) = id from funext fun _ => BitVec.or_self, List.map_id] at h

theorem fit_of_length {n : Nat} {b : Bytes} (h : b.length = n) : fit n b = b := by
  rw [fit, List.take_of_length_le h.le, h, Nat.sub_self]
  exact List.append_nil b

theorem bytesStay_refl (b : Bytes) : bytesStay b b := agrees_self _

theorem bytesStay_or (old new : Bytes) : bytesStay old (List.zipWith (· ||| ·) (fit 32 old) (fit 32 new)) := by
  have hlen : (List.zipWith (· ||| ·) (fit 32 old) (fit 32 new)).length = 32 := by
    rw [List.length_zipWith, fit_length, fit_length, Nat.min_self]
  rw [bytesStay, fit_of_length hlen]
  exact agrees_or _ _ ((fit_length 32 old).trans (fit_length 32 new).symm)

/-! ### The fuse block -/

theorem RootFuses.stays_refl (r : RootFuses) : r.stays r := ⟨bytesStay_refl _, bytesStay_refl _, id⟩

theorem Fuses.stay_refl (f : Fuses) : f.stay f :=
  ⟨rfl, rfl, rfl, rfl, f.rootP.stays_refl, f.rootF0.stays_refl, f.rootF1.stays_refl, bitsStay_refl _, bitsStay_refl _, bitsStay_refl _⟩

/-- The fuses of `f` with more bits of LIFECYCLE, REVOKE and TAMPER_ENABLE burned. -/
theorem burnedInto_stay (old new : Fuses) : old.stay (burnedInto old new) :=
  ⟨rfl, rfl, rfl, rfl, old.rootP.stays_refl, old.rootF0.stays_refl, old.rootF1.stays_refl, bitsStay_or _ _, bitsStay_or _ _,
    bitsStay_or _ _⟩

theorem Fuses.stay_lifecycle (f : Fuses) (bits : BitVec 20) : f.stay { f with lifecycle := f.lifecycle ||| bits } :=
  ⟨rfl, rfl, rfl, rfl, f.rootP.stays_refl, f.rootF0.stays_refl, f.rootF1.stays_refl, bitsStay_or _ _, bitsStay_refl _, bitsStay_refl _⟩

theorem Fuses.stay_revoke (f : Fuses) (bits : BitVec 2) : f.stay { f with revoke := f.revoke ||| bits } :=
  ⟨rfl, rfl, rfl, rfl, f.rootP.stays_refl, f.rootF0.stays_refl, f.rootF1.stays_refl, bitsStay_refl _, bitsStay_or _ _, bitsStay_refl _⟩

theorem Fuses.stay_tamper (f : Fuses) (bits : BitVec 10) : f.stay { f with tamper := f.tamper ||| bits } :=
  ⟨rfl, rfl, rfl, rfl, f.rootP.stays_refl, f.rootF0.stays_refl, f.rootF1.stays_refl, bitsStay_refl _, bitsStay_refl _, bitsStay_or _ _⟩

/-- A root into which bits have burned. -/
theorem RootFuses.stays_burned (r : RootFuses) (secret digest : Bytes) (completed : Bool) :
    r.stays ⟨List.zipWith (· ||| ·) (fit 32 r.secret) (fit 32 secret), List.zipWith (· ||| ·) (fit 32 r.digest) (fit 32 digest),
      r.done || completed⟩ :=
  ⟨bytesStay_or _ _, bytesStay_or _ _, fun h => by rw [h, Bool.true_or]⟩

theorem burnRoot_stay (f : Fuses) (code : Nat) (secret digest : Bytes) (completed : Bool) :
    f.stay (burnRoot f code secret digest completed) := by
  unfold burnRoot
  split
  · exact ⟨rfl, rfl, rfl, rfl, f.rootP.stays_burned _ _ _, f.rootF0.stays_refl, f.rootF1.stays_refl,
      bitsStay_refl _, bitsStay_refl _, bitsStay_refl _⟩
  · exact ⟨rfl, rfl, rfl, rfl, f.rootP.stays_refl, f.rootF0.stays_burned _ _ _, f.rootF1.stays_refl,
      bitsStay_refl _, bitsStay_refl _, bitsStay_refl _⟩
  · exact ⟨rfl, rfl, rfl, rfl, f.rootP.stays_refl, f.rootF0.stays_refl, f.rootF1.stays_burned _ _ _,
      bitsStay_refl _, bitsStay_refl _, bitsStay_refl _⟩
  · exact f.stay_refl

/-! ### Burns -/

theorem clearLatch_fuses (s : State) : (clearLatch s).keys.fuses = s.keys.fuses := by
  unfold clearLatch
  split
  · rfl
  · rw [raiseU_keys]

theorem zeroise_fuses (s : State) : (zeroise s).keys.fuses = s.keys.fuses := by
  rw [zeroise_eq]
  rfl

theorem burn_stay (b : Burn) (completed : Bool) (s : State) : s.keys.fuses.stay (burn b completed s).keys.fuses := by
  cases b with
  | root code secret digest => exact burnRoot_stay _ _ _ _ _
  | revoke bits => exact Fuses.stay_revoke _ _
  | tamper bits => exact Fuses.stay_tamper _ _
  | quarantineEntry bits =>
    rw [burn, clearLatch_fuses]
    exact Fuses.stay_lifecycle _ _
  | lifecycle bits =>
    have hburned : (burn (.lifecycle bits) completed s).keys.fuses = (lifeBurned bits s).keys.fuses := by
      change (if _ then halt (eraseVault (zeroise (lifeBurned bits s))) else lifeBurned bits s).keys.fuses = _
      split
      · exact zeroise_fuses _
      · rfl
    rw [hburned, lifeBurned_fuses]
    exact Fuses.stay_lifecycle _ _

theorem burnFront_stay (b : Burn) (completed : Bool) {rest s : State} (h : rest.keys.fuses = s.keys.fuses) :
    s.keys.fuses.stay (burnFront b completed rest s).keys.fuses := by
  have hburn : s.keys.fuses.stay (burn b completed rest).keys.fuses := h ▸ burn_stay b completed rest
  cases completed with
  | true => cases b <;> exact hburn
  | false =>
    cases b with
    | root => exact hburn
    | revoke | tamper | lifecycle | quarantineEntry => exact Fuses.stay_refl _

/-! ### Commands -/

variable {c : Instr} {b : StartIn} {s t : State}

theorem exec_fuseBurn_stay {ok : Bool} (h : exec (.fuseBurn ok) s = .next t) : s.keys.fuses.stay t.keys.fuses := by
  change execFuseBurn ok s = _ at h
  unfold execFuseBurn doneFuse at h
  cases h
  simp only []
  split
  · exact Fuses.stay_refl _
  · split
    · exact burnFront_stay _ _ rfl
    · exact Fuses.stay_refl _

theorem exec_start_stay (h : exec (.start b) s = .next t) : s.keys.fuses.stay t.keys.fuses := by
  have hno : ¬StartFaults b s := fun hf => nomatch (exec_start_faults hf).symm.trans h
  obtain ⟨u, hu⟩ := exec_start_completes hno
  cases hu.symm.trans h
  exact burnedInto_stay _ _

theorem exec_stay (h : exec c s = .next t) : s.keys.fuses.stay t.keys.fuses := by
  rcases exec_answers c s with ⟨b, rfl⟩ | ⟨u, hu⟩ | ⟨ok, u, rfl, -⟩ | ⟨_, u, -, hu⟩
  · exact exec_start_stay h
  · rw [(done_frame (hu.symm.trans h)).2.1]
    exact Fuses.stay_refl _
  · exact exec_fuseBurn_stay h
  · cases hu.symm.trans h
    exact burnedInto_stay _ _

/-! ### Steps -/

theorem step_cons {rest : List Instr} (h : s.pending = c :: rest) : step s = exec c { s with pending := rest } := by
  rw [step, h]

theorem step_nil (h : s.pending = []) : step s = .next s := by
  rw [step, h]

theorem step_stay (h : step s = .next t) : s.keys.fuses.stay t.keys.fuses := by
  cases hp : s.pending with
  | nil =>
    cases (step_nil hp).symm.trans h
    exact Fuses.stay_refl _
  | cons c rest => exact exec_stay (s := { s with pending := rest }) ((step_cons hp).symm.trans h)

/-! ### SCRAP (R395) -/

theorem decodeLife_scrap_iff (l : BitVec 20) : decodeLife l.toNat = .scrap ↔ l.getLsbD 19 = true := by
  rw [decodeLife, testBit_toNat, beneath]
  cases l.getLsbD 19 with
  | true => exact iff_of_true (if_pos rfl) rfl
  | false =>
    refine iff_of_false (fun h => ?_) Bool.false_ne_true
    revert h
    simp only [Bool.false_eq_true, if_false]
    repeat' split
    all_goals nofun

theorem step_keeps_scrap (h : step s = .next t) (hs : decodeLife s.keys.fuses.lifecycle.toNat = .scrap) :
    decodeLife t.keys.fuses.lifecycle.toNat = .scrap := by
  obtain ⟨-, -, -, -, -, -, -, hlife, -, -⟩ := step_stay h
  exact (decodeLife_scrap_iff _).mpr (getLsbD_of_bitsStay hlife ((decodeLife_scrap_iff _).mp hs))

end Sys2Proof.Machine
end

section
/-!
SUPPORT. What a step is, and the fuses over a step and over a run.
-/
namespace Sys2Proof.Machine

open Sys2Proof

/-- Settles O1: the queue's front decides what a step does. -/
theorem stepRunsFrontCommand : Obligations.StepRunsFrontCommand := fun _ _ _ h => step_cons h

/-- Settles O2: an empty queue leaves the state as it is. -/
theorem stepIdlesOnEmptyQueue : Obligations.StepIdlesOnEmptyQueue := fun _ h => step_nil h

/-- Settles O4: a step is idle or one command, and each outcome of a command leaves burned bits burned. -/
theorem fusesOnlyBurn : Obligations.FusesOnlyBurn := fun _ _ h => step_stay h

/-- Settles O5, by induction on the run: bit 19 stays burned in each of its steps. -/
theorem scrapIsFinal : Obligations.ScrapIsFinal := by
  intro s l
  induction l generalizing s with
  | nil => exact fun _ _ => List.forall_mem_nil _
  | cons u l ih =>
    rintro ⟨hstep, hrun⟩ hs
    have hu := step_keeps_scrap hstep hs
    exact List.forall_mem_cons.mpr ⟨hu, ih u hrun hu⟩

end Sys2Proof.Machine
end

section
/-!
SUPPORT. The tick PLL by its lock state (R14 to R17).
-/
namespace Sys2Proof.Machine

open Sys2Proof

variable {s : State} {i : Nat} {cause : LockLossCause}

/-- The intervals measured, with the latest in front. -/
abbrev intervalsWith (i : Nat) (s : State) : List Nat := (i :: s.pll.intervals).take 8

theorem takeInterval_freeRun (hl : s.pll.lock = .freeRun) (hp : periodsOk 1 i = true) (ha : averageOk (intervalsWith i s) = true) :
    takeInterval i s = { s with pll.intervals := intervalsWith i s, pll.lock := .acquiring, pll.run := 1 } := by
  simp only [takeInterval, hl, hp, ha, Bool.and_self, if_true]

theorem takeInterval_locks {p : Nat} {rest : List Nat} (hl : s.pll.lock = .acquiring) (hi : s.pll.intervals = p :: rest)
    (hp : periodsOk 1 i = true) (hw : within2 p i = true) (ha : averageOk (intervalsWith i s) = true) (hr : 31 ≤ s.pll.run) :
    takeInterval i s = { s with
      pll.intervals := intervalsWith i s, pll.lock := .locked, pll.run := s.pll.run + 1, pll.steering := true
      pll.events := s.pll.events ++ [(0x0010, [BitVec.ofNat 32 (measuredMilliHz (intervalsWith i s))])] } := by
  have hprev : s.pll.intervals.headD i = p := by rw [hi, List.headD_cons]
  have hrun : 32 ≤ s.pll.run + 1 := Nat.succ_le_succ hr
  simp only [takeInterval, hl, hprev, hp, hw, ha, hrun, Bool.not_true, Bool.and_false, Bool.false_eq_true, if_true, if_false]

theorem loseLock_locked (hl : s.pll.lock = .locked) : loseLock cause s = { s with
    pll.lock := .freeRun, pll.run := 0, pll.steering := false, pll.phase60 := 0, pll.lockLosses := s.pll.lockLosses.inc
    pll.events := s.pll.events ++ [(0x0011, [match cause with | .missed => 0 | .outOfRange => 1])] } := by
  cases cause <;> simp only [loseLock, hl]

theorem loseLock_freeRun (hl : s.pll.lock = .freeRun) : loseLock cause s = s := by
  simp only [loseLock, hl]

theorem exec_zeroCrossing_clock (hc : clockOn s = true) :
    exec (.zeroCrossing (some i)) s = .next (kept s (takeInterval i s)) := whenClock_on hc

theorem exec_crossingMissed_clock (hc : clockOn s = true) : exec (.crossingMissed cause) s = .next (kept s (loseLock cause s)) :=
  whenClock_on hc

theorem exec_crossingMissed_freeRun (hl : s.pll.lock = .freeRun) : exec (.crossingMissed cause) s = .next s := by
  change whenClock s (loseLock cause) = _
  rw [whenClock, loseLock_freeRun hl, ite_self]
  rfl

end Sys2Proof.Machine
end

section
/-!
SUPPORT. The tick PLL, from FREE_RUN to lock and back.
-/
namespace Sys2Proof.Machine

open Sys2Proof

/-- Settles O7: a crossing or a loss by the lock state it meets. -/
theorem tickLockStates : Obligations.TickLockStates := by
  refine ⟨fun s i hc hl hp ha => ?_, fun s i p rest hc hl hi hp hw ha hr => ?_, fun s cause hc hl => ?_,
    fun s cause hl => exec_crossingMissed_freeRun hl⟩
  · rw [exec_zeroCrossing_clock hc, takeInterval_freeRun hl hp ha]
    rfl
  · rw [exec_zeroCrossing_clock hc, takeInterval_locks hl hi hp hw ha hr]
    rfl
  · rw [exec_crossingMissed_clock hc, loseLock_locked hl]
    rfl

end Sys2Proof.Machine
end

section
/-!
SUPPORT. Inputs of the log, and the capture inputs (R19, R23 to R25, R382, R383).
-/
namespace Sys2Proof.Machine

open Sys2Proof

variable {s : State} {e : LogEntry} {pin : Fin 4} {stamp : FullStamp}

/-! ### Where an input goes (R19, R23, R24) -/

/-- On a unit without a partner an input that nothing waits ahead of enters the log, waits, or is dropped. -/
theorem appendInput_single (hs : Settled s) (hr : s.twin.role = .single) : appendInput e s =
    if s.cap.log.takes e then logged e s
    else if queueRoom s e then { s with cap.queue := [e], sys.logDeferred := s.sys.logDeferred.inc }
    else { s with sys.captureDropped := s.sys.captureDropped.inc } := by
  have hq : s.cap.queue = [] := hs.1
  rw [appendInput, settleLog_settled hs, placeInput, hq, enterLog_single e s hr, List.isEmpty_nil, Bool.true_and, List.nil_append]
  rfl

theorem exec_inputAppend_plain (hc : capturing s = true) (h6 : e.port ≠ 6) (h7 : e.port ≠ 7) (hk : e.kind ≠ 5) :
    exec (.inputAppend e none) s = .next (kept s (appendInput e s)) := by
  have hport : ¬((e.port.toNat = 6 ∨ e.port.toNat = 7) ∧ hwCfg s 0x0401 (e.port.toNat - 6) 4 1 0 = 0) := fun h =>
    h.1.elim (fun h => h6 (BitVec.eq_of_toNat_eq h)) fun h => h7 (BitVec.eq_of_toNat_eq h)
  have hfrag : ¬(e.port.toNat = 0 ∧ e.kind = 5 ∧ isFragment e.body = true) := fun h => hk h.2.1
  change execInputAppend e none s = _
  rw [execInputAppend, whenCapturing_on hc]
  simp only [if_neg hport, if_neg hfrag]
  rfl

/-! ### Edges of a capture input (R25, R382) -/

/-- The first edge of a tick, or a further one, stands in the pin's state. -/
def pinEdge (c : Capture) (pin : Nat) (s : State) : State :=
  setPin pin { pinInput s pin with active := true, seen := true, entry := some c } s

theorem exec_pinEvent_first (hc : capturing s = true) (ho : captureOn s pin.val = true) (hn : (pinInput s pin.val).entry = none) :
    exec (.pinEvent pin true stamp) s = .next (kept s (appendInput
      ⟨0, 4, BitVec.ofNat 32 ((stamp.sec.toNat * 1000000000 + stamp.ns.toNat) % 2 ^ 32), captureBytes pin.val true ⟨stamp, 0⟩, none⟩
      (pinEdge ⟨stamp, 0⟩ pin.val s))) := by
  have hr : running s = true := (Bool.and_eq_true_iff.mp (Bool.and_eq_true_iff.mp hc).1).1
  change execPinEvent pin true stamp s = _
  rw [execPinEvent, whenRunning_on hr]
  simp only [hc, ho, hn, Bool.not_true, Bool.or_self, Bool.false_eq_true, if_false, Bool.or_true]
  rfl

theorem exec_pinEvent_further {c : Capture} (hc : capturing s = true) (ho : captureOn s pin.val = true)
    (hn : (pinInput s pin.val).entry = some c) :
    exec (.pinEvent pin true stamp) s =
      .next (kept s (updateCapture pin.val true { c with more := BitVec.ofNat 16 (sat 16 (c.more.toNat + 1)) }
        (pinEdge { c with more := BitVec.ofNat 16 (sat 16 (c.more.toNat + 1)) } pin.val s))) := by
  have hr : running s = true := (Bool.and_eq_true_iff.mp (Bool.and_eq_true_iff.mp hc).1).1
  change execPinEvent pin true stamp s = _
  rw [execPinEvent, whenRunning_on hr]
  simp only [hc, ho, hn, Bool.not_true, Bool.or_self, Bool.false_eq_true, if_false, Bool.or_true]
  rfl

/-! ### PIN_STUCK (R25) -/

theorem capturesOnce_done (h : s.work.handled.contains (0x3000, 0) = true) : capturesOnce s = s := if_pos h

theorem exec_pinStuck_done (hp : Processing s) (h : s.work.handled.contains (0x3000, 0) = true) :
    exec (.pinStuck pin) s = .next (kept s (pinStuck pin.val s)) := by
  change execPinStuck pin s = _
  rw [execPinStuck, whenProcessing_on hp, capturesOnce_done h]

/-- The place of an input's first capture entry in the log, 0 where it has none. -/
def capturePlace (pin : Nat) (s : State) : Nat :=
  ((s.work.log.entries.zipIdx.find? fun e => e.1.kind == 4 && (captureOf e.1).1 == pin).map fun e => e.2).getD 0

theorem pinStuck_raises {n : Nat} (hrun : 1000 ≤ (pinInput s n).heldRun) (hs : (pinInput s n).stuck = false) :
    pinStuck n s = raise (Src.c0 ⟨0, capturePlace n s⟩) 0x0012 [n] (setPin n { pinInput s n with stuck := true } s) :=
  if_pos ⟨hrun, hs⟩

theorem pinStuck_raised {n : Nat} (hs : (pinInput s n).stuck = true) : pinStuck n s = s :=
  if_neg fun h => Bool.eq_false_iff.mp h.2 hs

end Sys2Proof.Machine
end

section
/-!
SUPPORT. The place of an input, and the entries of the capture inputs.
-/
namespace Sys2Proof.Machine

open Sys2Proof

/-- Settles O8: an input of a plain line is appended, and nothing waits ahead of it. -/
theorem inputTakesItsPlace : Obligations.InputTakesItsPlace := by
  rintro s e ⟨hc, hr, hs⟩ h6 h7 hk
  rw [exec_inputAppend_plain hc h6 h7 hk, appendInput_single hs hr]
  split
  · rfl
  · split <;> rfl

/-- Settles O10: the first edge makes the entry, a further one counts in it, and PIN_STUCK rests while it stands. -/
theorem capturedEdges : Obligations.CapturedEdges := by
  refine ⟨?first, ?further, ?stuck, ?again⟩
  case first =>
    rintro s pin stamp p e ⟨hc, hr, hs⟩ ho hn ht
    rw [exec_pinEvent_first hc ho hn, appendInput_single (s := pinEdge ⟨stamp, 0⟩ pin.val s) hs hr,
      if_pos (c := (pinEdge ⟨stamp, 0⟩ pin.val s).cap.log.takes e = true) ht]
    rfl
  case further =>
    intro s pin stamp c c' hc ho hn
    rw [exec_pinEvent_further hc ho hn]
    rfl
  case stuck =>
    intro s pin hp hd hrun hs
    refine ⟨capturePlace pin.val s, ?_⟩
    rw [exec_pinStuck_done hp hd, pinStuck_raises hrun hs]
    rfl
  case again =>
    intro s pin hp hd hs
    rw [exec_pinStuck_done hp hd, pinStuck_raised hs]
    rfl

end Sys2Proof.Machine
end

section
/-!
SUPPORT. The instructions of the test access port by what the life cycle permits, and the sampled cells as a number
(R584, R586, R587).
-/
namespace Sys2Proof.Machine

open Sys2Proof

/-- The number that a row of cells leaves as at TDO, the first cell as its lowest bit. -/
def shiftedOut (cells : List Bool) : Nat := cells.foldr (fun b v => 2 * v + bit b) 0

theorem shiftedOut_testBit (cells : List Bool) (i : Nat) : (shiftedOut cells).testBit i = cells.getD i false := by
  induction cells generalizing i with
  | nil => rw [shiftedOut, List.foldr_nil, Nat.zero_testBit, List.getD_nil]
  | cons b cells ih =>
    change (2 * shiftedOut cells + bit b).testBit i = _
    cases i with
    | zero => cases b <;> simp [bit, Nat.testBit_zero]
    | succ i =>
      have hbit : bit b < 2 := by cases b <;> decide
      have hhalf : (2 * shiftedOut cells + bit b) / 2 = shiftedOut cells := by omega
      rw [Nat.testBit_succ, hhalf, ih, List.getD_cons_succ]

/-- A row of 166 cells needs no filling. -/
theorem filled_cells {cells : List Bool} (h : cells.length = 166) : (cells ++ List.replicate 166 false).take 166 = cells := by
  rw [← h, List.take_left]

variable {s : State}

theorem scanPermitted_iff : scanPermitted s = true ↔ hwLifeState s = .manufacture ∨ hwLifeState s = .provision := by
  unfold scanPermitted
  cases hwLifeState s <;> simp

theorem loadScan_permitted (h : hwLifeState s = .manufacture ∨ hwLifeState s = .provision) (code : BitVec 4) :
    loadScan code s = { s with test.tap := { s.test.tap with inst := code, shifted := 0 } } :=
  if_pos (scanPermitted_iff.mpr h)

theorem loadScan_refused (hm : hwLifeState s ≠ .manufacture) (hp : hwLifeState s ≠ .provision) (code : BitVec 4) :
    loadScan code s = refuseInstruction s :=
  if_neg fun h => (scanPermitted_iff.mp h).elim hm hp

end Sys2Proof.Machine
end

section
/-!
SUPPORT. The instructions of the test access port, and the outputs of each mode.
-/
namespace Sys2Proof.Machine

open Sys2Proof

/-- Settles O17: each instruction by its code, those that take the balls by the life-cycle state. -/
theorem testPortInstructions : Obligations.TestPortInstructions := by
  refine ⟨fun _ => rfl, fun _ => rfl, fun _ => rfl, ?sample, ?permitted, ?refused⟩
  case sample =>
    intro balls preload s hb hp
    refine ⟨shiftedOut balls, ?_, fun i _ => shiftedOut_testBit balls i⟩
    change execSamplePreload balls preload s = _
    simp only [execSamplePreload, filled_cells hb, filled_cells hp]
    rfl
  case permitted =>
    intro s h
    refine ⟨?_, ?_, ?_⟩
    all_goals
      refine congrArg (done s) (loadScan_permitted h _)
  case refused =>
    intro s hm hp t
    exact ⟨congrArg (done s) (loadScan_refused hm hp _), congrArg (done s) (loadScan_refused hm hp _),
      congrArg (done s) (loadScan_refused hm hp _), fun h => congrArg (done s) (if_pos h)⟩

/-- Settles O58: `pinStates` read at each mode, and at the role of a running unit. -/
theorem outputsFollowTheMode : Obligations.OutputsFollowTheMode := by
  intro s pins
  have hpins : pins = pinStates s := rfl
  refine ⟨?unpowered, ?halted, ?waiting, ?resting, ?captures, ?mirror, ?beforeFirst, _, rfl⟩
  case unpowered => rintro (h | h | h) <;> simp only [hpins, pinStates, h]
  case halted => intro h; simp only [hpins, pinStates, h]
  case waiting => intro h; simp only [hpins, pinStates, h]
  case resting => rintro (h | h) <;> simp only [hpins, pinStates, h]
  case captures =>
    intro hm ho hr
    have hc : capturing s = true := by
      rcases hr with hr | hr <;> simp [capturing, running, hm, ho, hr]
    simp only [hpins, pinStates, hm, hc, if_true]
  case mirror =>
    intro hm hr
    have hc : capturing s = false := by simp [capturing, hr]
    simp [hpins, pinStates, hm, hc, hr]
  case beforeFirst =>
    intro hm ho hr hf
    have hc : capturing s = false := by simp [capturing, ho]
    simp [hpins, pinStates, hm, hc, hr, hf]

end Sys2Proof.Machine
end

section
/-!
SUPPORT. The Holham link without injection: its coming up and going down, the retransmit buffer, and the frames it does not take
(R429 to R432).
-/
namespace Sys2Proof.Machine

open Sys2Proof

variable {s : State}

/-! ### Events of the recorder -/

/-- An event outside processing depends on the tick and on the recorder alone. -/
theorem raiseU_recorder_congr {s t : State} (hc : t.cap.tick = s.cap.tick) (hr : t.recorder = s.recorder) (code : Nat)
    (ps : List Nat) : (raiseU code ps t).recorder = (raiseU code ps s).recorder := by
  unfold raiseU
  simp only [hc, hr]
  split <;> rfl

/-- An event of a unit whose tick and recorder are those of `s`. -/
theorem raiseU_of_same {s t : State} (hc : t.cap.tick = s.cap.tick) (hr : t.recorder = s.recorder) (code : Nat)
    (ps : List Nat) : raiseU code ps t = { t with recorder := (raiseU code ps s).recorder } := by
  rw [raiseU_recorder, raiseU_recorder_congr hc hr]

/-- An event of a unit whose twin block changes goes to the recorder alone. -/
theorem raiseU_twin_eq (code : Nat) (ps : List Nat) (w : Twin) (s : State) :
    raiseU code ps { s with twin := w } = { s with twin := w, recorder := (raiseU code ps s).recorder } :=
  raiseU_of_same (s := s) (t := { s with twin := w }) rfl rfl code ps

/-! ### The link comes up and goes down (R429, R431, R432) -/

/-- The HELLO frame that begins the numbering. -/
def firstHello (s : State) : HolhamTx := ⟨holHello, s.cap.tick, 0, helloPayload s⟩

theorem helloPayload_length (s : State) : (helloPayload s).length = 48 := by
  simp [helloPayload, euiBytes, digest8]

theorem exec_holhamLinkUp_up (hon : linkOn s = true) (hup : s.twin.linkUp = false) (hf : faultOn s 5 false = false) :
    exec .holhamLinkUp s = .next { s with
      twin.linkUp := true, twin.txSeq := 1, twin.rxSeq := 0, twin.unacked := [firstHello s]
      out := s.out ++ [.holham (firstHello s) false true] } := by
  let u : State := { s with twin.linkUp := true, twin.txSeq := 0, twin.rxSeq := 0, twin.unacked := [] }
  have hroom : HolhamRoom (helloPayload u).length u := by
    rw [helloPayload_length]
    change unackedBytes [] + _ ≤ _
    decide
  have hsend : sendHello u = framed holHello u.cap.tick (helloPayload u) u := holhamSend_framed _ _ _ u rfl hf hroom
  change execHolhamLinkUp s = _
  rw [execHolhamLinkUp, hon, hup, Bool.not_false, Bool.and_self, if_pos rfl, hsend]
  rfl

theorem exec_holhamLinkUp_again (hup : s.twin.linkUp = true) : exec .holhamLinkUp s = .next s := by
  change execHolhamLinkUp s = _
  rw [execHolhamLinkUp, hup, Bool.not_true, Bool.and_false, if_neg Bool.false_ne_true]
  rfl

theorem exec_holhamLinkDown_up (cause : LinkDownCause) (hon : linkOn s = true) (hup : s.twin.linkUp = true) :
    exec (.holhamLinkDown cause) s = .next { s with
      twin.linkUp := false, twin.unacked := [], twin.linkDowns := s.twin.linkDowns.inc
      recorder := (raiseU 0x9002 [LinkDownCause.code cause] s).recorder } := by
  change execHolhamLinkDown cause s = _
  rw [execHolhamLinkDown, if_pos hon, holhamDown, hup, Bool.not_true, if_neg Bool.false_ne_true]
  rw [raiseU_twin_eq]
  rfl

/-! ### The retransmit buffer (R431) -/

/-- Every unacknowledged frame leaves again, with RETRY. -/
def sentAgain (s : State) : State := { s with
  twin.retransmits := s.twin.retransmits.add s.twin.unacked.length
  out := s.out ++ s.twin.unacked.map fun f => .holham f true true }

theorem pumpTransfer_idle (n : Nat) (ho : s.twin.xferOut = []) (he : s.twin.xferEnd = []) : pumpTransfer n s = s := by
  cases n with
  | zero => rfl
  | succ n =>
    rw [pumpTransfer]
    simp only [ho, he, List.isEmpty_nil, if_true, ite_self]

theorem pumpFill_idle (n : Nat) (h : s.twin.fillNext = none) : pumpFill n s = s := by
  cases n with
  | zero => rfl
  | succ n => simp only [pumpFill, h]

/-- A unit that owes its mirror neither a transfer nor a fill sends nothing on an ACK. -/
theorem pump_idle (ho : s.twin.xferOut = []) (he : s.twin.xferEnd = []) (hf : s.twin.fillNext = none) : pump s = s := by
  simp only [pump, pumpTransfer_idle 8192 ho he, pumpFill_idle 64 hf, ite_self]

section Plain
variable (hl : LinkPlain s)
include hl

theorem exec_holhamRetransmitTimeout_plain : exec .holhamRetransmitTimeout s = .next (sentAgain s) := by
  obtain ⟨hon, hup, -, hf⟩ := hl
  change execHolhamRetransmitTimeout s = _
  rw [execHolhamRetransmitTimeout, hon, hup, Bool.and_self, if_pos rfl, resend_plain s hf]
  rfl

theorem exec_holhamIdleAck_plain : exec .holhamIdleAck s = .next (ackSent s) := by
  obtain ⟨hon, hup, -, hf⟩ := hl
  change execHolhamIdleAck s = _
  rw [execHolhamIdleAck, if_pos hon, holhamAck_sent s hup hf]
  rfl

variable {h : HolhamHdr} {n : BitVec 32}

theorem exec_holhamAck_bad (hc : h.crcOk = false) :
    exec (.holhamAck h n) s = .next { s with twin.crcErrors := s.twin.crcErrors.inc } := by
  change execHolhamAck h n s = _
  rw [execHolhamAck, holhamFrame_plain h _ s hl, hc, if_neg Bool.false_ne_true]
  rfl

variable (hc : h.crcOk = true)
include hc

/-- An ACK that names no frame held. -/
theorem exec_holhamAck_gap (hno : ∀ f ∈ s.twin.unacked, f.seq ≠ n) :
    exec (.holhamAck h n) s = .next (if s.twin.unacked = [] then s else sentAgain s) := by
  have hfind : s.twin.unacked.findIdx? (·.seq == n) = none :=
    List.findIdx?_eq_none_iff.mpr fun f hf => beq_eq_false_iff_ne.mpr (hno f hf)
  change execHolhamAck h n s = _
  rw [execHolhamAck, holhamFrame_plain h _ s hl, hc, if_pos rfl]
  simp only [hfind, List.isEmpty_iff, resend_plain s hl.2.2.2]
  split <;> rfl

/-- An ACK that names the frame `f`. -/
theorem exec_holhamAck_named {before after : List HolhamTx} {f : HolhamTx} (hu : s.twin.unacked = before ++ f :: after)
    (hb : ∀ g ∈ before, g.seq ≠ n) (hf : f.seq = n) :
    exec (.holhamAck h n) s = .next (kept s (pump { s with twin.unacked := after })) := by
  have hfind : s.twin.unacked.findIdx? (·.seq == n) = some before.length := by
    have hnone : before.findIdx? (·.seq == n) = none :=
      List.findIdx?_eq_none_iff.mpr fun g hg => beq_eq_false_iff_ne.mpr (hb g hg)
    rw [hu, List.findIdx?_append, hnone, List.findIdx?_cons, hf, beq_self_eq_true, if_pos rfl]
    simp
  have hdrop : s.twin.unacked.drop (before.length + 1) = after := by
    rw [hu, List.drop_append]
    simp
  change execHolhamAck h n s = _
  rw [execHolhamAck, holhamFrame_plain h _ s hl, hc, if_pos rfl]
  simp only [hfind, hdrop]
  rfl

end Plain

/-! ### Numbered frames (R430, R431) -/

/-- A numbered frame of the peer comes in by `holhamIn`, whatever it does then. -/
theorem exec_holhamHeader {c : Instr} {h : HolhamHdr} (hh : holhamHeader c = some h) : ∃ f, exec c s = holhamIn h f s := by
  cases c <;> cases hh
  case hello p => exact ⟨_, (rfl : execHello h p s = _)⟩
  case log es => exact ⟨_, (rfl : execLog h es s = _)⟩
  case logEnd p => exact ⟨_, (rfl : execLogEnd h p s = _)⟩
  case lease => exact ⟨_, (rfl : execLease h s = _)⟩
  case status p arrival => exact ⟨_, (rfl : execStatus h p arrival s = _)⟩
  case rejoin durable arrival => exact ⟨_, (rfl : execRejoin h durable arrival s = _)⟩
  case handover transfer hash => exact ⟨_, (rfl : execHandover h transfer hash s = _)⟩
  case answer accept cause => exact ⟨_, (rfl : execAnswer h accept cause s = _)⟩
  case xfer payload => exact ⟨_, (rfl : execXfer h payload s = _)⟩
  case xferEnd p => exact ⟨_, (rfl : execXferEnd h p s = _)⟩
  case fill slots last => exact ⟨_, (rfl : execFill h slots last s = _)⟩

variable {h : HolhamHdr} {f : State → State}

theorem holhamIn_down (hd : s.twin.linkUp = false ∨ linkOn s = false) : holhamIn h f s = .next s := by
  have hguard : (!linkOn s || !s.twin.linkUp) = true := by
    rcases hd with hd | hd
    · rw [hd, Bool.not_false, Bool.or_true]
    · rw [hd, Bool.not_false, Bool.true_or]
  rw [holhamIn, holhamFrame, if_pos hguard]
  rfl

theorem holhamIn_bad (hl : LinkPlain s) (hc : h.crcOk = false) :
    holhamIn h f s = .next { s with twin.crcErrors := s.twin.crcErrors.inc } := by
  rw [holhamIn, holhamFrame_plain h _ s hl, hc, if_neg Bool.false_ne_true]
  rfl

end Sys2Proof.Machine
end

section
/-!
SUPPORT. The Holham link of a pair.
-/
namespace Sys2Proof.Machine

open Sys2Proof

/-- Settles O39: the link's own commands, and what a frame comes to by its CRC and its number. -/
theorem holhamLink : Obligations.HolhamLink := by
  refine ⟨?up, ?down, ?plain, ?frames⟩
  case up =>
    intro s hon hup hf role f
    rw [exec_holhamLinkUp_up hon hup hf]
    have hrole : helloRole s = role := rfl
    have hframe : firstHello s = f := by simp only [firstHello, helloPayload, hrole]; rfl
    rw [hframe]
  case down =>
    intro cause s hon hup
    refine ⟨exec_holhamLinkUp_again hup, ?_⟩
    rw [exec_holhamLinkDown_up cause hon hup]
    cases cause <;> rfl
  case plain =>
    intro s hl again
    refine ⟨exec_holhamRetransmitTimeout_plain hl, exec_holhamIdleAck_plain hl, fun h n hc => ⟨?gap, ?none, ?named⟩,
      fun h n hc => exec_holhamAck_bad hl hc⟩
    case gap =>
      intro hno hne
      rw [exec_holhamAck_gap hl hc hno, if_neg hne]
      rfl
    case none =>
      intro hnil
      rw [exec_holhamAck_gap hl hc (by rw [hnil]; exact List.forall_mem_nil _), if_pos hnil]
    case named =>
      intro before f after hu hb hf ho he hfill
      rw [exec_holhamAck_named hl hc hu hb hf, pump_idle (s := { s with twin.unacked := after }) ho he hfill]
      rfl
  case frames =>
    intro c h s hh
    obtain ⟨f, hexec⟩ := exec_holhamHeader (s := s) hh
    rw [hexec]
    refine ⟨holhamIn_down, fun hl => ⟨holhamIn_bad hl, fun hc hn => ?_⟩⟩
    rw [holhamIn_other h f s hl hc hn]
    rfl

end Sys2Proof.Machine
end

section
/-!
SUPPORT. HELLO and the pairing table, row by row (R428, R432, R433, R442, R447).
-/
namespace Sys2Proof.Machine

open Sys2Proof

variable {s t : State} {p : HelloIn}

/-! ### What a sent frame leaves -/

theorem OnlyLink.sys (h : OnlyLink s t) : t.sys = s.sys := by unfold OnlyLink at h; rw [h]

theorem OnlyLink.cov (h : OnlyLink s t) : t.cov = s.cov := by unfold OnlyLink at h; rw [h]

/-- The twin block but for the numbering and the buffer of the link. -/
structure SameSide (a b : Twin) : Prop where
  role    : b.role = a.role
  standby : b.standby = a.standby
  asked   : b.asked = a.asked
  peer    : b.peer = a.peer
  rxSeq   : b.rxSeq = a.rxSeq
  paired  : b.paired = a.paired

theorem OnlyLink.twin (h : OnlyLink s t) : SameSide s.twin t.twin := by
  unfold OnlyLink at h
  refine ⟨?_, ?_, ?_, ?_, ?_, ?_⟩ <;> rw [h]

/-- The unit asks for a transfer. -/
def asking (s : State) : State :=
  { s with twin.asked := true, twin.xferIn := [], twin.xferCount := 0, twin.loaded := none }

theorem sendRejoin_link (hup : s.twin.linkUp = true) : OnlyLink (asking s) (sendRejoin s) := by
  rw [sendRejoin, hup, Bool.not_true, if_neg Bool.false_ne_true]
  exact holhamSend_link _ _ _ _

/-! ### The pairing table (R433) -/

/-- The peer's configuration image is this unit's. -/
abbrev Alike (p : HelloIn) (s : State) : Prop := digest8 p.imageDigest = digest8 s.sys.image.digest

theorem sameImage_eq (p : HelloIn) (s : State) : sameImage p s = decide (Alike p s) := beq_eq_decide _ _

/-- The unit's durable seal is the later one, or its EUI-64 the lower one. -/
abbrev OutranksPeer (p : HelloIn) (s : State) : Prop :=
  p.durable.toNat < durableTick s ∨ (p.durable.toNat = durableTick s ∧ ownEui s < p.eui)

/-- Of two starting units with different images this one goes on. -/
abbrev PrevailsAlone (p : HelloIn) (s : State) : Prop :=
  p.role = 0 ∧ ownEui s < p.eui ∧ lifeState s ≠ .quarantine

section SameImage
variable (ha : Alike p s)
include ha

theorem pairingTable_quarantined (hq : lifeState s = .quarantine) :
    pairingTable p s = raiseU 0x900F [1] { becomeStarting s with twin.standby := .held } := by
  have hs := (sameImage_eq p s).trans (decide_eq_true ha)
  simp only [pairingTable, hs, hq, beq_self_eq_true, if_true]

variable (hq : lifeState s ≠ .quarantine)
include hq

theorem pairingTable_ofPrimary (hr : p.role = 1) : pairingTable p s = sendRejoin (becomeStarting s) := by
  have hs := (sameImage_eq p s).trans (decide_eq_true ha)
  simp only [pairingTable, hs, beq_false_of_ne hq, hr, Bool.false_eq_true, if_true, if_false]

theorem pairingTable_ofStarting (hr : p.role = 0) :
    pairingTable p s = if OutranksPeer p s then becomePrimary s else becomeStarting s := by
  have hs := (sameImage_eq p s).trans (decide_eq_true ha)
  simp only [pairingTable, hs, beq_false_of_ne hq, hr, Bool.false_eq_true, if_true, if_false]

theorem pairingTable_outranks (hr : p.role = 0) (ho : OutranksPeer p s) : pairingTable p s = becomePrimary s :=
  (pairingTable_ofStarting ha hq hr).trans (if_pos ho)

theorem pairingTable_outranked (hr : p.role = 0) (ho : ¬OutranksPeer p s) : pairingTable p s = becomeStarting s :=
  (pairingTable_ofStarting ha hq hr).trans (if_neg ho)

theorem pairingTable_ofStandby (hr : 2 ≤ p.role) : pairingTable p s = becomePrimary s := by
  have hs := (sameImage_eq p s).trans (decide_eq_true ha)
  obtain ⟨n, hn⟩ := Nat.exists_eq_add_of_le' hr
  simp only [pairingTable, hs, beq_false_of_ne hq, hn, Bool.false_eq_true, if_true, if_false]

end SameImage

theorem pairingTable_otherImage (ha : ¬Alike p s) : pairingTable p s = if PrevailsAlone p s then becomePrimary s
    else toFenced { s with sys.mode := .running, twin.waitingHello := false } := by
  have hs := (sameImage_eq p s).trans (decide_eq_false ha)
  simp only [pairingTable, hs, Bool.false_eq_true, if_false, PrevailsAlone, beq_eq_false_iff_ne]

theorem pairingTable_prevails (ha : ¬Alike p s) (h : PrevailsAlone p s) : pairingTable p s = becomePrimary s :=
  (pairingTable_otherImage ha).trans (if_pos h)

theorem pairingTable_fenced (ha : ¬Alike p s) (h : ¬PrevailsAlone p s) :
    pairingTable p s = toFenced { s with sys.mode := .running, twin.waitingHello := false } :=
  (pairingTable_otherImage ha).trans (if_neg h)

/-- Whatever the table decides, the peer's HELLO, the numbering and the state objects stand. -/
structure PairingKeeps (s t : State) : Prop where
  cov    : t.cov = s.cov
  peer   : t.twin.peer = s.twin.peer
  rxSeq  : t.twin.rxSeq = s.twin.rxSeq
  paired : t.twin.paired = s.twin.paired

theorem PairingKeeps.refl (s : State) : PairingKeeps s s := ⟨rfl, rfl, rfl, rfl⟩

theorem raiseU_pairingKeeps (code : Nat) (ps : List Nat) (h : PairingKeeps s t) : PairingKeeps s (raiseU code ps t) := by
  obtain ⟨hcov, hpeer, hrx, hpaired⟩ := h
  refine ⟨?_, ?_, ?_, ?_⟩
  · rw [raiseU_cov, hcov]
  all_goals rw [raiseU_twin]; assumption

theorem sendRejoin_pairingKeeps (h : PairingKeeps s t) : PairingKeeps s (sendRejoin t) := by
  cases hup : t.twin.linkUp with
  | false => rwa [sendRejoin, hup, Bool.not_false, if_pos rfl]
  | true =>
    have hlink := sendRejoin_link hup
    obtain ⟨-, -, -, hpeer, hrx, hpaired⟩ := hlink.twin
    exact ⟨hlink.cov.trans h.cov, hpeer.trans h.peer, hrx.trans h.rxSeq, hpaired.trans h.paired⟩

theorem pairingTable_keeps (p : HelloIn) (s : State) : PairingKeeps s (pairingTable p s) := by
  by_cases ha : Alike p s
  · by_cases hq : lifeState s = .quarantine
    · rw [pairingTable_quarantined ha hq]
      exact raiseU_pairingKeeps _ _ ⟨rfl, rfl, rfl, rfl⟩
    · rcases (by omega : p.role = 1 ∨ p.role = 0 ∨ 2 ≤ p.role) with hr | hr | hr
      · rw [pairingTable_ofPrimary ha hq hr]
        exact sendRejoin_pairingKeeps ⟨rfl, rfl, rfl, rfl⟩
      · rw [pairingTable_ofStarting ha hq hr]
        split <;> exact ⟨rfl, rfl, rfl, rfl⟩
      · rw [pairingTable_ofStandby ha hq hr]
        exact ⟨rfl, rfl, rfl, rfl⟩
  · rw [pairingTable_otherImage ha]
    split <;> exact ⟨rfl, rfl, rfl, rfl⟩

/-! ### HELLO (R432, R442, R447) -/

/-- The pairing of the unit is open. -/
abbrev PairingOpen (s : State) : Prop := s.sys.mode = .waiting ∨ (s.twin.role = .mirror ∧ s.twin.standby = .starting)

theorem pairingOpen_iff : pairingOpen s = true ↔ PairingOpen s := by
  simp only [pairingOpen, PairingOpen, Bool.or_eq_true, Bool.and_eq_true, beq_iff_eq]

/-- A HELLO of a primary has the unit rejoin. -/
abbrev RejoinsAt (p : HelloIn) (s : State) : Prop :=
  s.twin.role = .mirror ∧ Alike p s ∧ p.role = 1 ∧ s.twin.standby ≠ .synced ∧ s.twin.standby ≠ .held

theorem settleHello_open (h : PairingOpen s) : settleHello p s = pairingTable p s := if_pos (pairingOpen_iff.mpr h)

theorem settleHello_closed (h : ¬PairingOpen s) : settleHello p s = if RejoinsAt p s then toRejoining s else s := by
  have hguard : (sameImage p s && p.role == 1 && s.twin.role == .mirror && s.twin.standby != .synced && s.twin.standby != .held)
      = true ↔ RejoinsAt p s := by
    simp only [sameImage_eq, RejoinsAt, Bool.and_eq_true, decide_eq_true_eq, beq_iff_eq, bne_iff_ne]
    tauto
  rw [settleHello, if_neg fun ho => h (pairingOpen_iff.mp ho)]
  exact if_congr hguard rfl rfl

theorem settleHello_rejoins (h : ¬PairingOpen s) (hr : RejoinsAt p s) : settleHello p s = toRejoining s :=
  (settleHello_closed h).trans (if_pos hr)

theorem settleHello_stays (h : ¬PairingOpen s) (hr : ¬RejoinsAt p s) : settleHello p s = s :=
  (settleHello_closed h).trans (if_neg hr)

theorem settleHello_keeps (p : HelloIn) (s : State) : PairingKeeps s (settleHello p s) := by
  by_cases h : PairingOpen s
  · rw [settleHello_open h]
    exact pairingTable_keeps p s
  · rw [settleHello_closed h]
    split
    · exact sendRejoin_pairingKeeps ⟨rfl, rfl, rfl, rfl⟩
    · exact .refl s

/-- The peer's HELLO is kept, and its events stand in the recorder. -/
def heard (p : HelloIn) (s : State) : State := { s with twin.peer := some p, recorder := (noteHello p s).recorder }

theorem noteHello_eq (p : HelloIn) (s : State) : noteHello p s = heard p s := by
  unfold heard noteHello
  simp only [raiseU_twin_eq]
  split
  · rfl
  · rw [raiseU_recorder]

/-- What a HELLO leaves beside the event of the first pairing is what its pairing decides. -/
structure SettledBy (u t : State) : Prop where
  sys     : t.sys = u.sys
  cov     : t.cov = u.cov
  role    : t.twin.role = u.twin.role
  standby : t.twin.standby = u.twin.standby
  asked   : t.twin.asked = u.twin.asked
  peer    : t.twin.peer = u.twin.peer
  rxSeq   : t.twin.rxSeq = u.twin.rxSeq

theorem pairedEvent_settledBy (p : HelloIn) (s : State) : SettledBy s (pairedEvent p s) ∧ (pairedEvent p s).twin.paired = true := by
  unfold pairedEvent
  split
  next h => exact ⟨⟨rfl, rfl, rfl, rfl, rfl, rfl, rfl⟩, h⟩
  next =>
    refine ⟨⟨?_, ?_, ?_, ?_, ?_, ?_, ?_⟩, ?_⟩
    · rw [raiseU_sys]
    · rw [raiseU_cov]
    all_goals rw [raiseU_twin]

theorem takeHello_settledBy (p : HelloIn) (s : State) : SettledBy (settleHello p (heard p s)) (takeHello p s)
    ∧ (takeHello p s).twin.paired = (s.twin.paired || decide (Alike p s)) := by
  have halike : sameImage p (heard p s) = decide (Alike p s) := sameImage_eq p s
  rw [takeHello]
  simp only [noteHello_eq, halike, decide_eq_true_eq]
  split
  next ha =>
    rw [decide_eq_true ha, Bool.or_true]
    exact pairedEvent_settledBy p _
  next ha =>
    refine ⟨⟨rfl, rfl, rfl, rfl, rfl, rfl, rfl⟩, ?_⟩
    rw [(settleHello_keeps p _).paired, decide_eq_false ha, Bool.or_false]
    rfl

theorem exec_hello_next {h : HolhamHdr} (hl : LinkPlain s) (hn : NextFrame h s) :
    exec (.hello h p) s = .next (kept s (takeHello p (acked s))) := by
  change execHello h p s = _
  rw [execHello, holhamIn_next h _ s hl hn]
  rfl

end Sys2Proof.Machine
end

section
/-!
SUPPORT. A HELLO in order, by the pairing that it meets.
-/
namespace Sys2Proof.Machine

open Sys2Proof

/-- Settles O40: the row of the pairing table that the HELLO and the unit select. -/
theorem helloPairs : Obligations.HelloPairs := by
  intro h p s hl hn alike pairing own durable quarantined
  obtain ⟨⟨hsys, hcov, hrole, hstandby, hasked, hpeer, hrx⟩, hpaired⟩ := takeHello_settledBy p (acked s)
  have hkeeps := settleHello_keeps p (heard p (acked s))
  have hopen (ho : pairing) : settleHello p (heard p (acked s)) = pairingTable p (heard p (acked s)) := settleHello_open ho
  refine ⟨_, exec_hello_next hl hn, hpeer.trans hkeeps.peer, hrx.trans hkeeps.rxSeq, hcov.trans hkeeps.cov, hpaired, ?_⟩
  simp only [kept_sys, kept_twin, hsys, hrole, hstandby, hasked]
  refine ⟨fun ho ha hq => ?held, fun ho ha hq => ⟨fun hr => ?ofPrimary, fun hr hrank => ?outranks, fun hr hrank => ?outranked,
    fun hr => ?ofStandby⟩, fun ho ha => ⟨fun hr he hq => ?prevails, fun hno => ?fenced⟩, fun ho => ?closed⟩
  case held =>
    rw [hopen ho, pairingTable_quarantined (s := heard p (acked s)) ha hq, raiseU_sys, raiseU_twin]
    exact ⟨rfl, rfl, rfl⟩
  case ofPrimary =>
    rw [hopen ho, pairingTable_ofPrimary (s := heard p (acked s)) ha hq hr]
    have hlink := sendRejoin_link (s := becomeStarting (heard p (acked s))) hl.2.1
    obtain ⟨hr', hs', ha', -, -, -⟩ := hlink.twin
    rw [hlink.sys, hr', hs', ha']
    exact ⟨rfl, rfl, rfl, rfl⟩
  case outranks =>
    rw [hopen ho, pairingTable_outranks (s := heard p (acked s)) ha hq hr hrank]
    exact ⟨rfl, rfl, rfl⟩
  case outranked =>
    rw [hopen ho, pairingTable_outranked (s := heard p (acked s)) ha hq hr hrank]
    exact ⟨rfl, rfl, rfl, rfl⟩
  case ofStandby =>
    rw [hopen ho, pairingTable_ofStandby (s := heard p (acked s)) ha hq hr]
    exact ⟨rfl, rfl, rfl⟩
  case prevails =>
    rw [hopen ho, pairingTable_prevails (s := heard p (acked s)) ha ⟨hr, he, hq⟩]
    exact ⟨rfl, rfl⟩
  case fenced =>
    rw [hopen ho, pairingTable_fenced (s := heard p (acked s)) ha hno]
    exact ⟨rfl, rfl, rfl⟩
  case closed =>
    by_cases hrej : RejoinsAt p (heard p (acked s))
    · rw [settleHello_rejoins (s := heard p (acked s)) ho hrej, toRejoining]
      have hlink := sendRejoin_link (s := { heard p (acked s) with
        twin.standby := .rejoining, twin.termAt := none, twin.silentTick := none, twin.lapsed := false }) hl.2.1
      obtain ⟨hr', hs', -, -, -, -⟩ := hlink.twin
      rw [hlink.sys, hr', hs']
      exact ⟨rfl, rfl, (if_pos hrej).symm⟩
    · rw [settleHello_stays (s := heard p (acked s)) ho hrej]
      exact ⟨rfl, rfl, (if_neg hrej).symm⟩

end Sys2Proof.Machine
end

section
/-!
SUPPORT. The primary's logs and its lease at the other unit (R433 to R435, R439, R442, R445, R447).
-/
namespace Sys2Proof.Machine

open Sys2Proof

variable {s : State} {h : HolhamHdr}

/-! ### What a unit keeps of the logs (R428, R434, R447) -/

theorem keepsLogs_iff : keepsLogs s = true ↔ s.twin.role = .mirror ∧ s.twin.standby ≠ .held := by
  simp only [keepsLogs, Bool.and_eq_true, beq_iff_eq, bne_iff_ne]

theorem not_keepsLogs_iff : keepsLogs s = false ↔ s.twin.role ≠ .mirror ∨ s.twin.standby = .held := by
  rw [Bool.eq_false_iff, ne_eq, keepsLogs_iff, not_and_or, not_not]

/-- The logs with `f` on that of tick `t`, which is begun where there is none. -/
def shippedWith (t : BitVec 48) (f : ShippedLog → ShippedLog) (logs : List ShippedLog) : List ShippedLog :=
  if logs.any (·.tick == t) then logs.map (fun l => if l.tick == t then f l else l)
  else logs ++ [f ⟨t, [], false, false, false, 0, []⟩]

/-- The unit holds other logs. -/
def holding (logs : List ShippedLog) (s : State) : State := { s with twin.logs := logs }

theorem modShipped_eq (t : BitVec 48) (f : ShippedLog → ShippedLog) (s : State) :
    modShipped t f s = holding (shippedWith t f s.twin.logs) s := by
  rw [modShipped, shippedWith]
  split <;> rfl

theorem boundLogs_within (hb : heldBytes s.twin.logs ≤ 4194304) : boundLogs s = s := if_pos hb

theorem boundLogs_beyond (hb : 4194304 < heldBytes s.twin.logs) (hs : s.twin.standby ≠ .rejoining) :
    boundLogs s = holding (s.twin.logs.drop 1) s :=
  (if_neg hb.not_ge).trans (if_neg fun hr => hs hr.1)

/-- A log with more entries. -/
def withEntries (es : List LogEntry) (l : ShippedLog) : ShippedLog := { l with entries := l.entries ++ es }

/-- A log that has ended, complete where what has arrived agrees with LOG_END. -/
def logEnded (p : LogEndIn) (l : ShippedLog) : ShippedLog := { l with
  complete := decide (l.entries.length = p.entries) && decide ((l.entries.flatMap entryBytes).length = p.bytes)
    && decide (sha256 (l.entries.flatMap entryBytes) = p.logHash)
  first := p.first, last := p.last, m := p.m, prevHash := p.prevHash }

/-- The last log of a term is noted. -/
def noteLast (t : BitVec 48) (last : Bool) (s : State) : State :=
  { s with twin.lastLog := if last then some t else s.twin.lastLog }

theorem nextShipped_of_prevSeal {a : BitVec 48} {d : Bytes} (hp : s.sys.prevSeal = some (a, d)) :
    nextShipped s = s.twin.logs.find? fun l => l.tick == a + 1 || (l.first && l.complete && l.m == a) := by
  simp only [nextShipped, hp]

/-! ### A FENCED unit that is renewed (R445) -/

theorem fencedSynced_other (hs : s.twin.standby ≠ .fenced ∨ s.twin.renewed = false) : fencedSynced s = s :=
  if_neg fun ⟨_, hf, hr⟩ => hs.elim (fun hs => hs hf) fun hs => Bool.eq_false_iff.mp hs hr

section Fenced
variable {l : ShippedLog} (hm : s.twin.role = .mirror) (hs : s.twin.standby = .fenced) (hr : s.twin.renewed = true)
  (hl : nextShipped s = some l)
include hm hs hr hl

theorem fencedSynced_continues (hc : l.first = true ∧ l.complete = true) :
    fencedSynced s = { s with twin.standby := .synced, twin.matched := true } := by
  simp only [fencedSynced, hm, hs, hr, hl, hc, and_self, Bool.and_self, if_true]

theorem fencedSynced_waits (hc : ¬(l.first = true ∧ l.complete = true)) : fencedSynced s = s := by
  rw [fencedSynced, if_pos ⟨hm, hs, hr⟩]
  simp only [hl]
  exact if_neg fun hb => hc (Bool.and_eq_true_iff.mp hb)

end Fenced

/-! ### LEASE (R435, R439, R442) -/

/-- The lease is renewed at boundary `t`. -/
def leaseRenewed (t : BitVec 48) (s : State) : State := { s with
  twin.renewal := t, twin.renewed := true, twin.silentTick := none
  cap.tick := if s.cap.tick = t ∨ s.cap.tick = t + 1 then s.cap.tick else t + 1 }

theorem takeLease_other (t : BitVec 48) (hm : s.twin.role ≠ .mirror) : takeLease t s = s := if_pos hm

/-- The REJOIN of a unit whose link takes it. -/
theorem sendRejoin_framed (hup : s.twin.linkUp = true) (hf : faultOn s 5 false = false) (hroom : HolhamRoom 8 s) :
    sendRejoin s = framed holRejoin s.cap.tick (le 6 (durableTick s) ++ [0, 0]) (asking s) := by
  rw [sendRejoin, hup, Bool.not_true, if_neg Bool.false_ne_true]
  exact holhamSend_framed _ _ _ (asking s) hup hf hroom

section Lease
variable (t : BitVec 48) (hm : s.twin.role = .mirror)
include hm

theorem takeLease_mirror : takeLease t s = fencedSynced
    (if s.twin.standby = .starting ∧ s.twin.asked = false then sendRejoin (leaseRenewed t s) else leaseRenewed t s) :=
  if_neg (not_not_intro hm)

theorem takeLease_renews (hf : s.twin.standby ≠ .fenced) (hs : s.twin.standby ≠ .starting ∨ s.twin.asked = true) :
    takeLease t s = leaseRenewed t s := by
  have hno : ¬(s.twin.standby = .starting ∧ s.twin.asked = false) := fun ⟨hst, ha⟩ =>
    hs.elim (fun hs => hs hst) fun hs => Bool.eq_false_iff.mp ha hs
  rw [takeLease_mirror t hm, if_neg hno]
  exact fencedSynced_other (.inl hf)

theorem takeLease_asks (hs : s.twin.standby = .starting) (ha : s.twin.asked = false) (hup : s.twin.linkUp = true)
    (hf : faultOn s 5 false = false) (hroom : HolhamRoom 8 s) : takeLease t s =
      framed holRejoin (leaseRenewed t s).cap.tick (le 6 (durableTick s) ++ [0, 0]) (asking (leaseRenewed t s)) := by
  have hne : s.twin.standby ≠ .fenced := by rw [hs]; decide
  rw [takeLease_mirror t hm, if_pos ⟨hs, ha⟩, sendRejoin_framed (s := leaseRenewed t s) hup hf hroom]
  exact fencedSynced_other (.inl hne)

theorem takeLease_fenced (hs : s.twin.standby = .fenced) : takeLease t s = fencedSynced (leaseRenewed t s) := by
  have hno : ¬(s.twin.standby = .starting ∧ s.twin.asked = false) := fun hst => by
    rw [hs] at hst
    exact absurd hst.1 (by decide)
  rw [takeLease_mirror t hm, if_neg hno]

end Lease

/-! ### The frames -/

section Frames
variable (hl : LinkPlain s) (hn : NextFrame h s)
include hl hn

theorem exec_lease_next : exec (.lease h) s = .next (kept s (takeLease h.tick (acked s))) := by
  change execLease h s = _
  rw [execLease, holhamIn_next h _ s hl hn]
  rfl

theorem exec_log_ignored (es : List LogEntry) (hk : keepsLogs s = false) : exec (.log h es) s = .next (acked s) := by
  have hacked : keepsLogs (acked s) = false := hk
  change execLog h es s = _
  rw [execLog, holhamIn_next h _ s hl hn, hacked, Bool.not_false, if_pos rfl]
  rfl

theorem exec_logEnd_ignored (p : LogEndIn) (hk : keepsLogs s = false) : exec (.logEnd h p) s = .next (acked s) := by
  have hacked : keepsLogs (acked s) = false := hk
  change execLogEnd h p s = _
  rw [execLogEnd, holhamIn_next h _ s hl hn, hacked, Bool.not_false, if_pos rfl]
  rfl

variable (hk : keepsLogs s = true)
include hk

theorem exec_log_kept (es : List LogEntry) : exec (.log h es) s = .next (kept s
    (boundLogs (holding (shippedWith h.tick (withEntries es) s.twin.logs) (acked s)))) := by
  have hacked : keepsLogs (acked s) = true := hk
  change execLog h es s = _
  rw [execLog, holhamIn_next h _ s hl hn, hacked, Bool.not_true, if_neg Bool.false_ne_true, modShipped_eq]
  rfl

theorem exec_logEnd_kept (p : LogEndIn) : exec (.logEnd h p) s = .next (kept s (fencedSynced
    (noteLast h.tick p.last (holding (shippedWith h.tick (logEnded p) s.twin.logs) (acked s))))) := by
  have hacked : keepsLogs (acked s) = true := hk
  change execLogEnd h p s = _
  rw [execLogEnd, holhamIn_next h _ s hl hn, hacked, Bool.not_true, if_neg Bool.false_ne_true, modShipped_eq]
  have hlast (x : State) : (if p.last = true then { x with twin.lastLog := some h.tick } else x) = noteLast h.tick p.last x := by
    cases p.last <;> rfl
  exact congrArg (fun x => done s (fencedSynced x)) (hlast _)

end Frames

end Sys2Proof.Machine
end

section
/-!
SUPPORT. What the other unit does with a LOG, a LOG_END and a LEASE.
-/
namespace Sys2Proof.Machine

open Sys2Proof

/-- Settles O41: the frames by the standby state they meet. -/
theorem mirrorTakesLogs : Obligations.MirrorTakesLogs := by
  refine ⟨?logs, ?lease⟩
  case logs =>
    intro h es p s hl hn
    refine ⟨fun hno => ?_, fun hm hs => ?_⟩
    · have hk := not_keepsLogs_iff.mpr hno
      exact ⟨exec_log_ignored hl hn es hk, exec_logEnd_ignored hl hn p hk⟩
    · have hk := keepsLogs_iff.mpr ⟨hm, hs⟩
      intro held added
      have hadded : added = shippedWith h.tick (withEntries es) s.twin.logs := rfl
      rw [hadded, exec_log_kept hl hn hk es, exec_logEnd_kept hl hn hk p]
      refine ⟨fun hb => ?within, fun hb hr => ?beyond, fun hf => ?ended⟩
      case within => rw [boundLogs_within (s := holding (shippedWith h.tick (withEntries es) s.twin.logs) (acked s)) hb]; rfl
      case beyond => rw [boundLogs_beyond (s := holding (shippedWith h.tick (withEntries es) s.twin.logs) (acked s)) hb hr]; rfl
      case ended =>
        rw [fencedSynced_other (s := noteLast h.tick p.last (holding (shippedWith h.tick (logEnded p) s.twin.logs) (acked s))) hf]
        rfl
  case lease =>
    intro h s hl hn
    rw [exec_lease_next hl hn]
    refine ⟨fun hm => ?other, fun hm => ?mirror⟩
    case other => rw [takeLease_other (s := acked s) _ hm]; rfl
    case mirror =>
      intro renewed
      refine ⟨fun hf hs => ?renews, fun hs ha hroom => ?asks, fun hs a d l hp hfind => ?fenced⟩
      case renews => rw [takeLease_renews (s := acked s) _ hm hf hs]; rfl
      case asks => rw [takeLease_asks (s := acked s) _ hm hs ha hl.2.1 hl.2.2.2 hroom]; rfl
      case fenced =>
        have hnext : nextShipped (leaseRenewed h.tick (acked s)) = some l :=
          (nextShipped_of_prevSeal (s := leaseRenewed h.tick (acked s)) hp).trans hfind
        rw [takeLease_fenced (s := acked s) _ hm hs]
        refine ⟨fun hc => ?_, fun hc => ?_⟩
        · rw [fencedSynced_continues (s := leaseRenewed h.tick (acked s)) hm hs rfl hnext hc]
          rfl
        · rw [fencedSynced_waits (s := leaseRenewed h.tick (acked s)) hm hs rfl hnext hc]
          rfl

end Sys2Proof.Machine
end

section
/-!
SUPPORT. A unit whose peer falls silent: its logs and its lease, the witness, and the end of a term (R426, R436, R439 to R442).
-/
namespace Sys2Proof.Machine

open Sys2Proof

variable {s : State}

/-! ### The logs and the lease of a mirror (R436, R439) -/

/-- The unit goes to REJOINING. -/
def rejoining (s : State) : State :=
  { s with twin.standby := .rejoining, twin.termAt := none, twin.silentTick := none, twin.lapsed := false }

theorem toRejoining_framed (hup : s.twin.linkUp = true) (hf : faultOn s 5 false = false) (hroom : HolhamRoom 8 s) :
    toRejoining s = framed holRejoin s.cap.tick (le 6 (durableTick s) ++ [0, 0]) (asking (rejoining s)) :=
  sendRejoin_framed (s := rejoining s) hup hf hroom

section Synced
variable (hm : s.sys.mode = .running) (hr : s.twin.role = .mirror) (hs : s.twin.standby = .synced)
include hm hr hs

theorem exec_mirrorLogIncomplete_due {a : BitVec 48} {d : Bytes} (ho : s.work.isOpen = false)
    (ht : s.cap.tick.toNat ≤ s.twin.renewal.toNat + 2) (hl : s.twin.lastLog = none) (hp : s.sys.prevSeal = some (a, d))
    (ha : a.toNat + 3 ≤ s.cap.tick.toNat) : exec .mirrorLogIncomplete s
      = .next (kept s (if ((nextShipped s).any fun l => l.complete) = false then toRejoining s else s)) := by
  change execMirrorLogIncomplete s = _
  simp only [execMirrorLogIncomplete, hm, hr, hs, ho, ht, hl, hp, ha, Option.any_some, decide_true, and_true, true_and]
  rfl

variable (hterm : s.twin.termAt = none) (hl : s.twin.lastLog = none)
include hterm hl

theorem exec_orphanDetect_old (ht : s.twin.renewal.toNat + 2 ≤ s.cap.tick.toNat) : exec .orphanDetect s = .next { s with
    twin.standby := .orphaned, twin.queryTick := none, twin.silentTick := none, twin.lapsed := false
    recorder := (raiseU 0x9004 [s.twin.renewal.toNat % 2 ^ 32] s).recorder } := by
  change execOrphanDetect s = _
  rw [execOrphanDetect, if_pos ⟨hm, hr, hs, ht, hterm, by rw [hl]; rfl⟩, raiseU_twin_eq]
  rfl

omit hm hr hs hterm hl in
theorem exec_orphanDetect_fresh (ht : s.cap.tick.toNat < s.twin.renewal.toNat + 2) : exec .orphanDetect s = .next s := by
  change execOrphanDetect s = _
  rw [execOrphanDetect, if_neg fun h => absurd h.2.2.2.1 ht.not_ge]
  rfl

end Synced

theorem exec_leaseLapse_old (hr : s.twin.role = .mirror) (hs : s.twin.standby = .orphaned)
    (ht : s.twin.renewal.toNat + 51 ≤ s.cap.tick.toNat) : exec .leaseLapse s = .next { s with twin.lapsed := true } := by
  change execLeaseLapse s = _
  rw [execLeaseLapse, if_pos ⟨hr, hs, ht⟩]
  rfl

theorem exec_leaseLapse_fresh (ht : s.cap.tick.toNat < s.twin.renewal.toNat + 51) : exec .leaseLapse s = .next s := by
  change execLeaseLapse s = _
  rw [execLeaseLapse, if_neg fun h => absurd h.2.2 ht.not_ge]
  rfl

/-! ### The witness (R439, R442, R486) -/

/-- An ORPHANED mirror. -/
abbrev Orphan (s : State) : Prop := s.sys.mode = .running ∧ s.twin.role = .mirror ∧ s.twin.standby = .orphaned

/-- A starting unit after its wait for HELLO. -/
abbrev StartsAlone (s : State) : Prop := s.sys.mode = .waiting ∧ s.twin.waitingHello = false

theorem queries_iff (hw : witnessSet s = true) : queries s = true ↔ Orphan s ∨ StartsAlone s := by
  simp only [queries, hw, Bool.true_and, Bool.or_eq_true, Bool.and_eq_true, beq_iff_eq, Bool.not_eq_true', and_assoc]
  exact or_comm

/-- A query is noted, and a PEER_SILENT from before it stands no more. -/
def queryNoted (s : State) : State := { s with twin.queryTick := some (queryClock s), twin.silentTick := none }

/-- The body of a query (R486). -/
def queryBody (s : State) : Bytes :=
  [BitVec.ofNat 8 (queryKind s)] ++ zeros 7 ++ euiBytes (ownEui s) ++ le 8 (ledgerIdOf s)
    ++ le 6 (if queryKind s = 1 then durableTick s else 0) ++ zeros 2

/-- A message for the witness leaves by the head-end port. -/
def witnessSent (type : Nat) (body : Bytes) (s : State) : State := { s with
  freeCtr := s.freeCtr + 1
  out := s.out ++ [.beysynTo (addrOf (cfgBytes s.hw.records 0x0901 0 8 16)) (BitVec.ofNat 16 (hwCfg s 0x0003 0 0x12 2 49742))
    (messageBytes type (Config.freeWord s.freeCtr) (s.sys.prevSeal.map (·.1)) 0 body)] }

theorem toWitness_down (type : Nat) (body : Bytes) (h : s.bey.witnessUp = false) : toWitness type body s = s := by
  rw [toWitness, h, Bool.not_false, if_pos rfl]

theorem toWitness_up (type : Nat) (body : Bytes) (h : s.bey.witnessUp = true) (hf : faultOn s (0x10 + headPort s) false = false) :
    toWitness type body s = witnessSent type body s := by
  rw [toWitness, h, Bool.not_true, if_neg Bool.false_ne_true]
  exact ethernetOut_plain _ _ _ hf

section Querying
variable (hq : queries s = true)
include hq

theorem exec_witnessQuery_due (ht : s.twin.termAt = none)
    (hd : s.twin.queryTick = none ∨ ∃ q, s.twin.queryTick = some q ∧ q + 10 ≤ queryClock s) :
    exec .witnessQuery s = .next (kept s (toWitness 0x61 (queryBody s) (queryNoted s))) := by
  have hall : (s.twin.queryTick.all fun q => decide (q + 10 ≤ queryClock s)) = true := by
    rcases hd with hd | ⟨q, hd, hle⟩
    · rw [hd, Option.all_none]
    · rw [hd, Option.all_some, decide_eq_true hle]
  change execWitnessQuery s = _
  rw [execWitnessQuery, hq, ht, hall, Option.isNone_none, Bool.and_self, Bool.and_self, if_pos rfl]
  rfl

omit hq in
theorem exec_witnessQuery_early {q : BitVec 48} (hd : s.twin.queryTick = some q) (ht : ¬q + 10 ≤ queryClock s) :
    exec .witnessQuery s = .next s := by
  change execWitnessQuery s = _
  rw [execWitnessQuery, hd, Option.all_some, decide_eq_false ht, Bool.and_false, if_neg Bool.false_ne_true]
  rfl

/-- An answer of the witness stands in the recorder. -/
def answerTold (silent : Bool) (s : State) : State :=
  { s with recorder := (raiseU 0x9005 [bit silent, queryKind s] s).recorder }

variable {q : BitVec 48} (hd : s.twin.queryTick = some q) (silent : Bool)
include hd

theorem exec_witnessAnswer_awaited : exec (.witnessAnswer silent) s = .next (kept s (
    if s.sys.mode = .waiting then
      if silent = true ∧ s.twin.peerN = false then
        { answerTold silent s with twin.termAt := some (s.twin.ownTick + 8) }
      else answerTold silent s
    else { answerTold silent s with
      twin.silentTick := if silent = true ∧ s.twin.peerN = false then some s.cap.tick else none })) := by
  change execWitnessAnswer silent s = _
  rw [execWitnessAnswer, hq, hd, Option.isSome_some, Bool.and_self, if_pos rfl, raiseU_recorder]
  rfl

end Querying

/-! ### The end of a term (R426, R439, R441) -/

theorem exec_heartbeatAck_primary (hr : running s = true) (hp : s.twin.role = .primary) :
    exec .heartbeatAck s = .next { s with twin.ackTick := s.cap.tick } := by
  change execHeartbeatAck s = _
  rw [execHeartbeatAck, whenRunning_on hr, if_pos hp]
  rfl

theorem exec_heartbeatAckTimeout_silent (hc : capturing s = true) (hp : s.twin.role = .primary) (hl : s.twin.linkUp = false)
    (hw : witnessSet s = true) (ht : s.twin.ackTick.toNat + 4 < s.cap.tick.toNat) :
    exec .heartbeatAckTimeout s = .next { s with twin.endDue := true } := by
  change execHeartbeatAckTimeout s = _
  rw [execHeartbeatAckTimeout, whenCapturing_on hc, if_pos ⟨hp, hl, hw, ht⟩]
  rfl

theorem exec_heartbeatAckTimeout_heard (hc : capturing s = true) (ht : s.cap.tick.toNat ≤ s.twin.ackTick.toNat + 4) :
    exec .heartbeatAckTimeout s = .next s := by
  change execHeartbeatAckTimeout s = _
  rw [execHeartbeatAckTimeout, whenCapturing_on hc, if_neg fun h => absurd h.2.2.2 ht.not_gt]
  rfl

variable {peer : BitVec 64}

theorem exec_peerConflict_lower (hr : running s = true) (h : ¬peer < ownEui s) : exec (.peerConflict peer) s = .next s := by
  change execPeerConflict peer s = _
  rw [execPeerConflict, whenRunning_on hr, if_neg fun hc => h hc.2.2]
  rfl

/-- The unit's term has ended before a peer that is primary too, and it is FENCED. -/
def conflictLost (s : State) : State := toFenced (endTerm { s with twin.peerN := true })

theorem exec_peerConflict_higher (hr : running s = true) (hp : s.twin.role = .primary) (hn : s.twin.primaryN = true)
    (h : peer < ownEui s) : exec (.peerConflict peer) s = .next (kept s (settlePins { conflictLost s with
      recorder := (raiseU 0x900D [euiLow peer, peer.toNat / 2 ^ 32] s).recorder })) := by
  change execPeerConflict peer s = _
  rw [execPeerConflict, whenRunning_on hr, if_pos ⟨hp, hn, h⟩]
  have hevent := raiseU_of_same (s := s) (t := conflictLost s) rfl rfl 0x900D [euiLow peer, peer.toNat / 2 ^ 32]
  exact congrArg (fun t => done s (settlePins t)) hevent

end Sys2Proof.Machine
end

section
/-!
SUPPORT. A unit of a pair that misses its peer.
-/
namespace Sys2Proof.Machine

open Sys2Proof

/-- Settles O42: each of the unit's own commands by what it has heard of its peer and of the witness. -/
theorem mirrorWatchesItsPeer : Obligations.MirrorWatchesItsPeer := by
  refine ⟨?synced, ?lapse, ?witness, ?primary⟩
  case synced =>
    intro s hm hr hs
    refine ⟨fun ho ht hl a d hp ha => ?incomplete, fun hterm hl => ⟨exec_orphanDetect_old hm hr hs hterm hl,
      exec_orphanDetect_fresh⟩⟩
    case incomplete =>
      intro next
      have hnext : nextShipped s = next := nextShipped_of_prevSeal hp
      rw [exec_mirrorLogIncomplete_due hm hr hs ho ht hl hp ha, hnext]
      refine ⟨fun l hl' hc => ?complete, fun hno hup hf hroom => ?lacking⟩
      case complete =>
        rw [hl', Option.any_some, hc, if_neg (Ne.symm Bool.false_ne_true)]
        rfl
      case lacking =>
        have hany : (next.any fun l => l.complete) = false := by
          cases hl' : next with
          | none => rfl
          | some l => rw [Option.any_some, hno l hl']
        rw [hany, if_pos rfl, toRejoining_framed hup hf hroom]
        rfl
  case lapse => exact fun s hr hs => ⟨exec_leaseLapse_old hr hs, exec_leaseLapse_fresh⟩
  case witness =>
    intro s hw orphan starting clock kind hos
    have hq : queries s = true := (queries_iff hw).mpr hos
    refine ⟨fun ht hd => ?due, fun q hd ht => exec_witnessQuery_early hd ht, fun q silent hd => ?answer⟩
    case due =>
      rw [exec_witnessQuery_due hq ht hd]
      refine ⟨fun hdown => ?_, fun hup hf => ?_⟩
      · rw [toWitness_down (s := queryNoted s) _ _ hdown]
        rfl
      · rw [toWitness_up (s := queryNoted s) _ _ hup hf]
        rfl
    case answer =>
      rw [exec_witnessAnswer_awaited hq hd silent]
      refine ⟨fun ho => ?_, fun hst => ?_⟩
      · rw [if_neg (by rw [ho.1]; decide)]
        rfl
      · rw [if_pos hst.1]
        by_cases hsilent : silent = true ∧ s.twin.peerN = false
        · rw [if_pos hsilent, if_pos hsilent]
          rfl
        · rw [if_neg hsilent, if_neg hsilent]
          rfl
  case primary =>
    intro s hr hp
    refine ⟨exec_heartbeatAck_primary hr hp, fun hc hl hw => ⟨exec_heartbeatAckTimeout_silent hc hp hl hw,
      exec_heartbeatAckTimeout_heard hc⟩, fun peer hn => ⟨exec_peerConflict_lower hr, fun h => ?conflict⟩⟩
    case conflict =>
      exact ⟨_, exec_peerConflict_higher hr hp hn h, rfl, rfl, rfl, rfl, rfl, rfl, rfl, rfl, rfl, rfl, rfl, rfl⟩

end Sys2Proof.Machine
end

section
/-!
SUPPORT. HANDOVER and ANSWER, and the timeouts of a swap (R443, R445, R446, R450).
-/
namespace Sys2Proof.Machine

open Sys2Proof

variable {s : State} {h : HolhamHdr}

/-! ### HANDOVER (R445, R446) -/

/-- HANDOVER for the seal of tick `t` is held. -/
def handedOver (t : BitVec 48) (hash : Bytes) (transfer : Bool) (s : State) : State :=
  { s with twin.handover := some (t, hash, transfer), twin.xferIn := [], twin.xferCount := 0 }

/-- The HANDOVER that was held is answered. -/
def handoverGone (s : State) : State := { s with twin.handover := none }

/-- The lowest cause that keeps a unit whose latest seal is `p` from accepting, 0 for none. -/
def handoverCause (t : BitVec 48) (hash : Bytes) (p : BitVec 48) (own : Bytes) (s : State) : Byte :=
  if p = t ∧ own ≠ hash then 1 else if s.twin.peerN then 2 else if s.twin.standby ≠ .synced then 3
  else if !(s.twin.peer.any fun q => q.procVersion == s.upd.fw.procVersion) then 4 else 0

/-- An answer of 8 bytes that the link takes. -/
theorem answer_framed {b : Bytes} (t : BitVec 48) (hb : b.length = 8) (hup : s.twin.linkUp = true)
    (hf : faultOn s 5 false = false) (hroom : HolhamRoom 8 s) :
    holhamSend holAnswer t b (handoverGone s) = framed holAnswer t b (handoverGone s) :=
  holhamSend_framed _ _ _ (handoverGone s) hup hf (by rw [hb]; exact hroom)

section Answering
variable {t p : BitVec 48} {hash own : Bytes} (hh : s.twin.handover = some (t, hash, false)) (hp : s.sys.prevSeal = some (p, own))
include hh hp

theorem answerHandover_eq : answerHandover s =
    if p ≠ t ∧ s.twin.standby = .synced then s
    else
      let sent := holhamSend holAnswer t
        ([if handoverCause t hash p own s = 0 then 0 else 1, handoverCause t hash p own s] ++ zeros 6) (handoverGone s)
      if handoverCause t hash p own s = 0 then { sent with twin.termAt := some (t + 2) } else sent := by
  unfold answerHandover
  rw [hh, hp]
  rfl

theorem answerHandover_waits (hw : p ≠ t ∧ s.twin.standby = .synced) : answerHandover s = s :=
  (answerHandover_eq hh hp).trans (if_pos hw)

variable (hw : ¬(p ≠ t ∧ s.twin.standby = .synced)) (hup : s.twin.linkUp = true) (hf : faultOn s 5 false = false)
  (hroom : HolhamRoom 8 s)
include hw hup hf hroom

theorem answerHandover_accepts (hc : handoverCause t hash p own s = 0) : answerHandover s =
    { framed holAnswer t (zeros 8) (handoverGone s) with twin.termAt := some (t + 2) } := by
  have hsent : holhamSend holAnswer t ([0, 0] ++ zeros 6) (handoverGone s) = framed holAnswer t (zeros 8) (handoverGone s) :=
    answer_framed t rfl hup hf hroom
  rw [answerHandover_eq hh hp, if_neg hw, hc]
  simp only [if_true, hsent]

theorem answerHandover_refuses (hc : handoverCause t hash p own s ≠ 0) : answerHandover s =
    framed holAnswer t ([1, handoverCause t hash p own s] ++ zeros 6) (handoverGone s) := by
  rw [answerHandover_eq hh hp, if_neg hw]
  simp only [if_neg hc]
  exact answer_framed t rfl hup hf hroom

end Answering

section Frames
variable (hl : LinkPlain s) (hn : NextFrame h s)
include hl hn

theorem exec_handover_ignored (hm : s.twin.role ≠ .mirror) (transfer : Bool) (hash : Bytes) :
    exec (.handover h transfer hash) s = .next (acked s) := by
  change execHandover h transfer hash s = _
  rw [execHandover, holhamIn_next h _ s hl hn]
  exact congrArg (done s) (if_pos hm)

variable (hm : s.twin.role = .mirror) (hash : Bytes)
include hm

theorem exec_handover_seal (hc : s.closing = none) :
    exec (.handover h false hash) s = .next (kept s (answerHandover (handedOver h.tick hash false (acked s)))) := by
  have hclosing : ¬(handedOver h.tick hash false (acked s)).closing.any (fun c => c.1.tick == h.tick) = true := by
    change ¬s.closing.any _ = true
    rw [hc, Option.any_none]
    exact Bool.false_ne_true
  change execHandover h false hash s = _
  rw [execHandover, holhamIn_next h _ s hl hn]
  refine congrArg (done s) ((if_neg (not_not_intro hm)).trans ?_)
  exact (if_neg Bool.false_ne_true).trans (if_neg hclosing)

theorem exec_handover_transfer : exec (.handover h true hash) s = .next (kept s (
    if s.twin.standby = .held then { handedOver h.tick hash true (acked s) with twin.xferSwap := true }
    else holhamSend holAnswer h.tick ([1, 3] ++ zeros 6) (handoverGone (handedOver h.tick hash true (acked s))))) := by
  change execHandover h true hash s = _
  rw [execHandover, holhamIn_next h _ s hl hn]
  exact congrArg (done s) ((if_neg (not_not_intro hm)).trans (if_pos rfl))

end Frames

/-! ### ANSWER (R445, R446, R450) -/

section Answers
variable {t : BitVec 48} {cause : Nat}

theorem takeAnswer_other (accept : Bool) (hw : s.twin.waitAnswer ≠ some t) : takeAnswer t accept cause s = s :=
  if_pos (.inl hw)

/-- The first tick that the old primary takes from the new one. -/
def firstOfPeer (t : BitVec 48) (s : State) : BitVec 48 := if s.twin.swapTransfer then s.cap.tick + 1 else t + 3

variable (hw : s.twin.waitAnswer = some t) (ht : s.twin.termAt = none)
include hw ht

theorem takeAnswer_awaited (accept : Bool) : takeAnswer t accept cause s =
    if accept then raiseU 0x900B [t.toNat % 2 ^ 32, (firstOfPeer t s).toNat % 2 ^ 32]
      (becomeMirror (firstOfPeer t s - 1) { s with twin.swaps := s.twin.swaps.inc })
    else { s with
      twin.swapRefused := s.twin.swapRefused.inc, twin.termAt := if s.twin.swapTransfer then none else some (t + 2)
      pll.events := s.pll.events ++ [(0x900C, [BitVec.ofNat 32 t.toNat, BitVec.ofNat 32 cause])] } :=
  if_neg fun hno => hno.elim (fun hne => hne hw) fun hsome => by rw [ht] at hsome; exact absurd hsome Bool.false_ne_true

end Answers

theorem exec_answer_next (hl : LinkPlain s) (hn : NextFrame h s) (accept : Bool) (cause : Nat) :
    exec (.answer h accept cause) s = .next (kept s (takeAnswer h.tick accept cause (acked s))) := by
  change execAnswer h accept cause s = _
  rw [execAnswer, holhamIn_next h _ s hl hn]
  rfl

/-! ### No answer (R445, R446) -/

section Timeouts
variable {t : BitVec 48} (hr : running s = true) (hw : s.twin.waitAnswer = some t)
include hr hw

theorem exec_swapAnswerTimeout_late (hx : s.twin.swapTransfer = false) (ht : s.twin.termAt = none)
    (hlate : t.toNat + 3 ≤ s.cap.tick.toNat) : exec .swapAnswerTimeout s = .next (toFenced s) := by
  have hno : ¬(s.twin.swapTransfer = true ∨ s.twin.termAt.isSome = true ∨ s.cap.tick.toNat < t.toNat + 3) := by
    rw [hx, ht]
    simpa using hlate
  change execSwapAnswerTimeout s = _
  rw [execSwapAnswerTimeout, whenRunning_on hr]
  simp only [hw, if_neg hno]
  rfl

theorem exec_swapAnswerTimeout_early (hearly : s.cap.tick.toNat < t.toNat + 3) : exec .swapAnswerTimeout s = .next s := by
  change execSwapAnswerTimeout s = _
  rw [execSwapAnswerTimeout, whenRunning_on hr]
  simp only [hw, hearly, or_true, if_true]
  rfl

theorem exec_transferSwapTimeout_early (hearly : s.cap.tick.toNat < t.toNat + 60) : exec .transferSwapTimeout s = .next s := by
  change execTransferSwapTimeout s = _
  rw [execTransferSwapTimeout, whenRunning_on hr]
  simp only [hw, hearly, decide_true, Bool.or_true, if_true]
  rfl

theorem exec_transferSwapTimeout_late (hx : s.twin.swapTransfer = true) (hlate : t.toNat + 60 ≤ s.cap.tick.toNat) :
    exec .transferSwapTimeout s = .next (kept s (
      if s.twin.peerN then becomeMirror s.cap.tick s else { s with twin.termAt := some (t + 59) })) := by
  have hno : ¬(!s.twin.swapTransfer || decide (s.cap.tick.toNat < t.toNat + 60)) = true := by
    rw [hx, decide_eq_false hlate.not_gt]
    exact Bool.false_ne_true
  change execTransferSwapTimeout s = _
  rw [execTransferSwapTimeout, whenRunning_on hr]
  simp only [hw, if_neg hno]

end Timeouts

end Sys2Proof.Machine
end

section
/-!
SUPPORT. How a term begins (R426, R433, R442, R443, R445, R446).
-/
namespace Sys2Proof.Machine

open Sys2Proof

variable {s t u : State}

/-- What sending, and inputs that enter the log, leave of a unit whose term begins. -/
structure KeepsTerm (s t : State) : Prop where
  mode       : t.sys.mode = s.sys.mode
  takeover   : t.sys.takeover = s.sys.takeover
  cov        : t.cov = s.cov
  isOn       : t.cap.isOn = s.cap.isOn
  tick       : t.cap.tick = s.cap.tick
  role       : t.twin.role = s.twin.role
  primaryN   : t.twin.primaryN = s.twin.primaryN
  termAt     : t.twin.termAt = s.twin.termAt
  waitAnswer : t.twin.waitAnswer = s.twin.waitAnswer
  logs       : t.twin.logs = s.twin.logs
  firstM     : t.twin.firstM = s.twin.firstM
  swaps      : t.twin.swaps = s.twin.swaps

theorem KeepsTerm.trans (h : KeepsTerm s t) (k : KeepsTerm t u) : KeepsTerm s u :=
  ⟨k.mode.trans h.mode, k.takeover.trans h.takeover, k.cov.trans h.cov, k.isOn.trans h.isOn, k.tick.trans h.tick,
    k.role.trans h.role, k.primaryN.trans h.primaryN, k.termAt.trans h.termAt, k.waitAnswer.trans h.waitAnswer,
    k.logs.trans h.logs, k.firstM.trans h.firstM, k.swaps.trans h.swaps⟩

theorem OnlyInputs.keepsTerm (h : OnlyInputs s t) : KeepsTerm s t := by
  refine ⟨?_, ?_, ?_, h.isOn, h.tick, ?_, ?_, ?_, ?_, ?_, ?_, ?_⟩ <;> rw [h.state]

theorem OnlyLine.keepsTerm (h : OnlyLine s t) : KeepsTerm s t := h.onlyLink.inputs.keepsTerm

theorem chargeWindow_phases (s : State) : OnlyPhases s (chargeWindow s) :=
  foldl_inv (OnlyPhases s) _ (fun _ _ ht => ht.trans (modPhase_phases _ _ _)) _ s (.refl s)

theorem startLedgers_cov (us : Nat) (s : State) : (startLedgers us s).cov = s.cov := by
  obtain ⟨a, b, c, h⟩ := chargeWindow_phases s
  change (chargeWindow s).cov = s.cov
  rw [h]

theorem startLedgers_keepsTerm (us : Nat) (s : State) : KeepsTerm s (startLedgers us s) := by
  obtain ⟨hsys, htwin, hcap, -, -⟩ := startLedgers_same us s
  refine ⟨?_, ?_, startLedgers_cov us s, ?_, ?_, ?_, ?_, ?_, ?_, ?_, ?_, ?_⟩
  any_goals rw [hsys]
  any_goals rw [hcap]
  all_goals rw [htwin]

theorem advertiseAll_line (s : State) : OnlyLine s (advertiseAll s) := by
  unfold advertiseAll
  simp only []
  split
  · exact .refl s
  · refine foldl_inv (OnlyLine s) _ (fun t p ht => ?_) _ s (.refl s)
    split
    · exact ht.trans (ethernetOut_line _ _ _)
    · exact ht

theorem closeSessions_keepsTerm (s : State) : KeepsTerm s (closeSessions s) :=
  KeepsTerm.trans (t := { s with bey.dtls := [], bey.own := [], bey.queries := [], bey.tribClients := [], bey.handshakes := 0 })
    ⟨rfl, rfl, rfl, rfl, rfl, rfl, rfl, rfl, rfl, rfl, rfl, rfl⟩ (closeSessions_inputs s).keepsTerm

theorem closeSessions_dtls (s : State) : (closeSessions s).bey.dtls = [] := by
  rw [(closeSessions_inputs s).state]

theorem beginTerm_keepsTerm (s : State) : KeepsTerm (termTaken s) (beginTerm s) := by
  have hledgers := startLedgers_keepsTerm (gapUs s) (termTaken s)
  rw [beginTerm]
  generalize startLedgers (gapUs s) (termTaken s) = t at hledgers ⊢
  exact ((hledgers.trans (advertiseAll_line t).keepsTerm).trans (closeSessions_keepsTerm _)).trans
    (shipLog_inputs false _).keepsTerm

theorem beginTerm_dtls (s : State) : (beginTerm s).bey.dtls = [] := by
  rw [beginTerm]
  generalize advertiseAll _ = t
  rw [(shipLog_inputs false (closeSessions t)).state]
  exact closeSessions_dtls t

/-- The unit is primary, and captures the tick in progress in a term without sessions or shipped logs. -/
structure TermBegun (s u : State) : Prop where
  mode       : u.sys.mode = .running
  role       : u.twin.role = .primary
  primaryN   : u.twin.primaryN = true
  isOn       : u.cap.isOn = true
  tick       : u.cap.tick = s.cap.tick
  takeover   : u.sys.takeover = true
  termAt     : u.twin.termAt = none
  waitAnswer : u.twin.waitAnswer = none
  logs       : u.twin.logs = []
  firstM     : u.twin.firstM = s.sys.prevSeal.map (·.1)
  dtls       : u.bey.dtls = []
  cov        : u.cov = s.cov
  pins       : u.sys.pins = pinStates u

theorem KeepsTerm.begun (h : KeepsTerm (termTaken s) t) (hd : t.bey.dtls = []) (n : Rc 8) (r : Recorder) :
    TermBegun s (kept s { settlePins t with twin.swaps := n, recorder := r }) :=
  ⟨h.mode, h.role, h.primaryN, h.isOn, h.tick, h.takeover, h.termAt, h.waitAnswer, h.logs, h.firstM, hd, h.cov, rfl⟩

theorem startingTerm_shipped_keepsTerm (s : State) : KeepsTerm (startingTerm s) (shipLog false (startingTerm s)) :=
  (shipLog_inputs false _).keepsTerm

/-- A starting unit that has taken the tick in progress. -/
structure StartedTerm (s t : State) : Prop where
  mode     : t.sys.mode = .running
  role     : t.twin.role = .primary
  primaryN : t.twin.primaryN = true
  isOn     : t.cap.isOn = true
  tick     : t.cap.tick = s.cap.log.tick
  termAt   : t.twin.termAt = none
  firstM   : t.twin.firstM = s.sys.prevSeal.map (·.1)
  cov      : t.cov = s.cov

/-- A primary captures the tick in progress. -/
def capturingFirst (u : State) : State := { u with
  cap.isOn := true, sys.firstTick := false, twin.primaryN := true, twin.ackTick := u.cap.tick
  twin.firstM := u.sys.prevSeal.map (·.1), radio.ledgerHw := u.radio.ledger, radio.armsHw := u.radio.arms }

/-- The unit is primary of its own chain in the tick in progress. -/
def primaryInTick (s : State) : State :=
  { rebuildArms (stampNs s.cap.log.start) (becomePrimary s) with cap.tick := s.cap.log.tick }

theorem startingTerm_eq (s : State) : startingTerm s = capturingFirst (startLedgers (restartGapUs s) (primaryInTick s)) := rfl

theorem capturingFirst_started (h : KeepsTerm (primaryInTick s) u) (hp : u.sys.prevSeal = s.sys.prevSeal) :
    StartedTerm s (capturingFirst u) :=
  ⟨h.mode, h.role, rfl, rfl, h.tick, h.termAt, congrArg (Option.map Prod.fst) hp, h.cov⟩

theorem startingTerm_started (s : State) : StartedTerm s (startingTerm s) := by
  have hsys := (startLedgers_same (restartGapUs s) (primaryInTick s)).sys
  have hkeeps := startLedgers_keepsTerm (restartGapUs s) (primaryInTick s)
  rw [startingTerm_eq]
  generalize startLedgers (restartGapUs s) (primaryInTick s) = u at hsys hkeeps ⊢
  exact capturingFirst_started hkeeps (by rw [hsys]; rfl)

theorem KeepsTerm.started (h : KeepsTerm t u) (k : StartedTerm s t) : StartedTerm s u :=
  ⟨h.mode.trans k.mode, h.role.trans k.role, h.primaryN.trans k.primaryN, h.isOn.trans k.isOn, h.tick.trans k.tick,
    h.termAt.trans k.termAt, h.firstM.trans k.firstM, h.cov.trans k.cov⟩

/-! ### TERM_BEGIN -/

theorem exec_termBegin_none (ht : s.twin.termAt = none) : exec .termBegin s = .next s := by
  change execTermBegin s = _
  simp only [execTermBegin, ht]
  rfl

section Fixed
variable {t : BitVec 48} (ht : s.twin.termAt = some t)
include ht

theorem exec_termBegin_barred (h : s.twin.peerN = true ∨ lifeState s = .quarantine) : exec .termBegin s = .next s := by
  have hbar : (s.twin.peerN || lifeState s == .quarantine) = true := by
    rcases h with h | h
    · rw [h, Bool.true_or]
    · rw [h, beq_self_eq_true, Bool.or_true]
  change execTermBegin s = _
  simp only [execTermBegin, ht, hbar, if_true]
  rfl

variable (hn : s.twin.peerN = false) (hq : lifeState s ≠ .quarantine)
include hn hq

theorem exec_termBegin_waiting (hm : s.sys.mode = .waiting) : exec .termBegin s = .next (kept s
    (if s.twin.ownTick ≤ t then s else settlePins (shipLog false (startingTerm s)))) := by
  change execTermBegin s = _
  simp only [execTermBegin, ht, hn, beq_false_of_ne hq, hm, Bool.or_self, Bool.false_eq_true, if_true, if_false]
  rfl

/-- A unit whose own renewals have come back begins no term. -/
abbrev RenewedOrphan (s : State) : Prop := s.twin.standby = .orphaned ∧ s.twin.role = .mirror ∧ s.twin.renewed = true

/-- The term begins by a swap. -/
def bySwap (s : State) : Bool := s.twin.role == .mirror && s.twin.standby != .orphaned

omit ht hn hq in
theorem bySwap_iff : bySwap s = true ↔ s.twin.role = .mirror ∧ s.twin.standby ≠ .orphaned := by
  simp only [bySwap, Bool.and_eq_true, beq_iff_eq, bne_iff_ne]

theorem exec_termBegin_running (hm : s.sys.mode = .running) : ∃ r, exec .termBegin s = .next (kept s
    (if s.cap.tick ≤ t then s
      else if RenewedOrphan s then s
      else { settlePins (beginTerm s) with
        twin.swaps := if bySwap s then (beginTerm s).twin.swaps.inc else (beginTerm s).twin.swaps
        recorder := r })) := by
  have hrun : (s.sys.mode ≠ .running ∨ s.cap.tick ≤ t) ↔ s.cap.tick ≤ t := by simp [hm]
  have hw : s.sys.mode ≠ .waiting := by rw [hm]; decide
  change ∃ _, execTermBegin s = _
  simp only [execTermBegin, ht, hn, beq_false_of_ne hq, if_neg hw, hrun, Bool.or_self, Bool.false_eq_true, if_false]
  generalize beginTerm s = b
  by_cases hby : bySwap s = true
  · simp only [if_pos hby, raiseU_twin_eq]
    exact ⟨_, congrArg (fun x => done s (if s.cap.tick ≤ t then s else if RenewedOrphan s then s else x)) (if_pos hby)⟩
  · simp only [if_neg hby]
    exact ⟨b.recorder, congrArg (fun x => done s (if s.cap.tick ≤ t then s else if RenewedOrphan s then s else x)) (if_neg hby)⟩

end Fixed

end Sys2Proof.Machine
end

section
/-!
SUPPORT. A swap from HANDOVER to the beginning of a term.
-/
namespace Sys2Proof.Machine

open Sys2Proof

/-- Settles O43: the frames of a swap, their timeouts, and the beginning of a term. -/
theorem swapsAndTerms : Obligations.SwapsAndTerms := by
  refine ⟨?handover, ?answer, ?timeouts, ?term, fun s ht => exec_termBegin_none ht⟩
  case handover =>
    intro h hash s hl hn u
    refine ⟨fun hm b => exec_handover_ignored hl hn hm b hash, fun hm hc p own hp => ?forSeal, fun hm => ?transfer⟩
    case forSeal =>
      rw [exec_handover_seal hl hn hm hash hc]
      refine ⟨fun hne hs => ?waits, fun hd hroom => ?answers⟩
      case waits =>
        rw [answerHandover_waits (s := handedOver h.tick hash false (acked s)) rfl hp ⟨hne, hs⟩]
        rfl
      case answers =>
        have hw : ¬(p ≠ h.tick ∧ s.twin.standby = .synced) := fun ⟨hne, hs⟩ => hd.elim hne fun hd => hd hs
        refine ⟨fun hcause => ?_, fun hcause => ?_⟩
        · rw [answerHandover_accepts (s := handedOver h.tick hash false (acked s)) rfl hp hw hl.2.1 hl.2.2.2 hroom hcause]
          rfl
        · rw [answerHandover_refuses (s := handedOver h.tick hash false (acked s)) rfl hp hw hl.2.1 hl.2.2.2 hroom hcause]
          rfl
    case transfer =>
      rw [exec_handover_transfer hl hn hm hash]
      refine ⟨fun hs => ?_, fun hs hroom => ?_⟩
      · rw [if_pos hs]
        rfl
      · rw [if_neg hs, answer_framed (s := handedOver h.tick hash true (acked s)) h.tick rfl hl.2.1 hl.2.2.2 hroom]
        rfl
  case answer =>
    intro h cause s hl hn
    have hexec := exec_answer_next hl hn (cause := cause)
    simp only [hexec]
    refine ⟨fun hw b => ?none, fun hw ht => ?awaited, fun t hw hne b => ?other⟩
    case none =>
      rw [takeAnswer_other (s := acked s) b (fun hs => nomatch hw.symm.trans hs)]
      rfl
    case other =>
      rw [takeAnswer_other (s := acked s) b (fun hs => hne (Option.some.inj (hs.symm.trans hw)))]
      rfl
    case awaited =>
      rw [takeAnswer_awaited (s := acked s) hw ht true, takeAnswer_awaited (s := acked s) hw ht false, if_pos rfl,
        if_neg Bool.false_ne_true]
      refine ⟨?_, rfl⟩
      refine ⟨_, rfl, ?_⟩
      have hrec := raiseU_recorder_congr (s := s)
        (t := becomeMirror (firstOfPeer h.tick s - 1) { acked s with twin.swaps := s.twin.swaps.inc }) rfl rfl 0x900B
        [h.tick.toNat % 2 ^ 32, (firstOfPeer h.tick s).toNat % 2 ^ 32]
      simp only [kept_twin, kept_cov, kept_recorder, raiseU_twin, raiseU_cov]
      exact ⟨rfl, rfl, rfl, rfl, rfl, rfl, rfl, rfl, hrec⟩
  case timeouts =>
    intro s t hr hw
    refine ⟨fun hx ht => ⟨exec_swapAnswerTimeout_late hr hw hx ht, exec_swapAnswerTimeout_early hr hw⟩, fun hx =>
      ⟨exec_transferSwapTimeout_early hr hw, fun hlate hn => ?_, fun hlate hn => ?_⟩⟩
    · rw [exec_transferSwapTimeout_late hr hw hx hlate, hn, if_neg Bool.false_ne_true]
      rfl
    · refine ⟨_, (exec_transferSwapTimeout_late hr hw hx hlate).trans (by rw [if_pos hn]), rfl, ?_, rfl⟩
      change (if versionsDiffer s then Standby.held else Standby.synced) = _ ∨ (if versionsDiffer s then Standby.held else _) = _
      cases versionsDiffer s
      · exact .inr rfl
      · exact .inl rfl
  case term =>
    intro s t ht
    refine ⟨exec_termBegin_barred ht, fun hn hq => ⟨fun hm => ?running, fun hm => ?waiting⟩⟩
    case running =>
      obtain ⟨r, hexec⟩ := exec_termBegin_running ht hn hq hm
      rw [hexec]
      refine ⟨fun hearly => ?early, fun hmirror ho hrenew => ?renewed, fun hlate hno => ?begins⟩
      case early => rw [if_pos hearly]; rfl
      case renewed =>
        rw [if_pos (c := RenewedOrphan s) ⟨ho, hmirror, hrenew⟩, ite_self]
        rfl
      case begins =>
        have hren : ¬RenewedOrphan s := fun ⟨ho, hmirror, hrenew⟩ => hno ⟨hmirror, ho, hrenew⟩
        rw [if_neg hlate, if_neg hren]
        obtain ⟨hmode, hrole, hprimary, hon, htick, htake, hterm, hwait, hlogs, hfirst, hdtls, hcov, hpins⟩ :=
          (beginTerm_keepsTerm s).begun (beginTerm_dtls s)
            (if bySwap s then (beginTerm s).twin.swaps.inc else (beginTerm s).twin.swaps) r
        refine ⟨_, rfl, hmode, hrole, hprimary, hon, htick, htake, hterm, hwait, hlogs, hfirst, hdtls, hcov, hpins, ?_⟩
        have hswaps : (beginTerm s).twin.swaps = s.twin.swaps := (beginTerm_keepsTerm s).swaps
        rw [kept_twin, hswaps]
        exact if_congr bySwap_iff rfl rfl
    case waiting =>
      rw [exec_termBegin_waiting ht hn hq hm]
      refine ⟨fun hearly => ?_, fun hlate => ?_⟩
      · rw [if_pos hearly]
        rfl
      · rw [if_neg hlate]
        obtain ⟨hmode, hrole, hprimary, hon, htick, hterm, hfirst, hcov⟩ :=
          (startingTerm_shipped_keepsTerm s).started (startingTerm_started s)
        exact ⟨_, rfl, hmode, hrole, hprimary, hon, htick, hterm, hfirst, hcov, rfl⟩

end Sys2Proof.Machine
end

section
/-!
SUPPORT. The DTLS engine: handshakes, sessions, servers and neighbour discovery (R454 to R462, R437).
-/
namespace Sys2Proof.Machine

open Sys2Proof

variable {s : State}

/-! ### Handshakes (R455, R457) -/

section Hello
variable (port : BitVec 2) (addr : BitVec 128) (udp : BitVec 16) (hr : running s = true)
include hr

theorem exec_clientHello_off (hp : portOn s port.toNat = false) (b : Bool) : exec (.dtlsClientHello port addr udp b) s = .next s := by
  change execDtlsClientHello port addr udp b s = _
  rw [execDtlsClientHello, whenRunning_on hr, hp]
  rfl

theorem exec_clientHello_first (hp : portOn s port.toNat = true) (hf : faultOn s (0x10 + port.toNat) false = false) :
    exec (.dtlsClientHello port addr udp false) s = .next { s with out := s.out ++ [.dtls addr udp 0] } := by
  change execDtlsClientHello port addr udp false s = _
  rw [execDtlsClientHello, whenRunning_on hr, hp]
  simp only [Bool.not_true, Bool.not_false, if_true, Bool.false_eq_true, if_false, ethernetOut_plain _ _ _ hf]
  rfl

theorem exec_clientHello_cookie (hp : portOn s port.toNat = true) : exec (.dtlsClientHello port addr udp true) s =
    .next (if s.bey.handshakes < 8 then { s with bey.handshakes := s.bey.handshakes + 1 } else s) := by
  change execDtlsClientHello port addr udp true s = _
  rw [execDtlsClientHello, whenRunning_on hr, hp]
  by_cases h8 : s.bey.handshakes < 8
  · rw [if_pos h8]
    simp only [Bool.not_true, Bool.false_eq_true, if_false, if_neg h8.not_ge]
    rfl
  · rw [if_neg h8]
    simp only [Bool.not_true, Bool.false_eq_true, if_false, if_pos (not_lt.mp h8)]
    rfl

end Hello

/-- As many handshakes are in progress. -/
def inProgress (n : Nat) (s : State) : State := { s with bey.handshakes := n }

theorem exec_handshakeComplete (c : ClientIn) (arrival : BitVec 32) {n : Nat} (hr : running s = true)
    (hn : s.bey.handshakes = n + 1) :
    exec (.dtlsHandshakeComplete c arrival) s = .next (kept s (completeHandshake c arrival (inProgress n s))) := by
  change execDtlsHandshakeComplete c arrival s = _
  rw [execDtlsHandshakeComplete, whenRunning_on hr, if_neg (by omega), hn]
  rfl

/-! ### What a completed handshake is answered with (R457, R458, R460) -/

section Admission
variable (c : ClientIn) (arrival : BitVec 32)

/-- A handshake is refused, counted and reported. -/
def refusedFor (c : ClientIn) (cause : Nat) (s : State) : State := { s with
  bey.refused := s.bey.refused.inc
  recorder := (raiseU 0xA003 [c.ethPort.toNat, c.addr.toNat % 2 ^ 32, cause] s).recorder }

theorem refuseHandshake_eq (cause : Nat) (s : State) : refuseHandshake c cause s = refusedFor c cause s :=
  raiseU_of_same (s := s) (t := { s with bey.refused := s.bey.refused.inc }) rfl rfl _ _

/-- The client has proved its key on a port that is on, and the unit has a key of its own. -/
abbrev Able (c : ClientIn) (s : State) : Prop := c.proof = true ∧ portOn s c.ethPort.toNat = true ∧ (dtlsKey s).isSome = true

theorem not_able_iff : ¬Able c s ↔ (!c.proof) = true ∨ (!portOn s c.ethPort.toNat) = true ∨ (dtlsKey s).isNone = true := by
  simp only [not_and_or, Bool.not_eq_true', Bool.not_eq_true, Option.isNone_iff_eq_none, Option.isSome_eq_false_iff]

theorem completeHandshake_unable (h : ¬Able c s) : completeHandshake c arrival s = refusedFor c 2 s :=
  (if_pos ((not_able_iff c).mp h)).trans (refuseHandshake_eq c 2 s)

/-- The Tributary clients with one more where the port takes them and the key has the right. -/
def childrenWith (c : ClientIn) (s : State) : List TribClient :=
  if testBit (hwCfg s 0x0003 0 0x11 1 1) 1 = true ∧ keyGrants s 8 (sha256 c.key) = true
  then (s.bey.tribClients.filter fun x => x.addr != c.addr) ++ [⟨c.addr, c.ethPort, sha256 c.key⟩] else s.bey.tribClients

theorem completeHandshake_child (h : Able c s) (hp : ethRole s.hw.records c.ethPort.toNat ≠ 0) :
    completeHandshake c arrival s = { s with bey.tribClients := childrenWith c s } := by
  refine (if_neg fun hn => (not_able_iff c).mpr hn h).trans ((if_pos hp).trans ?_)
  rw [childrenWith]
  split <;> rfl

theorem completeHandshake_headEnd (h : Able c s) (hp : ethRole s.hw.records c.ethPort.toNat = 0) {record : Option (Nat × Bytes)}
    {rights : Nat} (ha : accessOf (asSealed s) (sha256 c.key) = (record, rights)) :
    completeHandshake c arrival s = admitClient c arrival record rights s := by
  refine (if_neg fun hn => (not_able_iff c).mpr hn h).trans ((if_neg (not_not_intro hp)).trans ?_)
  rw [ha]

variable {record : Option (Nat × Bytes)} {rights : Nat}

/-- There is no session for the client: 64 are open, or its record has as many as it allows. -/
abbrev NoSession (record : Option (Nat × Bytes)) (s : State) : Prop :=
  64 ≤ s.bey.dtls.length ∨ ∃ r, record = some r ∧ ofLe (slice r.2 6 1) ≤ sessionsOf s r.1

theorem atLimit_iff : atLimit record s = true ↔ ∃ r, record = some r ∧ ofLe (slice r.2 6 1) ≤ sessionsOf s r.1 := by
  cases record with
  | none => simp [atLimit]
  | some r => simp [atLimit]

/-- The lowest session number that is free. -/
def freeSession (s : State) : Nat := lowestGap (s.bey.dtls.map (·.1)) 0

/-- The client's session is open under that number. -/
def admitted (c : ClientIn) (s : State) : State :=
  { s with bey.dtls := tput s.bey.dtls (freeSession s) ⟨c.addr, c.udpPort, c.ethPort, sha256 c.key, 0, true⟩ }

theorem admitClient_noRights (h : rights = 0) : admitClient c arrival record rights s = refusedFor c 0 s :=
  (if_pos h).trans (refuseHandshake_eq c 0 s)

theorem admitClient_noSession (h : rights ≠ 0) (hf : NoSession record s) : admitClient c arrival record rights s = refusedFor c 1 s :=
  (if_neg h).trans ((if_pos (hf.imp_right atLimit_iff.mpr)).trans (refuseHandshake_eq c 1 s))

theorem admitClient_admits (h : rights ≠ 0) (hf : ¬NoSession record s) : admitClient c arrival record rights s =
    if s.twin.role = .mirror then
      { admitted c s with bey.own := tput s.bey.own (freeSession s) (Session.fresh c) }
    else if capturing (admitted c s) then appendInput ⟨0, 2, arrival, openBody (freeSession s) c, none⟩ (admitted c s)
    else admitted c s :=
  (if_neg h).trans (if_neg fun hn => hf (hn.imp_right atLimit_iff.mp))

end Admission

/-- An input that the log takes behind nothing: what it leaves of the capture log, the Beysyn block and the configuration. -/
theorem appendInput_last {e : LogEntry} (hs : Settled s) (ht : s.cap.log.takes e = true) :
    (appendInput e s).cap.log.entries = s.cap.log.entries ++ [e] ∧ (appendInput e s).bey = s.bey ∧ (appendInput e s).cov = s.cov := by
  rw [appendInput_settled hs ht, enterLog_last, (enterLog_inputs e s).state]
  exact ⟨rfl, rfl, rfl⟩

theorem not_mirror_of_capturing (h : capturing s = true) : s.twin.role ≠ .mirror := by
  intro hm
  simp [capturing, hm] at h

/-! ### How a session of the engine ends (R457, R458) -/

section Ending
variable {n : Nat} (cause : Nat) (arrival : BitVec 32)

theorem endSession_none (h : tget s.bey.dtls n = none) : endSession n cause arrival s = s :=
  if_pos (by rw [h]; rfl)

/-- The engine's session is gone. -/
def withoutSession (n : Nat) (s : State) : State := { s with bey.dtls := tdel s.bey.dtls n }

variable {d : DtlsSession} (h : tget s.bey.dtls n = some d)
include h

theorem endSession_mirror (hm : s.twin.role = .mirror) : endSession n cause arrival s =
    { withoutSession n s with bey.own := tdel s.bey.own n, bey.queries := s.bey.queries.filter fun q => q.session != n } :=
  (if_neg (by rw [h]; exact Bool.false_ne_true)).trans (if_pos hm)

theorem endSession_capturing (hc : capturing s = true) : endSession n cause arrival s =
    appendInput ⟨0, 2, arrival, [BitVec.ofNat 8 n, 2, 4, 0, BitVec.ofNat 8 cause, 0, 0, 0], none⟩ (withoutSession n s) :=
  (if_neg (by rw [h]; exact Bool.false_ne_true)).trans ((if_neg (not_mirror_of_capturing hc)).trans (if_pos hc))

end Ending

variable (arrival : BitVec 32) {n : Nat}

theorem exec_closeNotify (hr : running s = true) :
    exec (.dtlsCloseNotify n arrival) s = .next (kept s (endSession n 0 arrival s)) := whenRunning_on hr

theorem exec_idleTimeout (hr : running s = true) :
    exec (.sessionIdleTimeout n arrival) s = .next (kept s (endSession n 1 arrival s)) := whenRunning_on hr

/-- The keys of a session are updated. -/
def updatedKeys (n : Nat) (d : DtlsSession) (s : State) : State :=
  { s with bey.dtls := tput s.bey.dtls n { d with generation := d.generation + 1 } }

section KeyUpdate
variable (hr : running s = true)
include hr

theorem exec_keyUpdate_none (h : tget s.bey.dtls n = none) : exec (.dtlsKeyUpdate n) s = .next s := by
  change execDtlsKeyUpdate n s = _
  rw [execDtlsKeyUpdate, whenRunning_on hr, h]
  rfl

variable {d : DtlsSession} (h : tget s.bey.dtls n = some d)
include h

theorem exec_keyUpdate_unkeyed (hk : d.keyed = false) : exec (.dtlsKeyUpdate n) s = .next s := by
  change execDtlsKeyUpdate n s = _
  rw [execDtlsKeyUpdate, whenRunning_on hr, h]
  simp only [hk, Bool.not_false, if_true]
  rfl

theorem exec_keyUpdate_keyed (hk : d.keyed = true) (hf : faultOn s (0x10 + d.ethPort.toNat) false = false) :
    exec (.dtlsKeyUpdate n) s = .next { s with
      bey.dtls := tput s.bey.dtls n { d with generation := d.generation + 1 }, out := s.out ++ [.dtls d.addr d.udpPort 1] } := by
  change execDtlsKeyUpdate n s = _
  have hkeyed : ¬(!d.keyed) = true := by rw [hk]; decide
  rw [execDtlsKeyUpdate, whenRunning_on hr, h]
  change Host.Outcome.next (kept s (if (!d.keyed) = true then s else
    ethernetOut d.ethPort.toNat (.dtls d.addr d.udpPort 1) (updatedKeys n d s))) = _
  rw [if_neg hkeyed, ethernetOut_plain _ _ (updatedKeys n d s) hf]
  rfl

end KeyUpdate

/-! ### The servers of the unit (R462) -/

section Servers
variable (key : List Byte)

theorem exec_clientRetry_unnamed {r : ServerRole} (h : serverNamed s r = false) : exec (.dtlsClientRetry r key) s = .next s := by
  change execDtlsClientRetry r key s = _
  unfold execDtlsClientRetry
  rw [h, Bool.not_false, Bool.or_true, if_pos rfl, done_eq, kept_self]

/-- A running unit connects. -/
theorem connecting_of_running (hr : running s = true) :
    (!(s.sys.mode == .running || s.sys.mode == .waiting)) = false := by
  have hm : (s.sys.mode == .running) = true := hr
  rw [hm, Bool.true_or, Bool.not_true]

variable (hr : running s = true)
include hr

theorem exec_clientRetry_parent (h : serverNamed s .parent = true) : exec (.dtlsClientRetry .parent key) s = .next { s with
    bey.parentUp := keyGrants s 9 (sha256 key), bey.retryParent := !keyGrants s 9 (sha256 key) } := by
  change execDtlsClientRetry .parent key s = _
  rw [execDtlsClientRetry, h, connecting_of_running hr, Bool.not_true, Bool.or_false, if_neg Bool.false_ne_true]
  rfl

theorem exec_clientRetry_witness (h : serverNamed s .witness = true) : exec (.dtlsClientRetry .witness key) s = .next { s with
    bey.witnessUp := keyGrants s 10 (sha256 key), bey.retryWitness := !keyGrants s 10 (sha256 key) } := by
  change execDtlsClientRetry .witness key s = _
  rw [execDtlsClientRetry, h, connecting_of_running hr, Bool.not_true, Bool.or_false, if_neg Bool.false_ne_true]
  rfl

end Servers

/-! ### Reassembly and neighbour discovery (R437, R454) -/

theorem exec_reassemblyTimeout (hr : running s = true) :
    exec .ipv6ReassemblyTimeout s = .next { s with bey.reassembly := s.bey.reassembly.drop 1 } := by
  change execIpv6ReassemblyTimeout s = _
  rw [execIpv6ReassemblyTimeout, whenRunning_on hr]
  rfl

/-- The link-local address of the unit. -/
def linkLocal (s : State) : Nat := 0xFE80 * 2 ^ 112 + interfaceId s

/-- The address that the configuration gives the unit. -/
def givenAddress (s : State) : Nat := ofBe (cfgBytes s.hw.records 0x0003 0 0 16)

theorem ownAddresses_linkLocal : linkLocal s ∈ ownAddresses s := List.mem_cons_self

theorem mem_ownAddresses_iff (hm : s.twin.role ≠ .mirror) (a : Nat) :
    a ∈ ownAddresses s ↔ a = linkLocal s ∨ (a ≠ 0 ∧ a = givenAddress s) := by
  have hg : ownAddresses s = linkLocal s :: if givenAddress s = 0 then [] else [givenAddress s] := by
    rw [ownAddresses, linkLocal, givenAddress]
    cases hrole : s.twin.role
    case mirror => exact absurd hrole hm
    all_goals rfl
  rw [hg, List.mem_cons]
  refine or_congr_right ?_
  split
  next h0 => simp [h0]
  next h0 =>
    rw [List.mem_singleton]
    exact ⟨fun h => ⟨fun ha => h0 (h.symm.trans ha), h⟩, And.right⟩

section Neighbour
variable (port : BitVec 2) (target : BitVec 128) (hr : running s = true)
include hr

theorem exec_neighbourSolicitation_own (hf : faultOn s (0x10 + port.toNat) false = false) (hp : portOn s port.toNat = true)
    (ho : target.toNat ∈ ownAddresses s) : exec (.neighbourSolicitation port target) s =
      .next { s with out := s.out ++ [.ethernet port.toNat 0x88 ([0] ++ be 16 target.toNat)] } := by
  change execNeighbourSolicitation port target s = _
  rw [execNeighbourSolicitation, whenRunning_on hr, if_pos ⟨hp, ho⟩, advertise, ethernetOut_plain _ _ _ hf]
  rfl

theorem exec_neighbourSolicitation_other (h : ¬(portOn s port.toNat = true ∧ target.toNat ∈ ownAddresses s)) :
    exec (.neighbourSolicitation port target) s = .next s := by
  change execNeighbourSolicitation port target s = _
  rw [execNeighbourSolicitation, whenRunning_on hr, if_neg h]
  rfl

end Neighbour

/-- Settles O45, part by part: a handshake, a session's end, the servers and neighbour discovery. -/
theorem sessionsComeAndGo : Obligations.SessionsComeAndGo := by
  unfold Obligations.SessionsComeAndGo
  refine ⟨fun port addr udp s hr => ⟨exec_clientHello_off port addr udp hr, fun hp =>
    ⟨exec_clientHello_first port addr udp hr hp, exec_clientHello_cookie port addr udp hr hp⟩⟩, ?_, ?_, ?_, ?_⟩
  · intro c arrival s n hr hn
    have hexec := exec_handshakeComplete c arrival hr hn
    have hrefused : ∀ cause, kept s (refusedFor c cause (inProgress n s)) = { s with
        bey.handshakes := n, bey.refused := s.bey.refused.inc,
        recorder := (raiseU 0xA003 [c.ethPort.toNat, c.addr.toNat % 2 ^ 32, cause] s).recorder } := fun cause => by
      rw [refusedFor, raiseU_recorder_congr (s := s) (t := inProgress n s) rfl rfl]
      rfl
    refine ⟨fun hable => ?_, fun hable hchild => ?_, fun hable hhead record rights haccess => ⟨fun hno => ?_, fun hsome hfull => ?_,
      fun hsome hroom => ⟨fun hm => ?_, fun hcap hs htakes => ?_⟩⟩⟩
    · rw [hexec, completeHandshake_unable (s := inProgress n s) c arrival hable, hrefused]
    · rw [hexec, completeHandshake_child (s := inProgress n s) c arrival hable hchild]
      rfl
    all_goals rw [hexec, completeHandshake_headEnd (s := inProgress n s) c arrival hable hhead haccess]
    · rw [admitClient_noRights c arrival hno, hrefused]
    · rw [admitClient_noSession (s := inProgress n s) c arrival hsome hfull, hrefused]
    · rw [admitClient_admits (s := inProgress n s) c arrival hsome hroom, if_pos (c := (inProgress n s).twin.role = .mirror) hm]
      rfl
    · rw [admitClient_admits (s := inProgress n s) c arrival hsome hroom,
        if_neg (c := (inProgress n s).twin.role = .mirror) (not_mirror_of_capturing hcap),
        if_pos (c := capturing (admitted c (inProgress n s)) = true) hcap]
      exact ⟨_, rfl, appendInput_last (s := admitted c (inProgress n s)) hs htakes⟩
  · intro n arrival s hr
    refine ⟨fun hd => ⟨?_, ?_, exec_keyUpdate_none hr hd⟩, fun d hd => ⟨exec_keyUpdate_unkeyed hr hd,
      exec_keyUpdate_keyed hr hd, fun hm => ⟨?_, ?_⟩, fun hcap hs idle htakes => ?_⟩⟩
    · rw [exec_closeNotify arrival hr, endSession_none 0 arrival hd, kept_self]
    · rw [exec_idleTimeout arrival hr, endSession_none 1 arrival hd, kept_self]
    · rw [exec_closeNotify arrival hr, endSession_mirror 0 arrival hd hm]
      rfl
    · rw [exec_idleTimeout arrival hr, endSession_mirror 1 arrival hd hm]
      rfl
    · have hlast := appendInput_last (s := withoutSession n s) hs htakes
      cases idle
      · change ∃ t, exec (.dtlsCloseNotify n arrival) s = .next t ∧ _
        rw [exec_closeNotify arrival hr, endSession_capturing 0 arrival hd hcap]
        exact ⟨_, rfl, hlast⟩
      · change ∃ t, exec (.sessionIdleTimeout n arrival) s = .next t ∧ _
        rw [exec_idleTimeout arrival hr, endSession_capturing 1 arrival hd hcap]
        exact ⟨_, rfl, hlast⟩
  · intro key s hr
    exact ⟨exec_clientRetry_parent key hr, exec_clientRetry_witness key hr, fun r h => exec_clientRetry_unnamed key h,
      exec_reassemblyTimeout hr⟩
  · intro port target s hr hf
    refine ⟨fun hp hown => exec_neighbourSolicitation_own port target hr hf hp ?_, fun hp => ?_, fun hm hown => ?_⟩
    · obtain hlocal | ⟨hm, h0, hgiven⟩ := hown
      · exact hlocal ▸ ownAddresses_linkLocal
      · exact (mem_ownAddresses_iff hm _).mpr (.inr ⟨h0, hgiven⟩)
    · exact exec_neighbourSolicitation_other port target hr fun h => Bool.eq_false_iff.mp hp h.1
    · refine exec_neighbourSolicitation_other port target hr fun h => hown ?_
      exact ((mem_ownAddresses_iff hm _).mp h.2).imp_right fun hg => ⟨hm, hg⟩

end Sys2Proof.Machine
end

section
/-!
SUPPORT. SET_LIST and the denial of LENS_CLEAR (R474, R477).
-/
namespace Sys2Proof.Machine

open Sys2Proof

variable {s : State}

/-! ### Sorting -/

section Sorting
variable {α : Type} {le : α → α → Bool}

theorem insertBy_perm (x : α) (l : List α) : (insertBy le x l).Perm (x :: l) := by
  induction l with
  | nil => exact .refl _
  | cons y ys ih =>
    rw [insertBy]
    split
    · exact (ih.cons y).trans (.swap x y ys)
    · exact .refl _

theorem sortBy_perm (l : List α) : (sortBy le l).Perm l := by
  have key : ∀ acc : List α, (l.foldl (fun acc x => insertBy le x acc) acc).Perm (acc ++ l) := by
    induction l with
    | nil => intro acc; simp
    | cons x l ih =>
      intro acc
      exact (ih _).trans (((insertBy_perm x acc).append_right l).trans List.perm_middle.symm)
  exact key []

/-- Inserting by a key keeps a list in the order of the key. -/
theorem insertBy_pairwise (key : α → Nat) (x : α) {l : List α} (h : l.Pairwise fun a b => key a ≤ key b) :
    (insertBy (fun a b => decide (key a ≤ key b)) x l).Pairwise fun a b => key a ≤ key b := by
  induction l with
  | nil => exact List.pairwise_singleton _ _
  | cons y ys ih =>
    obtain ⟨hy, hys⟩ := List.pairwise_cons.mp h
    rw [insertBy]
    split
    next hle =>
      refine List.pairwise_cons.mpr ⟨fun a ha => ?_, ih hys⟩
      obtain rfl | ha := List.mem_cons.mp ((insertBy_perm x ys).subset ha)
      · exact of_decide_eq_true hle
      · exact hy a ha
    next hgt =>
      have hxy : key x ≤ key y := by
        have := of_decide_eq_false (Bool.eq_false_iff.mpr hgt)
        omega
      refine List.pairwise_cons.mpr ⟨fun a ha => ?_, h⟩
      obtain rfl | ha := List.mem_cons.mp ha
      · exact hxy
      · exact hxy.trans (hy a ha)

theorem sortBy_pairwise (key : α → Nat) (l : List α) :
    (sortBy (fun a b => decide (key a ≤ key b)) l).Pairwise fun a b => key a ≤ key b := by
  have hfold : ∀ acc : List α, (acc.Pairwise fun a b => key a ≤ key b) →
      (l.foldl (fun acc x => insertBy (fun a b => decide (key a ≤ key b)) x acc) acc).Pairwise fun a b => key a ≤ key b := by
    induction l with
    | nil => exact fun _ h => h
    | cons x l ih => exact fun _ h => ih _ (insertBy_pairwise key x h)
  exact hfold [] .nil

end Sorting

/-! ### SET_LIST (R474) -/

/-- The pending sets as of the answering seal, in the order of their boundaries. -/
def listedSets (s : State) : List PendingSet := (setsUpTo s.view.sys.sets (2 ^ 48)).map (·.2)

theorem listedSets_perm : (listedSets s).Perm (s.view.sys.sets.map (·.2)) := by
  have hall : s.view.sys.sets.filter (fun p => decide (p.2.boundary.toNat ≤ 2 ^ 48)) = s.view.sys.sets :=
    List.filter_eq_self.mpr fun p _ => decide_eq_true p.2.boundary.isLt.le
  rw [listedSets, setsUpTo, hall]
  exact (sortBy_perm _).map _

theorem listedSets_pairwise : (listedSets s).Pairwise fun p q => p.boundary.toNat ≤ q.boundary.toNat :=
  List.pairwise_map.mpr (sortBy_pairwise (fun p : Nat × PendingSet => p.2.boundary.toNat) _)

theorem setListReply_eq : setListReply s = ⟨0, 0, 0, le 2 (listedSets s).length ++ [0, 0]
    ++ (listedSets s).flatMap fun p => le 6 p.boundary.toNat ++ le 6 p.commit.toNat ++ le 2 p.items.length ++ [0, 0]⟩ := by
  rw [listedSets, List.length_map, List.flatMap_map]
  rfl

theorem exec_setList_passes {m : Msg} {x : Session} (h : Passes 0x15 0 m x s) :
    exec (.setList m) s = .next (kept s (answered 0x15 m (setListReply s) (tookUp m s))) :=
  done_beysynMessage_passes rfl h rfl

/-- Settles O48: the sets are sorted by their boundaries, and sorting keeps each of them. -/
theorem setListListsPendingSets : Obligations.SetListListsPendingSets := by
  unfold Obligations.SetListListsPendingSets
  refine ⟨fun body => beq_iff_eq.trans List.length_eq_zero_iff, fun m x s h => ⟨listedSets s, listedSets_perm, listedSets_pairwise, ?_⟩⟩
  rw [exec_setList_passes h, setListReply_eq]

/-! ### LENS_CLEAR outside FIELD (R477) -/

theorem send_line (c : MsgCtx) (b : Bytes) (s : State) : OnlyLine s (c.send b s) := by
  unfold MsgCtx.send
  split
  · split
    · exact ethernetOut_line _ _ _
    · exact .refl s
  · exact .refl s

/-- Only the sessions, the waiting replies, the counts of statuses and the line differ. -/
def OnlyReply (status : Nat) (s t : State) : Prop :=
  t = { countStatus status s with
    bey.sessions := t.bey.sessions, bey.own := t.bey.own, bey.queries := t.bey.queries, test := t.test, out := t.out }

theorem OnlyReply.send {status : Nat} {t : State} (h : OnlyReply status s t) (c : MsgCtx) (b : Bytes) :
    OnlyReply status s (c.send b t) := by
  have hline := send_line c b t
  unfold OnlyReply OnlyLine at *
  rw [hline, h]

theorem onlyReply_put (c : MsgCtx) (x : Session) (status : Nat) : OnlyReply status s (c.put x (countStatus status s)) := by
  unfold MsgCtx.put
  split <;> rfl

/-- The reply's status is counted, and a cached one is held for repeats. -/
def replyHeld (c : MsgCtx) (cached : Bool) (status : Nat) (b : Bytes) (s : State) : State :=
  match c.find (countStatus status s) with
  | some x => if cached then c.put { x with replies := ((c.rid, b) :: x.replies).take 16 } (countStatus status s)
      else countStatus status s
  | none => countStatus status s

theorem replyHeld_onlyReply (c : MsgCtx) (cached : Bool) (status : Nat) (b : Bytes) (s : State) :
    OnlyReply status s (replyHeld c cached status b s) := by
  unfold replyHeld
  split
  · split
    · exact onlyReply_put _ _ _
    · rfl
  · rfl

/-- A reply to a store query waits for its seal. -/
def replyWaits (session : Nat) (b : Bytes) (s : State) : State :=
  { s with bey.queries := s.bey.queries ++ [⟨session, s.work.log.tick, b⟩] }

theorem OnlyReply.waits {status : Nat} {t : State} (h : OnlyReply status s t) (session : Nat) (b : Bytes) :
    OnlyReply status s (replyWaits session b t) := by
  unfold OnlyReply at *
  rw [h]
  rfl

theorem respond_later (c : MsgCtx) (type : Nat) (cached : Bool) (r : Reply) (s : State) : respond c type true cached r s =
    replyWaits c.session (r.message type c.rid (c.tick s)) (replyHeld c cached r.status (r.message type c.rid (c.tick s)) s) := rfl

theorem respond_atOnce (c : MsgCtx) (type : Nat) (cached : Bool) (r : Reply) (s : State) : respond c type false cached r s =
    c.send (r.message type c.rid (c.tick s)) (replyHeld c cached r.status (r.message type c.rid (c.tick s)) s) := rfl

/-- A reply changes the sessions, the waiting replies, the counts of statuses and the line alone. -/
theorem respond_onlyReply (c : MsgCtx) (type : Nat) (later cached : Bool) (r : Reply) :
    OnlyReply r.status s (respond c type later cached r s) := by
  have hheld := replyHeld_onlyReply c cached r.status (r.message type c.rid (c.tick s)) s
  cases later
  · rw [respond_atOnce]
    exact hheld.send _ _
  · rw [respond_later]
    exact hheld.waits _ _

/-- A denial is counted, and touches neither the recorder nor its claim to be cleared. -/
theorem answered_denied (type : Nat) (m : Msg) (s : State) :
    (answered type m ⟨4, 0, 0, []⟩ s).bey.clear = s.bey.clear ∧ (answered type m ⟨4, 0, 0, []⟩ s).bey.denied = s.bey.denied.inc
      ∧ (answered type m ⟨4, 0, 0, []⟩ s).recorder = s.recorder := by
  have h : OnlyReply 4 (raise (Src.c0 m.org) 0xA004 [m.session, type] s) (answered type m ⟨4, 0, 0, []⟩ s) :=
    respond_onlyReply _ _ _ _ _
  rw [h]
  exact ⟨rfl, rfl, rfl⟩

/-- Settles O57: outside FIELD the message is denied, and a denial leaves the recorder and the claim alone. -/
theorem lensClearNeedsField : Obligations.LensClearNeedsField := by
  unfold Obligations.LensClearNeedsField
  refine ⟨fun body => beq_iff_eq, fun m x s h hlife => ⟨tookUp m s, exec_lensClear_passes h (lensClear_denied hlife), rfl, ?_⟩⟩
  exact answered_denied 0x1A m (tookUp m s)

end Sys2Proof.Machine
end

section
/-!
SUPPORT. The five update messages (R494 to R498).
-/
namespace Sys2Proof.Machine

open Sys2Proof

variable {s : State} {m : Msg} {x : Session} {u : UpdSession} {src : Src} {digest b : Bytes}

/-! ### The update session and its holder (R495) -/

/-- Only the update session and the changes of the log differ. -/
theorem putSession_eq (src : Src) (y : Option UpdSession) (s : State) : putSession src y s =
    { s with cov.upd.session := y, work.changes := (putSession src y s).work.changes } := by
  unfold putSession
  split
  next h => rw [h]
  next => rfl

@[simp] theorem putSession_upd (src : Src) (y : Option UpdSession) (s : State) : (putSession src y s).upd = s.upd := by
  rw [putSession_eq]

@[simp] theorem putSession_store (src : Src) (y : Option UpdSession) (s : State) : (putSession src y s).store = s.store := by
  rw [putSession_eq]

@[simp] theorem ownEui_putSession (src : Src) (y : Option UpdSession) (s : State) : ownEui (putSession src y s) = ownEui s := by
  rw [putSession_eq]
  rfl

/-- The message's client holds the lock. -/
abbrev Holds (u : UpdSession) (digest : Bytes) (s : State) : Prop :=
  s.cov.upd.session = some u ∧ u.pending = false ∧ u.digest = digest

theorem holder_some (h : Holds u digest s) : (heldSession s).filter (·.digest == digest) = some u := by
  obtain ⟨hs, hp, hd⟩ := h
  simp [heldSession_eq_some_iff.mpr ⟨hs, hp⟩, hd]

theorem holder_none (h : ∀ u, s.cov.upd.session = some u → u.pending = true ∨ u.digest ≠ digest) :
    (heldSession s).filter (·.digest == digest) = none := by
  refine Option.filter_eq_none_iff.mpr fun u hu hd => ?_
  obtain ⟨hs, hp⟩ := heldSession_eq_some_iff.mp hu
  exact (h u hs).elim (fun hpend => Bool.eq_false_iff.mp hp hpend) fun hne => hne (beq_iff_eq.mp hd)

theorem heldSession_none (h : ∀ u, s.cov.upd.session = some u → u.pending = true) : heldSession s = none :=
  Option.filter_eq_none_iff.mpr fun u hu => by simp [h u hu]

theorem updReply_of {p : UpdOutcome × State} {status cause index : Nat} {t : State} (h : p = (⟨status, cause, index⟩, t)) :
    updReply p = (⟨status, cause, index, []⟩, t) := by
  rw [h]
  rfl

/-! ### UPDATE_OPEN -/

theorem exec_updateOpen_malformed (h : Passes 0x40 3 m x s)
    (hbad : 1 < ofLe (slice m.body 0 1) ∨ ofLe (slice m.body 0xC 4) < 4 ∨ 2097152 < ofLe (slice m.body 0xC 4)) :
    exec (.updateOpen m) s = .next (kept s (answered 0x40 m ⟨5, 0, 0, []⟩ (tookUp m s))) :=
  exec_passes rfl rfl h (serve_effect (if_pos hbad))

theorem exec_updateOpen_passes {status cause index : Nat} {t : State} (h : Passes 0x40 3 m x s)
    (hk : ofLe (slice m.body 0 1) ≤ 1) (h4 : 4 ≤ ofLe (slice m.body 0xC 4)) (hmax : ofLe (slice m.body 0xC 4) ≤ 2097152)
    (he : updOpen (Src.c0 m.org) x.digest m.body (tookUp m s) = (⟨status, cause, index⟩, t)) :
    exec (.updateOpen m) s = .next (kept s (answered 0x40 m ⟨status, cause, index, []⟩ t)) :=
  exec_passes rfl rfl h (serve_effect ((if_neg (by omega)).trans (updReply_of he)))

theorem updOpen_held (hs : s.cov.upd.session = some u) (hp : u.pending = false) :
    updOpen src digest b s = (if u.digest = digest then ⟨2, 1, 0⟩ else ⟨1, 1, 0⟩, s) := by
  unfold updOpen
  rw [heldSession_eq_some_iff.mpr ⟨hs, hp⟩]

theorem updOpen_held_own (hs : s.cov.upd.session = some u) (hp : u.pending = false) (hd : u.digest = digest) :
    updOpen src digest b s = (⟨2, 1, 0⟩, s) := by rw [updOpen_held hs hp, if_pos hd]

theorem updOpen_held_other (hs : s.cov.upd.session = some u) (hp : u.pending = false) (hd : u.digest ≠ digest) :
    updOpen src digest b s = (⟨1, 1, 0⟩, s) := by rw [updOpen_held hs hp, if_neg hd]

theorem updOpen_campaign (hh : ∀ u, s.cov.upd.session = some u → u.pending = true) (hc : campaignRuns s = true) :
    updOpen src digest b s = (⟨1, 2, 0⟩, s) := by
  unfold updOpen
  rw [heldSession_none hh]
  exact if_pos hc

theorem updOpen_pending (hs : s.cov.upd.session = some u) (hp : u.pending = true) (hc : campaignRuns s = false) :
    updOpen src digest b s = (⟨1, 3, 0⟩, s) := by
  unfold updOpen
  rw [heldSession_none (by simp [hs, hp])]
  exact (if_neg (Bool.eq_false_iff.mp hc)).trans (if_pos (by simp [hs]))

/-- A staging region that holds nothing yet. -/
def freshStaging (s : State) : State :=
  { s with upd.delta := [], upd.writes := [], upd.writeFailed := false, upd.hasImage := false, upd.readback := false }

/-- The session that UPDATE_OPEN opens; nothing of an earlier one is verified. -/
def sessionOpened (src : Src) (digest b : Bytes) (s : State) : State :=
  dropVerify (putSession src (some ⟨ofLe (slice b 0 1), false, false, ofLe (slice b 0xC 4), 0, s.work.log.tick.setWidth 32,
    euiOf (slice b 4 8), digest, 0, zeros 32⟩) s)

theorem ownEui_sessionOpened : ownEui (sessionOpened src digest b s) = ownEui s := ownEui_putSession _ _ _

/-- The bytes taken are forgotten. -/
def noneTaken (s : State) : State := { s with upd.running := [] }

theorem updOpen_opens (hs : s.cov.upd.session = none) (hc : campaignRuns s = false) : updOpen src digest b s =
    (.ok, raise src 0xB001 [ofLe (slice b 0 1), ofLe (slice b 0xC 4), (euiOf (slice b 4 8)).toNat % 2 ^ 32,
      (euiOf (slice b 4 8)).toNat / 2 ^ 32]
      (noneTaken (if ofLe (slice b 0 1) = 1 ∨ euiOf (slice b 4 8) = ownEui s then freshStaging (sessionOpened src digest b s)
        else sessionOpened src digest b s))) := by
  have hown := ownEui_sessionOpened (src := src) (digest := digest) (b := b) (s := s)
  unfold updOpen
  rw [heldSession_none (by simp [hs])]
  refine (if_neg (Bool.eq_false_iff.mp hc)).trans ((if_neg (by simp [hs])).trans ?_)
  rw [← hown]
  rfl

/-! ### UPDATE_DATA (R496) -/

theorem exec_updateData_passes {status cause index : Nat} {t : State} (h : Passes 0x41 3 m x s)
    (he : updData (Src.c0 m.org) x.digest m.body (tookUp m s) = (⟨status, cause, index⟩, t)) :
    exec (.updateData m) s = .next (kept s (answered 0x41 m ⟨status, cause, index, []⟩ t)) :=
  exec_passes rfl rfl h (serve_effect (updReply_of he))

/-- The session and the bytes behind those it has taken. -/
def bytesTaken (src : Src) (u : UpdSession) (off : Nat) (data : Bytes) (s : State) : State :=
  let n := off + data.length
  let run := if u.kind = 1 then s.upd.running ++ data else []
  putSession src (some { u with
    received := n, complete := decide (n = u.size), lastTick := s.work.log.tick.setWidth 32,
    imageDigest := if u.kind = 1 ∧ n = u.size then sha256 run else u.imageDigest }) { s with upd.running := run }

/-- One more write waits for its seal. -/
def withWrite (w : DataWrite) (s : State) : State := { s with upd.writes := s.upd.writes ++ [w] }

theorem bytesTaken_log (off : Nat) (data : Bytes) : (bytesTaken src u off data s).work.log = s.work.log := by
  rw [bytesTaken, putSession_eq]

theorem withWrite_bytesTaken (w : DataWrite) (off : Nat) (data : Bytes) : withWrite w (bytesTaken src u off data s) =
    { bytesTaken src u off data s with upd.writes := s.upd.writes ++ [w] } := by
  have hw : (bytesTaken src u off data s).upd.writes = s.upd.writes := by rw [bytesTaken, putSession_upd]
  rw [withWrite, hw]

section Data
variable (h : Holds u digest s)
include h

theorem updData_offset (ho : ofLe (slice b 0 4) ≠ u.received) : updData src digest b s = (⟨2, 3, u.received⟩, s) := by
  unfold updData
  rw [holder_some h]
  exact if_pos ho

variable (ho : ofLe (slice b 0 4) = u.received)
include ho

theorem updData_beyond (hn : u.size < ofLe (slice b 0 4) + (b.drop 8).length) : updData src digest b s = (⟨5, 0, 0⟩, s) := by
  unfold updData
  rw [holder_some h]
  exact (if_neg (not_not_intro ho)).trans (if_pos hn)

theorem updData_takes (hn : ofLe (slice b 0 4) + (b.drop 8).length ≤ u.size) : updData src digest b s =
    (.ok, if u.kind = 1 ∨ u.target = ownEui s then
        withWrite ⟨s.work.log.tick, ofLe (slice b 0 4), b.drop 8⟩ (bytesTaken src u (ofLe (slice b 0 4)) (b.drop 8) s)
      else bytesTaken src u (ofLe (slice b 0 4)) (b.drop 8) s) := by
  unfold updData
  rw [holder_some h]
  refine (if_neg (not_not_intro ho)).trans ((if_neg (Nat.not_lt.mpr hn)).trans ?_)
  refine congrArg (Prod.mk UpdOutcome.ok) (if_congr (by rw [Bool.or_eq_true, beq_iff_eq, beq_iff_eq]) ?_ rfl)
  exact congrArg (fun l => withWrite ⟨l.tick, ofLe (slice b 0 4), b.drop 8⟩ (bytesTaken src u (ofLe (slice b 0 4)) (b.drop 8) s))
    (bytesTaken_log _ _)

end Data

/-! ### UPDATE_VERIFY (R497, R498) -/

theorem exec_updateVerify_passes {status cause index : Nat} {t : State} (h : Passes 0x42 3 m x s)
    (he : updVerify (Src.c0 m.org) x.digest (tookUp m s) = (⟨status, cause, index⟩, t)) :
    exec (.updateVerify m) s = .next (kept s (answered 0x42 m ⟨status, cause, index, []⟩ t)) :=
  exec_passes rfl rfl h (serve_effect (updReply_of he))

/-- Verification of what the session holds begins. -/
def verifying (u : UpdSession) (s : State) : State :=
  { s with upd.verify := .waiting, upd.cause := 0, upd.rebuilt := [], store.lent := s.store.lent || u.kind == 0,
           upd.readback := false }

theorem verifying_touchSession : verifying u (touchSession src u s) =
    { touchSession src u s with upd.verify := .waiting, upd.cause := 0, upd.rebuilt := [],
                                store.lent := s.store.lent || u.kind == 0, upd.readback := false } := by
  have hstore : (touchSession src u s).store.lent = s.store.lent := by rw [touchSession, putSession_store]
  rw [verifying, hstore]

section Verify
variable (h : Holds u digest s)
include h

theorem updVerify_incomplete (hn : u.received < u.size) : updVerify src digest s = (⟨2, 4, 0⟩, s) := by
  unfold updVerify
  rw [holder_some h]
  exact if_pos hn

theorem updVerify_starts (hn : u.size ≤ u.received) : updVerify src digest s =
    (.ok, if u.kind = 1 ∨ u.target = ownEui s then verifying u (touchSession src u s) else touchSession src u s) := by
  unfold updVerify
  rw [holder_some h]
  refine (if_neg (Nat.not_lt.mpr hn)).trans (congrArg (Prod.mk UpdOutcome.ok) (if_congr ?_ rfl rfl))
  rw [Bool.or_eq_true, beq_iff_eq, beq_iff_eq, touchSession, ownEui_putSession]

end Verify

/-! ### UPDATE_ACTIVATE -/

theorem exec_updateActivate_passes {status cause index : Nat} {t : State} (h : Passes 0x43 3 m x s)
    (he : updActivate (Src.c0 m.org) x.digest m.body (tookUp m s) = (⟨status, cause, index⟩, t)) :
    exec (.updateActivate m) s = .next (kept s (answered 0x43 m ⟨status, cause, index, []⟩ t)) :=
  exec_passes rfl rfl h (serve_effect (updReply_of he))

section Activate
variable (h : Holds u digest s)
include h

theorem updActivate_incomplete (hn : u.received < u.size) : updActivate src digest b s = (⟨2, 4, 0⟩, s) := by
  unfold updActivate
  rw [holder_some h]
  exact if_pos hn

variable (hn : u.size ≤ u.received)
include hn

theorem updActivate_campaignImage (hk : u.kind = 1) : updActivate src digest b s = (⟨2, 5, 0⟩, s) := by
  unfold updActivate
  rw [holder_some h]
  exact (if_neg (Nat.not_lt.mpr hn)).trans (if_pos hk)

/-- The image is for the primary of a pair whose mirror could take over. -/
abbrev ForReadyPair (u : UpdSession) (s : State) : Prop :=
  u.target = logUnit s ∧ cfg s 0x0901 0 0 1 0 = 1 ∧ mirrorReady s = true

variable (hk : u.kind ≠ 1)
include hk

theorem updActivate_pair (hp : ForReadyPair u s) : updActivate src digest b s = (⟨2, 6, 0⟩, s) := by
  unfold updActivate
  rw [holder_some h]
  exact (if_neg (Nat.not_lt.mpr hn)).trans ((if_neg hk).trans (if_pos hp))

variable (hp : ¬ForReadyPair u s)
include hp

theorem updActivate_window {w : Nat} (hw : boundaryWindow s.work.log.tick.toNat (ofLe (slice b 0 6)) = w) (h0 : w ≠ 0) :
    updActivate src digest b s = (⟨w, 0, 0⟩, s) := by
  unfold updActivate
  rw [holder_some h]
  refine (if_neg (Nat.not_lt.mpr hn)).trans ((if_neg hk).trans ((if_neg hp).trans ?_))
  rw [hw]
  exact if_pos h0

theorem updActivate_pends (hw : boundaryWindow s.work.log.tick.toNat (ofLe (slice b 0 6)) = 0) :
    updActivate src digest b s = (.ok, putSession src (some { u with
      pending := true, boundary := BitVec.ofNat 48 (ofLe (slice b 0 6)), lastTick := s.work.log.tick.setWidth 32 }) s) := by
  unfold updActivate
  rw [holder_some h]
  refine (if_neg (Nat.not_lt.mpr hn)).trans ((if_neg hk).trans ((if_neg hp).trans ?_))
  rw [hw]
  rfl

end Activate

theorem boundaryWindow_early {now bound : Nat} (h : bound < now + 4) : boundaryWindow now bound = 3 := if_pos h

theorem boundaryWindow_late {now bound : Nat} (h : now + 2 ^ 20 < bound) : boundaryWindow now bound = 5 :=
  (if_neg (by omega)).trans (if_pos h)

theorem boundaryWindow_inside {now bound : Nat} (h4 : now + 4 ≤ bound) (hmax : bound ≤ now + 2 ^ 20) :
    boundaryWindow now bound = 0 := (if_neg (Nat.not_lt.mpr h4)).trans (if_neg (Nat.not_lt.mpr hmax))

/-! ### A client that does not hold the lock -/

/-- None of the three messages has an effect for a client that does not hold the lock. -/
theorem exec_of_noHolder {i : Instr} {type : Nat} (ht : type ∈ [0x41, 0x42, 0x43]) (hi : beysynCode i = some (type, m))
    (h : Passes type 3 m x s) (hno : ∀ u, s.cov.upd.session = some u → u.pending = true ∨ u.digest ≠ x.digest) :
    exec i s = .next (kept s (answered type m ⟨2, 2, 0, []⟩ (tookUp m s))) := by
  have hholder := holder_none (s := tookUp m s) hno
  have hdata : updData (Src.c0 m.org) x.digest m.body (tookUp m s) = (⟨2, 2, 0⟩, tookUp m s) := by
    unfold updData
    rw [hholder]
  have hverify : updVerify (Src.c0 m.org) x.digest (tookUp m s) = (⟨2, 2, 0⟩, tookUp m s) := by
    unfold updVerify
    rw [hholder]
  have hactivate : updActivate (Src.c0 m.org) x.digest m.body (tookUp m s) = (⟨2, 2, 0⟩, tookUp m s) := by
    unfold updActivate
    rw [hholder]
  simp only [List.mem_cons, List.not_mem_nil, or_false] at ht
  obtain rfl | rfl | rfl := ht
  · exact exec_passes hi rfl h (serve_effect (updReply_of hdata))
  · exact exec_passes hi rfl h (serve_effect (updReply_of hverify))
  · exact exec_passes hi rfl h (serve_effect (updReply_of hactivate))

/-! ### UPDATE_ABORT -/

theorem exec_updateAbort_passes {status cause index : Nat} {t : State} (h : Passes 0x44 3 m x s)
    (he : updAbort (Src.c0 m.org) (tookUp m s) = (⟨status, cause, index⟩, t)) :
    exec (.updateAbort m) s = .next (kept s (answered 0x44 m ⟨status, cause, index, []⟩ t)) :=
  exec_passes rfl rfl h (serve_effect (updReply_of he))

theorem updAbort_none (hs : s.cov.upd.session = none) : updAbort src s = (⟨6, 0, 0⟩, s) := by
  unfold updAbort
  rw [hs]

theorem updAbort_late (hs : s.cov.upd.session = some u)
    (hl : u.pending = true ∧ u.boundary.toNat < s.work.log.tick.toNat + 4) : updAbort src s = (⟨3, 0, 0⟩, s) := by
  unfold updAbort
  rw [hs]
  exact if_pos hl

theorem updAbort_ends (hs : s.cov.upd.session = some u)
    (hl : ¬(u.pending = true ∧ u.boundary.toNat < s.work.log.tick.toNat + 4)) :
    updAbort src s = (.ok, raise src 0xB002 [0, u.received] (dropVerify (putSession src none s))) := by
  unfold updAbort
  rw [hs]
  exact if_neg hl

/-- Settles O53, message by message. -/
theorem updateMessages : Obligations.UpdateMessages := by
  unfold Obligations.UpdateMessages
  refine ⟨?opening, fun i type m x s ht hi h hno => exec_of_noHolder ht hi h hno, ?data, ?verify, ?activate, ?abort⟩
  case opening =>
    intro m x s h kind target size refusedAs
    refine ⟨exec_updateOpen_malformed h, fun hk h4 hmax => ⟨fun u hs hp => ?_,
      fun hall hc => exec_updateOpen_passes h hk h4 hmax (updOpen_campaign (s := tookUp m s) hall hc),
      fun u hs hp hc => exec_updateOpen_passes h hk h4 hmax (updOpen_pending (s := tookUp m s) hs hp hc),
      fun hs hc => exec_updateOpen_passes h hk h4 hmax (updOpen_opens (s := tookUp m s) hs hc)⟩⟩
    by_cases hd : u.digest = x.digest
    · rw [if_pos hd]
      exact exec_updateOpen_passes h hk h4 hmax (updOpen_held_own (s := tookUp m s) hs hp hd)
    · rw [if_neg hd]
      exact exec_updateOpen_passes h hk h4 hmax (updOpen_held_other (s := tookUp m s) hs hp hd)
  case data =>
    intro m x s u h hs hp hd off data n
    have hholds : Holds u x.digest (tookUp m s) := ⟨hs, hp, hd⟩
    exact ⟨fun ho => exec_updateData_passes h (updData_offset hholds ho),
      fun ho hn => exec_updateData_passes h (updData_beyond hholds ho hn),
      fun ho hn => by
        have hreply := exec_updateData_passes h (updData_takes hholds ho hn)
        rw [withWrite_bytesTaken] at hreply
        exact hreply⟩
  case verify =>
    intro m x s u h hs hp hd
    have hholds : Holds u x.digest (tookUp m s) := ⟨hs, hp, hd⟩
    exact ⟨fun hn => exec_updateVerify_passes h (updVerify_incomplete hholds hn),
      fun hn => by
        have hreply := exec_updateVerify_passes h (updVerify_starts hholds hn)
        rw [verifying_touchSession] at hreply
        exact hreply⟩
  case activate =>
    intro m x s u h hs hp hd bound now refusedAs paired
    have hholds : Holds u x.digest (tookUp m s) := ⟨hs, hp, hd⟩
    exact ⟨fun hn => exec_updateActivate_passes h (updActivate_incomplete hholds hn),
      fun hn hk => exec_updateActivate_passes h (updActivate_campaignImage hholds hn hk), fun hn hk =>
      ⟨fun hpair => exec_updateActivate_passes h (updActivate_pair hholds hn hk hpair),
        fun hpair hearly => exec_updateActivate_passes h
          (updActivate_window hholds hn hk hpair (boundaryWindow_early hearly) (by decide)),
        fun hpair hlate => exec_updateActivate_passes h
          (updActivate_window hholds hn hk hpair (boundaryWindow_late hlate) (by decide)),
        fun hpair h4 hmax => exec_updateActivate_passes h
          (updActivate_pends hholds hn hk hpair (boundaryWindow_inside h4 hmax))⟩⟩
  case abort =>
    intro m x s h
    exact ⟨fun hs => exec_updateAbort_passes h (updAbort_none (s := tookUp m s) hs), fun u hs =>
      ⟨fun hl => exec_updateAbort_passes h (updAbort_late (s := tookUp m s) hs hl),
        fun hl => exec_updateAbort_passes h (updAbort_ends (s := tookUp m s) hs hl)⟩⟩

end Sys2Proof.Machine
end

section
/-!
SUPPORT. What a meter's replies, silence and deadlines do to a campaign and to a tariff (R503 to R512).
-/
namespace Sys2Proof.Machine

open Sys2Proof

variable {s : State}

/-! ### Replies to campaign requests (R506) -/

/-- What the reply to a step of the campaign does to its meter, before the campaign is settled. -/
def campAnswered (c : Campaign) (k : Nat) (s : State) : MeterStep → CampaignReply → State
  | .verify, .refused => failCamp c k 4 s
  | _, .refused => failCamp c k 2 s
  | .initiate, .done => setCamp c k 1 0 0 0 s
  | .sizeCheck, .blockSize n => if n = c.word 6 2 then setCamp c k 2 0 0 1 s else failCamp c k 3 s
  | .poll, .missing l =>
    let lacking := l.filter fun b => decide (b < c.blockCount)
    setCamp c k 2 0 lacking.length c.round { s with
      upd.missing := tput s.upd.missing k lacking
      upd.polled := if s.upd.polled.contains k then s.upd.polled else s.upd.polled ++ [k] }
  | .repair n, .done => { s with
      upd.missing := tput s.upd.missing k (((tget s.upd.missing k).getD []).filter (· != n))
      upd.polled := s.upd.polled.filter (· != k) }
  | .verify, .done => setCamp c k 3 0 0 c.round s
  | .schedule, .done => setCamp c k 4 0 0 c.round s
  | .confirm, .status n => if n = 6 then setCamp c k 5 0 0 c.round s else failCamp c k 5 s
  | _, _ => s

theorem campAnswered_refused {step : MeterStep} (c : Campaign) (k : Nat) (h : step ≠ .verify) (s : State) :
    campAnswered c k s step .refused = failCamp c k 2 s := by
  cases step
  case verify => exact absurd rfl h
  all_goals rfl

section CampaignReply
variable (org : Org) (slot : BitVec 20) (reply : CampaignReply) (hp : Processing s)
include hp

theorem exec_campaignMeterReply_none (h : takeRequest slot.toNat true s = none ∨ s.cov.upd.campaign = none) :
    exec (.campaignMeterReply org slot reply) s = .next s := by
  change execCampaignMeterReply org slot reply s = _
  unfold execCampaignMeterReply
  rw [whenProcessing_on hp]
  dsimp only
  obtain h | h := h
  · rw [h]
    rfl
  · rw [h]
    cases takeRequest slot.toNat true s <;> rfl

variable {r : MeterRequest} {c : Campaign} (hr : takeRequest slot.toNat true s = some r) (hc : s.cov.upd.campaign = some c)
include hr hc

theorem exec_campaignMeterReply_ended (h3 : c.phase = 3) :
    exec (.campaignMeterReply org slot reply) s = .next (dropRequest slot.toNat s) := by
  change execCampaignMeterReply org slot reply s = _
  unfold execCampaignMeterReply
  rw [whenProcessing_on hp]
  dsimp only
  rw [hr, hc]
  exact congrArg (fun t => Host.Outcome.next (kept s t)) (if_pos h3)

theorem exec_campaignMeterReply (h3 : c.phase ≠ 3) : exec (.campaignMeterReply org slot reply) s =
    .next (kept s (settleCampaign (Src.slot slot.toNat org) (campAnswered c slot.toNat (dropRequest slot.toNat s) r.step reply))) := by
  change execCampaignMeterReply org slot reply s = _
  unfold execCampaignMeterReply
  rw [whenProcessing_on hp]
  dsimp only
  rw [hr, hc]
  exact congrArg (fun t => Host.Outcome.next (kept s t)) (if_neg h3)

end CampaignReply

/-! ### Replies to tariff requests (R510) -/

/-- What the reply to a step of the tariff at `pos` does to its meter, before the tariff is settled. -/
def tariffAnswered (t : Tariff) (k pos : Nat) (s : State) : MeterStep → TariffReply → State
  | _, .refused => failTariff t k 2 s
  | .tariffSet 10, .done => setTariff t k 2 0 false s
  | .tariffSet 9, .done => setTariff t k 1 0 false s
  | .tariffSet a, .done => { s with upd.attrs := tput s.upd.attrs (k * 4 + pos) (a + 1) }
  | .tariffConfirm, .name n => if n = slice t.item 8 (t.word 6 1) then setTariff t k 3 0 true s else failTariff t k 5 s
  | _, _ => s

section TariffReply
variable (t : Tariff) (k pos : Nat)

theorem tariffAnswered_refused (step : MeterStep) (s : State) : tariffAnswered t k pos s step .refused = failTariff t k 2 s := by
  cases step <;> rfl

theorem tariffAnswered_attr {a : Nat} (h9 : a ≠ 9) (h10 : a ≠ 10) (s : State) :
    tariffAnswered t k pos s (.tariffSet a) .done = { s with upd.attrs := tput s.upd.attrs (k * 4 + pos) (a + 1) } := by
  unfold tariffAnswered
  split
  all_goals simp_all

end TariffReply

section TariffReplies
variable (org : Org) (slot : BitVec 20) (reply : TariffReply) (hp : Processing s)
include hp

theorem exec_tariffMeterReply_none (h : takeRequest slot.toNat false s = none) :
    exec (.tariffMeterReply org slot reply) s = .next s := by
  change execTariffMeterReply org slot reply s = _
  unfold execTariffMeterReply
  rw [whenProcessing_on hp]
  dsimp only
  rw [h]
  rfl

variable {r : MeterRequest} (hr : takeRequest slot.toNat false s = some r)
include hr

theorem exec_tariffMeterReply_gone (ht : tget s.cov.upd.tariffs r.tariff = none) :
    exec (.tariffMeterReply org slot reply) s = .next (dropRequest slot.toNat s) := by
  change execTariffMeterReply org slot reply s = _
  unfold execTariffMeterReply
  rw [whenProcessing_on hp]
  dsimp only
  rw [hr]
  simp only [ht]
  rfl

theorem exec_tariffMeterReply {t : Tariff} (ht : tget s.cov.upd.tariffs r.tariff = some t) :
    exec (.tariffMeterReply org slot reply) s = .next (kept s (settleTariff (Src.slot slot.toNat org) r.tariff
      (tariffAnswered t slot.toNat r.tariff (dropRequest slot.toNat s) r.step reply))) := by
  change execTariffMeterReply org slot reply s = _
  unfold execTariffMeterReply
  rw [whenProcessing_on hp]
  dsimp only
  rw [hr]
  simp only [ht]
  rfl

end TariffReplies

/-! ### Silence (R508) -/

section Silence
variable (org : Org) (slot : BitVec 20) (hp : Processing s)
include hp

theorem exec_meterRequestTimeout_early
    (h : ∀ r, s.upd.requests.find? (·.slot == slot.toNat) = some r → s.work.log.tick.toNat < r.tick.toNat + 256) :
    exec (.meterRequestTimeout org slot) s = .next s := by
  change execMeterRequestTimeout org slot s = _
  unfold execMeterRequestTimeout
  rw [whenProcessing_on hp]
  dsimp only
  cases hr : s.upd.requests.find? (·.slot == slot.toNat) with
  | none => rfl
  | some r => exact congrArg (fun t => Host.Outcome.next (kept s t)) (if_pos (h r hr))

variable {r : MeterRequest} (hr : s.upd.requests.find? (·.slot == slot.toNat) = some r)
  (hdue : r.tick.toNat + 256 ≤ s.work.log.tick.toNat)
include hr hdue

theorem exec_meterRequestTimeout_repeats (h2 : r.silences < 2) : exec (.meterRequestTimeout org slot) s =
    .next (kept s (sendRequest { r with tick := s.work.log.tick, silences := r.silences + 1 } (dropRequest slot.toNat s))) := by
  change execMeterRequestTimeout org slot s = _
  unfold execMeterRequestTimeout
  rw [whenProcessing_on hp]
  dsimp only
  rw [hr]
  exact congrArg (fun t => Host.Outcome.next (kept s t)) ((if_neg (Nat.not_lt.mpr hdue)).trans (if_pos h2))

variable (h2 : 2 ≤ r.silences)
include h2

theorem exec_meterRequestTimeout_campaign {c : Campaign} (h4 : r.tariff = 4) (hc : s.cov.upd.campaign = some c) :
    exec (.meterRequestTimeout org slot) s =
      .next (kept s (settleCampaign (Src.slot slot.toNat org) (failCamp c slot.toNat 1 (dropRequest slot.toNat s)))) := by
  change execMeterRequestTimeout org slot s = _
  unfold execMeterRequestTimeout
  rw [whenProcessing_on hp]
  dsimp only
  rw [hr]
  refine congrArg (fun t => Host.Outcome.next (kept s t))
    ((if_neg (Nat.not_lt.mpr hdue)).trans ((if_neg (Nat.not_lt.mpr h2)).trans ((if_pos h4).trans ?_)))
  change (match s.cov.upd.campaign with | some c => _ | none => _) = _
  rw [hc]

theorem exec_meterRequestTimeout_tariff {t : Tariff} (h4 : r.tariff ≠ 4) (ht : tget s.cov.upd.tariffs r.tariff = some t) :
    exec (.meterRequestTimeout org slot) s =
      .next (kept s (settleTariff (Src.slot slot.toNat org) r.tariff (failTariff t slot.toNat 1 (dropRequest slot.toNat s)))) := by
  change execMeterRequestTimeout org slot s = _
  unfold execMeterRequestTimeout
  rw [whenProcessing_on hp]
  dsimp only
  rw [hr]
  refine congrArg (fun t => Host.Outcome.next (kept s t))
    ((if_neg (Nat.not_lt.mpr hdue)).trans ((if_neg (Nat.not_lt.mpr h2)).trans ((if_neg h4).trans ?_)))
  change (match tget s.cov.upd.tariffs r.tariff with | some t => _ | none => _) = _
  rw [ht]

end Silence

/-! ### DEADLINE and the activation time (R505, R506, R510) -/

theorem campaignDeadline_open (h : ∀ c, s.cov.upd.campaign = some c → c.phase = 3 ∨ logUtc s.work.log < (c.word 0x40 4 : Int)) :
    campaignDeadline s = s := by
  unfold campaignDeadline
  split
  next => rfl
  next c hc =>
    refine if_neg fun ⟨h3, hd⟩ => ?_
    exact (h c hc).elim h3 fun hlt => (Int.not_le.mpr hlt) hd

theorem campaignDeadline_passed {c : Campaign} (hc : s.cov.upd.campaign = some c) (h3 : c.phase ≠ 3)
    (hd : (c.word 0x40 4 : Int) ≤ logUtc s.work.log) : campaignDeadline s = endCampaign (Src.sweep 0)
      ((c.targets.filter fun k => !campFinal c (campState s c k)).foldl (fun s k => failCamp c k 6 s) s) := by
  unfold campaignDeadline
  rw [hc]
  exact if_pos ⟨h3, hd⟩

/-! ### Outcomes are read (R506, R510) -/

/-- The outcome of a meter may be read now. -/
abbrev OutcomeReady (c : Campaign) (k : Nat) (s : State) : Prop :=
  c.phase ≠ 3 ∧ k ∈ c.targets ∧ campState s c k = 4 ∧ (c.activateAt : Int) + 900 ≤ logUtc s.work.log ∧ requestsLeft s ≠ 0
    ∧ meterIdle s k = true

section Confirm
variable (slot : BitVec 20) (hp : Processing s)
include hp

theorem exec_campaignConfirm_none (hc : s.cov.upd.campaign = none) : exec (.campaignConfirm slot) s = .next s := by
  change execCampaignConfirm slot s = _
  unfold execCampaignConfirm
  rw [whenProcessing_on hp, hc]
  rfl

theorem exec_campaignConfirm_some {c : Campaign} (hc : s.cov.upd.campaign = some c) : exec (.campaignConfirm slot) s =
    .next (kept s (if OutcomeReady c slot.toNat s then sendRequest ⟨slot.toNat, .confirm, 4, s.work.log.tick, 0⟩ s else s)) := by
  change execCampaignConfirm slot s = _
  unfold execCampaignConfirm
  rw [whenProcessing_on hp, hc]
  exact congrArg (fun t => Host.Outcome.next (kept s t)) (if_congr (by rw [List.contains_iff_mem]) rfl rfl)

theorem exec_tariffConfirm : exec (.tariffConfirm slot) s = .next (kept s (s.cov.upd.tariffs.foldl (fun u p =>
    if slot.toNat ∈ p.2.targets ∧ tariffState u p.2 slot.toNat = 2 ∧ (p.2.word 0x10 4 : Int) + 900 ≤ logUtc u.work.log
        ∧ requestsLeft u ≠ 0 ∧ meterIdle u slot.toNat = true then
      sendRequest ⟨slot.toNat, .tariffConfirm, p.1, u.work.log.tick, 0⟩ u
    else u) s)) := by
  change execTariffConfirm slot s = _
  unfold execTariffConfirm
  rw [whenProcessing_on hp]
  simp only [List.contains_iff_mem]

end Confirm

/-! ### One block on the bearers (R507) -/

/-- The block is multicast: the cursor stands behind it. -/
def blockTaken (c : Campaign) (s : State) : State :=
  putCampaign (Src.sweep 0) { c with cursor := c.cursor + 1 } { s with upd.lastBlock := s.work.log.tick }

theorem blockTaken_hasImage (c : Campaign) (s : State) : (blockTaken c s).upd.hasImage = s.upd.hasImage := by
  unfold blockTaken putCampaign
  split <;> rfl

/-- The block's launch on powerline, where the campaign takes that bearer. -/
def blockWired (c : Campaign) (pay : Bytes) (s : State) : State :=
  if testBit (c.word 0x39 1) 0 then
    plcAddLaunch (.stripe (s.work.log.tick + 2) (cfg s 0x0102 0 2 1 0)) 0 0xFFF 0 false pay s
  else s

/-- The block's launches on radio, where the campaign takes that bearer: one on each channel that it names. -/
def blockRadioed (c : Campaign) (pay : Bytes) (s : State) : State :=
  if testBit (c.word 0x39 1) 1 then
    (List.range 4).foldl (fun t i =>
      if c.word (0x44 + 2 * i) 2 = 0xFFFF then t
      else radioAddLaunch (tickStartNs t 2) (chanOf (c.word (0x44 + 2 * i) 2)) 0 0xFFF 0 pay t) s
  else s

/-- One more block is multicast. -/
def multicastCounted (s : State) : State := { s with upd.multicast := s.upd.multicast.inc }

section Multicast
variable (org : Org) (hp : Processing s)
include hp

theorem exec_blockMulticast_waits (h : ∀ c, s.cov.upd.campaign = some c → c.phase ≠ 1 ∨ c.blocks[c.cursor]? = none
    ∨ s.work.log.tick.toNat < s.upd.lastBlock.toNat + cfg s 0x0B01 0 4 2 16) :
    exec (.campaignBlockMulticast org) s = .next s := by
  change execCampaignBlockMulticast org s = _
  unfold execCampaignBlockMulticast
  rw [whenProcessing_on hp]
  cases hc : s.cov.upd.campaign with
  | none => rfl
  | some c =>
    simp only
    cases hn : c.blocks[c.cursor]? with
    | none => rfl
    | some n =>
      have hnot : c.phase ≠ 1 ∨ s.work.log.tick.toNat < s.upd.lastBlock.toNat + cfg s 0x0B01 0 4 2 16 := by
        simpa [hn] using h c hc
      exact congrArg (fun t => Host.Outcome.next (kept s t)) (if_pos hnot)

section Due
variable {c : Campaign} {n : Nat} (hc : s.cov.upd.campaign = some c) (h1 : c.phase = 1) (hn : c.blocks[c.cursor]? = some n)
  (hdue : s.upd.lastBlock.toNat + cfg s 0x0B01 0 4 2 16 ≤ s.work.log.tick.toNat)
include hc h1 hn hdue

theorem exec_blockMulticast_due : exec (.campaignBlockMulticast org) s = .next (kept s (
    let u := blockTaken c s
    let pay := wrapApdu 0 (blockRequest u c n)
    if !u.upd.hasImage then u else multicastCounted (blockRadioed c pay (blockWired c pay u)))) := by
  have hnot : ¬(c.phase ≠ 1 ∨ s.work.log.tick.toNat < s.upd.lastBlock.toNat + cfg s 0x0B01 0 4 2 16) := by
    rintro (h | h)
    · exact h h1
    · exact Nat.not_lt.mpr hdue h
  change execCampaignBlockMulticast org s = _
  unfold execCampaignBlockMulticast
  rw [whenProcessing_on hp, hc]
  dsimp only
  rw [hn]
  exact congrArg (fun t => Host.Outcome.next (kept s t)) (if_neg hnot)

theorem exec_blockMulticast_noImage (hi : s.upd.hasImage = false) :
    exec (.campaignBlockMulticast org) s = .next (kept s (blockTaken c s)) := by
  have hno : (!(blockTaken c s).upd.hasImage) = true := by rw [blockTaken_hasImage, hi]; rfl
  rw [exec_blockMulticast_due org hp hc h1 hn hdue]
  exact congrArg (fun t => Host.Outcome.next (kept s t)) (if_pos hno)

theorem exec_blockMulticast_sends (hi : s.upd.hasImage = true) :
    exec (.campaignBlockMulticast org) s = .next (kept s (
      let pay := wrapApdu 0 (blockRequest (blockTaken c s) c n)
      multicastCounted (blockRadioed c pay (blockWired c pay (blockTaken c s))))) := by
  have hyes : ¬(!(blockTaken c s).upd.hasImage) = true := by rw [blockTaken_hasImage, hi]; decide
  rw [exec_blockMulticast_due org hp hc h1 hn hdue]
  exact congrArg (fun t => Host.Outcome.next (kept s t)) (if_neg hyes)

end Due

end Multicast

/-! ### The statement -/

/-- Outside the processing of a log none of the commands has an effect. -/
theorem exec_outside {i : Instr} (hp : ¬Processing s) (hi : ∃ org slot, (∃ r, i = .campaignMeterReply org slot r)
    ∨ (∃ r, i = .tariffMeterReply org slot r) ∨ i = .meterRequestTimeout org slot ∨ i = .campaignConfirm slot
    ∨ i = .tariffConfirm slot ∨ i = .activateAtPassed ∨ i = .campaignDeadline ∨ i = .campaignBlockMulticast org) :
    exec i s = .next s := by
  obtain ⟨org, slot, ⟨r, rfl⟩ | ⟨r, rfl⟩ | rfl | rfl | rfl | rfl | rfl | rfl⟩ := hi
  · change execCampaignMeterReply org slot r s = _
    exact whenProcessing_off hp
  · change execTariffMeterReply org slot r s = _
    exact whenProcessing_off hp
  · change execMeterRequestTimeout org slot s = _
    exact whenProcessing_off hp
  · change execCampaignConfirm slot s = _
    exact whenProcessing_off hp
  · change execTariffConfirm slot s = _
    exact whenProcessing_off hp
  · exact whenProcessing_off hp
  · exact whenProcessing_off hp
  · change execCampaignBlockMulticast org s = _
    exact whenProcessing_off hp

/-- Settles O55, command by command. -/
theorem campaignsAndTariffs : Obligations.CampaignsAndTariffs := by
  unfold Obligations.CampaignsAndTariffs
  refine ⟨fun i s hp hi => exec_outside hp hi, fun org slot reply s hp h => exec_campaignMeterReply_none org slot reply hp h,
    ?campaignReply, fun org slot reply s hp h => exec_tariffMeterReply_none org slot reply hp h, ?tariffReply,
    fun org slot s hp h => exec_meterRequestTimeout_early org slot hp h, ?silence, fun s hp h => ?beforeDeadline,
    fun c s hp hc h3 hd => ?deadline, fun s hp => ?activation, fun slot s hp => ?campaignOutcome,
    fun slot s hp => exec_tariffConfirm slot hp, fun org s hp h => exec_blockMulticast_waits org hp h,
    fun org c n s hp hc h1 hn hdue => ?multicast⟩
  case campaignReply =>
    intro org slot reply s r c hp hr hc k u gives
    have hexec := exec_campaignMeterReply org slot reply hp hr hc
    refine ⟨exec_campaignMeterReply_ended org slot reply hp hr hc, fun h3 => ?_⟩
    replace hexec := hexec h3
    refine ⟨?notVerified, ?refused, ?initiated, ?sized, ?polled, ?repaired, ?verified, ?scheduled, ?confirmed⟩
    case refused =>
      rintro hstep rfl
      rw [campAnswered_refused c slot.toNat hstep] at hexec
      exact hexec
    case notVerified | initiated | verified | scheduled =>
      rintro hstep rfl
      rw [hstep] at hexec
      exact hexec
    case sized | polled | repaired | confirmed =>
      rintro given hstep rfl
      rw [hstep] at hexec
      exact hexec
  case tariffReply =>
    intro org slot reply s r hp hr k u gives
    refine ⟨exec_tariffMeterReply_gone org slot reply hp hr, fun t ht => ?_⟩
    have hexec := exec_tariffMeterReply org slot reply hp hr ht
    refine ⟨?refused, ?attr, ?profiles, ?scheduled, ?confirmed⟩
    case refused =>
      rintro rfl
      rw [tariffAnswered_refused] at hexec
      exact hexec
    case attr =>
      rintro a hstep rfl h9 h10
      rw [hstep, tariffAnswered_attr _ _ _ h9 h10] at hexec
      exact hexec
    case profiles | scheduled =>
      rintro hstep rfl
      rw [hstep] at hexec
      exact hexec
    case confirmed =>
      rintro n hstep rfl
      rw [hstep] at hexec
      exact hexec
  case silence =>
    intro org slot s r hp hr hdue k u
    exact ⟨exec_meterRequestTimeout_repeats org slot hp hr hdue,
      fun c h2 h4 hc => exec_meterRequestTimeout_campaign org slot hp hr hdue h2 h4 hc,
      fun t h2 h4 ht => exec_meterRequestTimeout_tariff org slot hp hr hdue h2 h4 ht⟩
  case beforeDeadline =>
    exact (whenProcessing_on hp).trans (by rw [campaignDeadline_open h, kept_self])
  case deadline =>
    exact (whenProcessing_on hp).trans (by rw [campaignDeadline_passed hc h3 hd])
  case activation => exact whenProcessing_on hp
  case campaignOutcome =>
    intro k ready
    cases hc : s.cov.upd.campaign with
    | none =>
      refine ⟨fun _ => exec_campaignConfirm_none slot hp hc, ?_⟩
      rintro ⟨c, hc', _⟩
      exact absurd (hc.symm.trans hc') (by simp)
    | some c =>
      have hiff : ready ↔ OutcomeReady c k s := ⟨fun ⟨c', hc', h⟩ => Option.some.inj (hc'.symm.trans hc) ▸ h, fun h => ⟨c, hc, h⟩⟩
      rw [exec_campaignConfirm_some slot hp hc, hiff]
      exact ⟨fun h => by rw [if_neg h, kept_self], fun h => by rw [if_pos h]⟩
  case multicast =>
    intro u pay wired sent
    exact ⟨exec_blockMulticast_noImage org hp hc h1 hn hdue, exec_blockMulticast_sends org hp hc h1 hn hdue⟩

end Sys2Proof.Machine
end
